-- ==== Sys2Proof/Word.lean ====
section
/-! DEFINITION. The word types of the BX8 (02 R4, 03 R62, 04 R84): what the manual adds, shifts or masks is a bit vector. -/

namespace Sys2Proof

/-- One byte of memory or scratchpad (R4). -/
abbrev Byte := BitVec 8
/-- One lane word of a register (R62). -/
abbrev Word := BitVec 32
/-- A 64-bit value: an address, a program counter or a register pair (R65). -/
abbrev Dword := BitVec 64
/-- A lane mask: bit i stands for lane i (R4, R70). -/
abbrev Mask := BitVec 64

/-- The bits [lo+n-1 : lo] of a number, as a number. -/
def bits (x lo n : Nat) : Nat := (x / 2 ^ lo) % 2 ^ n

/-- Bit `i` of a number. -/
def bit (x i : Nat) : Bool := bits x i 1 == 1

end Sys2Proof
end

