-- ==== Sys2Proof/Syntax.lean ====
section
/-! DEFINITION. The instructions and events of the BX8, one constructor per row of spec/opcode_table.json. -/

namespace Sys2Proof

/-- The fields of an X or XL instruction but FAMILY and FUNC (R158, Table 7.7), with the literal of the XL form (R163). -/
structure XF where
  d : Byte := 0
  a : Byte := 0
  b : Byte := 0
  c : Byte := 0
  apat : BitVec 4 := 0
  aparm : BitVec 6 := 0
  asub : BitVec 4 := 0
  wmode : BitVec 2 := 0
  bpat : BitVec 4 := 0
  bparm : BitVec 6 := 0
  bsub : BitVec 4 := 0
  mask : BitVec 4 := 0
  round : BitVec 3 := 0
  type : BitVec 3 := 0
  f : Byte := 0
  lit : Option Dword := none
  deriving DecidableEq, Repr

/-- A team: launch number and team index (R26, R310). -/
structure TeamRef where
  launch : Nat
  team : Nat
  deriving DecidableEq, Repr

/-- A group of a team: partition and group number (R24, R25). -/
structure GroupRef where
  launch : Nat
  team : Nat
  part : Nat
  grp : Nat
  deriving DecidableEq, Repr

/-- A PCIe function: host link, and 0 for the PF or 1 to 64 for a VF (R331, Table 17.5). -/
structure Fn where
  link : Nat
  num : Nat
  deriving DecidableEq, Repr

/-- A virtual device: district and number within it (R300). -/
structure VdevKey where
  district : Nat
  vdev : Nat
  deriving DecidableEq, Repr

/-- A user queue of a virtual device (R297). -/
structure QueueKey where
  district : Nat
  vdev : Nat
  idx : Nat
  deriving DecidableEq, Repr

/-- The control bits of a write to CMD: vector and interrupt on completion (R344). -/
structure MbCtl where
  vector : BitVec 6
  irq : Bool
  deriving DecidableEq, Repr

/-- The quotas of a district (R317, Table 16.8), each in its own unit. -/
structure Quota where
  groupSlots : Nat
  registerRows : Nat
  compactWords : Nat
  scratchRows : Nat
  tiles : Nat
  ropeLanes : Nat
  engineWeight : Nat
  queueSlots : Nat
  capacity : Nat
  slice : Nat
  campInt : Nat
  deriving DecidableEq, Repr

/-- What completes training (R346); a CXL port reports the size of its expander and a peer port the size of the
partner's exported window, or no partner. -/
inductive TrainedUnit where
  | cluster (i : Nat)
  | channel (i : Nat)
  | cxl (i : Nat) (size : Option Nat)
  | peer (i : Nat) (window : Option Nat)
  | hostLink (i : Nat)
  deriving DecidableEq, Repr

/-- The unit whose cycle count READCYC samples (R358). -/
inductive CycleUnit where
  | core (i : Nat)
  | commandCore (i : Nat)
  | channel (i : Nat)
  | cluster (i : Nat)
  | host
  deriving DecidableEq, Repr

/-- What DBGWRITE names: a window location of kinds 0 to 2, or a declared register of any class (R355). -/
inductive DbgTarget where
  | window (kind offset : Nat)
  | register (part grp : Nat) (code : Byte) (lane : Nat)
  deriving DecidableEq, Repr

/-- A storage or link error met by an access (R379, R380): the mechanism or source code, whether it cannot be
corrected, and the location in the terms of the mechanism. -/
structure DataErr where
  mech : Nat
  fatal : Bool
  unit : Nat
  loc : Dword
  deriving DecidableEq, Repr

/-- The four counter classes (R74, Table 3.4). -/
inductive CreditClass where
  | ld
  | st
  | cp
  | tl
  deriving DecidableEq, Repr

/-- What waits for a translation or a link response: a group's instruction, a copy, or an engine operation (R374). -/
inductive Waiter where
  | group (g : GroupRef)
  | copy (t : TeamRef) (copy : Nat)
  | engine (quad : Nat)
  deriving DecidableEq, Repr

/-- An access that reaches device memory from the host aperture or from a peer (R332, R334). -/
inductive BusAccess where
  | read (n : Nat)
  | write (data : List Byte)
  | atomic (op : BitVec 4) (wide : Bool) (b c : Dword)
  deriving DecidableEq, Repr


/-- One constructor per row of the table of operations and events; each docstring is the row's rule. -/
inductive Instr where
  /-- PFX, R157. -/
  | pfx (m : BitVec 4) (w : BitVec 2) (r : BitVec 3) (f : Byte) (next : Word)
  /-- IADD, R179. -/
  | iadd (d : BitVec 8) (a : BitVec 8) (b : BitVec 8)
  /-- ISUB, R179. -/
  | isub (d : BitVec 8) (a : BitVec 8) (b : BitVec 8)
  /-- IMUL, R179. -/
  | imul (d : BitVec 8) (a : BitVec 8) (b : BitVec 8)
  /-- IMAD, R179. -/
  | imad (d : BitVec 8) (a : BitVec 8) (b : BitVec 8)
  /-- AND, R179. -/
  | and (d : BitVec 8) (a : BitVec 8) (b : BitVec 8)
  /-- OR, R179. -/
  | or (d : BitVec 8) (a : BitVec 8) (b : BitVec 8)
  /-- XOR, R179. -/
  | xor (d : BitVec 8) (a : BitVec 8) (b : BitVec 8)
  /-- SHL, R179. -/
  | shl (d : BitVec 8) (a : BitVec 8) (b : BitVec 8)
  /-- SHR, R179. -/
  | shr (d : BitVec 8) (a : BitVec 8) (b : BitVec 8)
  /-- SAR, R179. -/
  | sar (d : BitVec 8) (a : BitVec 8) (b : BitVec 8)
  /-- IMIN, R179. -/
  | imin (d : BitVec 8) (a : BitVec 8) (b : BitVec 8)
  /-- IMAX, R179. -/
  | imax (d : BitVec 8) (a : BitVec 8) (b : BitVec 8)
  /-- IADDI, R179. -/
  | iaddi (d : BitVec 8) (a : BitVec 8) (i : BitVec 8)
  /-- SHLI, R179. -/
  | shli (d : BitVec 8) (a : BitVec 8) (s : BitVec 5)
  /-- SHRI, R179. -/
  | shri (d : BitVec 8) (a : BitVec 8) (s : BitVec 5)
  /-- SARI, R179. -/
  | sari (d : BitVec 8) (a : BitVec 8) (s : BitVec 5)
  /-- ANDI, R179. -/
  | andi (d : BitVec 8) (a : BitVec 8) (i : BitVec 8)
  /-- MOVI, R179. -/
  | movi (d : BitVec 8) (i : BitVec 16)
  /-- MOV, R183. -/
  | mov (d : BitVec 8) (a : BitVec 8)
  /-- FADD, R179. -/
  | fadd (d : BitVec 8) (a : BitVec 8) (b : BitVec 8)
  /-- FSUB, R179. -/
  | fsub (d : BitVec 8) (a : BitVec 8) (b : BitVec 8)
  /-- FMUL, R179. -/
  | fmul (d : BitVec 8) (a : BitVec 8) (b : BitVec 8)
  /-- FFMA, R179. -/
  | ffma (d : BitVec 8) (a : BitVec 8) (b : BitVec 8)
  /-- FMIN, R179. -/
  | fmin (d : BitVec 8) (a : BitVec 8) (b : BitVec 8)
  /-- FMAX, R179. -/
  | fmax (d : BitVec 8) (a : BitVec 8) (b : BitVec 8)
  /-- HADD2, R179. -/
  | hadd2 (d : BitVec 8) (a : BitVec 8) (b : BitVec 8)
  /-- HMUL2, R179. -/
  | hmul2 (d : BitVec 8) (a : BitVec 8) (b : BitVec 8)
  /-- HFMA2, R179. -/
  | hfma2 (d : BitVec 8) (a : BitVec 8) (b : BitVec 8)
  /-- BFMA2, R179. -/
  | bfma2 (d : BitVec 8) (a : BitVec 8) (b : BitVec 8)
  /-- IDP4, R192. -/
  | idp4 (d : BitVec 8) (a : BitVec 8) (b : BitVec 8)
  /-- IDP8, R192. -/
  | idp8 (d : BitVec 8) (a : BitVec 8) (b : BitVec 8)
  /-- SFU, R180. -/
  | sfu (d : BitVec 8) (a : BitVec 8) (f : BitVec 3)
  /-- LD_32, R235. -/
  | ld32 (d : BitVec 8) (a : BitVec 8) (i : BitVec 8)
  /-- ST_32, R235. -/
  | st32 (v : BitVec 8) (a : BitVec 8) (i : BitVec 8)
  /-- LDS_32, R237. -/
  | lds32 (d : BitVec 8) (a : BitVec 8) (i : BitVec 8)
  /-- STS_32, R237. -/
  | sts32 (v : BitVec 8) (a : BitVec 8) (i : BitVec 8)
  /-- BRA, R206. -/
  | bra (o : BitVec 24)
  /-- CALL, R209. -/
  | call (o : BitVec 24)
  /-- RET, R209. -/
  | ret
  /-- EXIT, R211. -/
  | exit
  /-- XFER, R214. -/
  | xfer (s : BitVec 8) (a : BitVec 8) (b : BitVec 8)
  /-- WAIT, R218. -/
  | wait (l : BitVec 4) (s : BitVec 4) (c : BitVec 4) (t : BitVec 4) (u : BitVec 8)
  /-- JOIN, R210. -/
  | join (k : BitVec 4) (s : BitVec 8)
  /-- SPLIT, R210. -/
  | split (k : BitVec 4)
  /-- TFETCH, R224. -/
  | tfetch (d : BitVec 8)
  /-- IADD_BL, R156. -/
  | iaddBl (d a : Byte) (lit : Dword)
  /-- ISUB_BL, R156. -/
  | isubBl (d a : Byte) (lit : Dword)
  /-- IMUL_BL, R156. -/
  | imulBl (d a : Byte) (lit : Dword)
  /-- IMAD_BL, R156. -/
  | imadBl (d b : Byte) (lit : Dword)
  /-- AND_BL, R156. -/
  | andBl (d a : Byte) (lit : Dword)
  /-- OR_BL, R156. -/
  | orBl (d a : Byte) (lit : Dword)
  /-- XOR_BL, R156. -/
  | xorBl (d a : Byte) (lit : Dword)
  /-- SHL_BL, R156. -/
  | shlBl (d a : Byte) (lit : Dword)
  /-- SHR_BL, R156. -/
  | shrBl (d a : Byte) (lit : Dword)
  /-- SAR_BL, R156. -/
  | sarBl (d a : Byte) (lit : Dword)
  /-- IMIN_BL, R156. -/
  | iminBl (d a : Byte) (lit : Dword)
  /-- IMAX_BL, R156. -/
  | imaxBl (d a : Byte) (lit : Dword)
  /-- MOV_BL, R156. -/
  | movBl (d : Byte) (lit : Dword)
  /-- FADD_BL, R156. -/
  | faddBl (d a : Byte) (lit : Dword)
  /-- FSUB_BL, R156. -/
  | fsubBl (d a : Byte) (lit : Dword)
  /-- FMUL_BL, R156. -/
  | fmulBl (d a : Byte) (lit : Dword)
  /-- FFMA_BL, R156. -/
  | ffmaBl (d b : Byte) (lit : Dword)
  /-- FMIN_BL, R156. -/
  | fminBl (d a : Byte) (lit : Dword)
  /-- FMAX_BL, R156. -/
  | fmaxBl (d a : Byte) (lit : Dword)
  /-- LD_32_BL, R233. -/
  | ld32Bl (d a : Byte) (lit : Dword)
  /-- ST_32_BL, R233. -/
  | st32Bl (v a : Byte) (lit : Dword)
  /-- LDS_32_BL, R233. -/
  | lds32Bl (d a : Byte) (lit : Dword)
  /-- STS_32_BL, R233. -/
  | sts32Bl (v a : Byte) (lit : Dword)
  /-- BRA_BL, R156. -/
  | braBl (lit : Dword)
  /-- CALL_BL, R156. -/
  | callBl (lit : Dword)
  /-- IADD_X, R181. -/
  | iaddX (x : XF)
  /-- ISUB_X, R181. -/
  | isubX (x : XF)
  /-- IADDC, R181. -/
  | iaddc (x : XF)
  /-- ISUBB, R181. -/
  | isubb (x : XF)
  /-- IMUL_X, R181. -/
  | imulX (x : XF)
  /-- IMULH_S, R181. -/
  | imulhS (x : XF)
  /-- IMULH_U, R181. -/
  | imulhU (x : XF)
  /-- IMAD_X, R181. -/
  | imadX (x : XF)
  /-- IMIN_X, R181. -/
  | iminX (x : XF)
  /-- IMAX_X, R181. -/
  | imaxX (x : XF)
  /-- IABS, R181. -/
  | iabs (x : XF)
  /-- INEG, R181. -/
  | ineg (x : XF)
  /-- AND_X, R181. -/
  | andX (x : XF)
  /-- OR_X, R181. -/
  | orX (x : XF)
  /-- XOR_X, R181. -/
  | xorX (x : XF)
  /-- ANDN, R181. -/
  | andn (x : XF)
  /-- NOT, R181. -/
  | not (x : XF)
  /-- SHL_X, R181. -/
  | shlX (x : XF)
  /-- SHR_X, R181. -/
  | shrX (x : XF)
  /-- SAR_X, R181. -/
  | sarX (x : XF)
  /-- ROTL, R181. -/
  | rotl (x : XF)
  /-- ROTR, R181. -/
  | rotr (x : XF)
  /-- POPC, R181. -/
  | popc (x : XF)
  /-- CLZ, R181. -/
  | clz (x : XF)
  /-- CTZ, R181. -/
  | ctz (x : XF)
  /-- BREV, R181. -/
  | brev (x : XF)
  /-- BFX, R182. -/
  | bfx (x : XF)
  /-- BFI, R182. -/
  | bfi (x : XF)
  /-- ICMP, R181. -/
  | icmp (x : XF)
  /-- ISEL, R181. -/
  | isel (x : XF)
  /-- LEA, R183. -/
  | lea (x : XF)
  /-- MOV_X, R183. -/
  | movX (x : XF)
  /-- LDI, R163. -/
  | ldi (x : XF)
  /-- FADD_X, R184. -/
  | faddX (x : XF)
  /-- FSUB_X, R184. -/
  | fsubX (x : XF)
  /-- FMUL_X, R184. -/
  | fmulX (x : XF)
  /-- FFMA_X, R184. -/
  | ffmaX (x : XF)
  /-- FMIN_X, R185. -/
  | fminX (x : XF)
  /-- FMAX_X, R185. -/
  | fmaxX (x : XF)
  /-- FABS, R184. -/
  | fabs (x : XF)
  /-- FNEG, R184. -/
  | fneg (x : XF)
  /-- FCMP, R185. -/
  | fcmp (x : XF)
  /-- FSEL, R184. -/
  | fsel (x : XF)
  /-- FCLASS, R184. -/
  | fclass (x : XF)
  /-- FDIV, R184. -/
  | fdiv (x : XF)
  /-- FSQRT, R186. -/
  | fsqrt (x : XF)
  /-- FRCP, R186. -/
  | frcp (x : XF)
  /-- FRSQ, R186. -/
  | frsq (x : XF)
  /-- FEXP2, R186. -/
  | fexp2 (x : XF)
  /-- FLOG2, R186. -/
  | flog2 (x : XF)
  /-- FSINPI, R186. -/
  | fsinpi (x : XF)
  /-- FCOSPI, R186. -/
  | fcospi (x : XF)
  /-- FTANH, R186. -/
  | ftanh (x : XF)
  /-- FSCALE, R186. -/
  | fscale (x : XF)
  /-- CVT, R187. -/
  | cvt (x : XF)
  /-- CVTN, R190. -/
  | cvtn (x : XF)
  /-- PACKN, R190. -/
  | packn (x : XF)
  /-- UNPACKN, R190. -/
  | unpackn (x : XF)
  /-- SCALEB, R191. -/
  | scaleb (x : XF)
  /-- IDP2, R192. -/
  | idp2 (x : XF)
  /-- IDP4_X, R192. -/
  | idp4X (x : XF)
  /-- IDP8_X, R192. -/
  | idp8X (x : XF)
  /-- FDP2, R193. -/
  | fdp2 (x : XF)
  /-- PERM, R194. -/
  | perm (x : XF)
  /-- REDUX, R195. -/
  | redux (x : XF)
  /-- SCAN, R195. -/
  | scan (x : XF)
  /-- VOTE, R196. -/
  | vote (x : XF)
  /-- MATCH, R197. -/
  | matchLanes (x : XF)
  /-- KAND, R198. -/
  | kand (x : XF)
  /-- KOR, R198. -/
  | kor (x : XF)
  /-- KXOR, R198. -/
  | kxor (x : XF)
  /-- KNOT, R198. -/
  | knot (x : XF)
  /-- KMOV, R199. -/
  | kmov (x : XF)
  /-- KPOP, R198. -/
  | kpop (x : XF)
  /-- KFFS, R198. -/
  | kffs (x : XF)
  /-- KSET, R198. -/
  | kset (x : XF)
  /-- BRA_X, R206. -/
  | braX (x : XF)
  /-- BRD, R207. -/
  | brd (x : XF)
  /-- JMPI, R208. -/
  | jmpi (x : XF)
  /-- CALL_X, R209. -/
  | callX (x : XF)
  /-- CALLI, R209. -/
  | calli (x : XF)
  /-- RET_X, R209. -/
  | retX (x : XF)
  /-- SPLIT_X, R210. -/
  | splitX (x : XF)
  /-- JOIN_X, R210. -/
  | joinX (x : XF)
  /-- EXIT_X, R211. -/
  | exitX (x : XF)
  /-- TRAP, R212. -/
  | trap (x : XF)
  /-- BRK, R212. -/
  | brk (x : XF)
  /-- NOP, R213. -/
  | nop (x : XF)
  /-- XFER_X, R214. -/
  | xferX (x : XF)
  /-- XFERA, R215. -/
  | xfera (x : XF)
  /-- BELAY, R216. -/
  | belay (x : XF)
  /-- PARK, R217. -/
  | park (x : XF)
  /-- WAIT_X, R218. -/
  | waitX (x : XF)
  /-- LD, R235. -/
  | ld (x : XF)
  /-- ST, R235. -/
  | st (x : XF)
  /-- LDS, R237. -/
  | lds (x : XF)
  /-- STS, R237. -/
  | sts (x : XF)
  /-- STM, R238. -/
  | stm (x : XF)
  /-- PREF, R239. -/
  | pref (x : XF)
  /-- SPILL, R240. -/
  | spill (x : XF)
  /-- FILL, R240. -/
  | fill (x : XF)
  /-- ATOM, R241. -/
  | atom (x : XF)
  /-- XADD, R243. -/
  | xadd (x : XF)
  /-- XRD, R243. -/
  | xrd (x : XF)
  /-- XCLR, R243. -/
  | xclr (x : XF)
  /-- BIND, R245. -/
  | bind (x : XF)
  /-- UNBIND, R245. -/
  | unbind (x : XF)
  /-- ACQ, R245. -/
  | acq (x : XF)
  /-- TRYACQ, R245. -/
  | tryacq (x : XF)
  /-- REL, R245. -/
  | rel (x : XF)
  /-- FENCE, R246. -/
  | fence (x : XF)
  /-- BARINIT, R247. -/
  | barinit (x : XF)
  /-- BARRIVE, R247. -/
  | barrive (x : XF)
  /-- BARDROP, R247. -/
  | bardrop (x : XF)
  /-- BARWAIT, R248. -/
  | barwait (x : XF)
  /-- SYNCSET, R249. -/
  | syncset (x : XF)
  /-- SYNCW, R249. -/
  | syncw (x : XF)
  /-- BCOPY, R251. -/
  | bcopy (x : XF)
  /-- GATHER, R251. -/
  | gather (x : XF)
  /-- SCATTER, R251. -/
  | scatter (x : XF)
  /-- QFENCE, R253. -/
  | qfence (x : XF)
  /-- MLEASE, R266. -/
  | mlease (x : XF)
  /-- MREL, R266. -/
  | mrel (x : XF)
  /-- MMA, R268. -/
  | mma (x : XF)
  /-- MZERO, R270. -/
  | mzero (x : XF)
  /-- MLD, R271. -/
  | mld (x : XF)
  /-- MST, R271. -/
  | mst (x : XF)
  /-- MCOL, R274. -/
  | mcol (x : XF)
  /-- MPUT, R274. -/
  | mput (x : XF)
  /-- MLINK, R275. -/
  | mlink (x : XF)
  /-- QINIT, R279. -/
  | qinit (x : XF)
  /-- QACC, R280. -/
  | qacc (x : XF)
  /-- QAPL, R281. -/
  | qapl (x : XF)
  /-- QAPR, R281. -/
  | qapr (x : XF)
  /-- QFOLD, R282. -/
  | qfold (x : XF)
  /-- QSTAT, R283. -/
  | qstat (x : XF)
  /-- QCLR, R283. -/
  | qclr (x : XF)
  /-- HHGEN, R284. -/
  | hhgen (x : XF)
  /-- RECRUIT, R220. -/
  | recruit (x : XF)
  /-- ROPEEND, R221. -/
  | ropeend (x : XF)
  /-- ROPERED, R222. -/
  | ropered (x : XF)
  /-- RAND, R200. -/
  | rand (x : XF)
  /-- FMTSET, R201. -/
  | fmtset (x : XF)
  /-- FMTGET, R201. -/
  | fmtget (x : XF)
  /-- TFETCH_X, R224. -/
  | tfetchX (x : XF)
  /-- LAUNCH, R225. -/
  | launch (x : XF)
  /-- SVC, R226. -/
  | svc (x : XF)
  /-- CKPT, R227. -/
  | ckpt (x : XF)
  /-- RDCNT, R228. -/
  | rdcnt (x : XF)
  /-- ILLEGAL_ENCODING, R167. -/
  | illegalEncoding (word : Nat) (lowBit : Nat)
  /-- DEVICE_RESET, R346. -/
  | deviceReset
  /-- UNIT_TRAINED, R346. -/
  | unitTrained (u : TrainedUnit)
  /-- REGISTER_WRITE, R5. -/
  | registerWrite (f : Fn) (off : Nat) (val : Dword)
  /-- KICK, R299. -/
  | kick (f : Fn) (val : Dword)
  /-- VECTOR_COALESCING_WRITE, R327. -/
  | vectorCoalescingWrite (f : Fn) (v : Nat) (val : Dword)
  /-- SETQCB, R345. -/
  | setqcb (f : Fn) (mb : MbCtl) (addr : Dword)
  /-- SETQUOTA, R317. -/
  | setquota (f : Fn) (mb : MbCtl) (district : Nat) (q : Quota)
  /-- SETASID, R341. -/
  | setasid (f : Fn) (mb : MbCtl) (asid : Nat) (root : Dword) (vdev : Option VdevKey)
  /-- INVAL, R342. -/
  | inval (f : Fn) (mb : MbCtl) (asid : Nat) (range : Option (Dword × Nat))
  /-- INVAL_COMPLETE, R342. -/
  | invalComplete (f : Fn)
  /-- APERTURE, R332. -/
  | aperture (f : Fn) (mb : MbCtl) (base : Dword)
  /-- CXLMAP, R333. -/
  | cxlmap (f : Fn) (mb : MbCtl) (port : Nat) (hpa : Dword) (size : Nat)
  /-- PEERWIN, R334. -/
  | peerwin (f : Fn) (mb : MbCtl) (base : Dword) (size : Nat)
  /-- FWLOAD, R348. -/
  | fwload (f : Fn) (mb : MbCtl) (image : Dword)
  /-- DRAIN, R349. -/
  | drain (f : Fn) (mb : MbCtl) (cluster : Nat)
  /-- DRAIN_END, R349. -/
  | drainEnd (cluster : Nat)
  /-- RETRAIN, R350. -/
  | retrain (f : Fn) (mb : MbCtl) (channel : Nat)
  /-- RETRAIN_END, R350. -/
  | retrainEnd (channel : Nat)
  /-- SETPOWER, R351. -/
  | setpower (f : Fn) (mb : MbCtl) (watts : Nat)
  /-- DBGGRANT, R354. -/
  | dbggrant (f : Fn) (mb : MbCtl) (launch : Nat) (ring : Dword) (size : Nat)
  /-- DBGREVOKE, R391. -/
  | dbgrevoke (f : Fn) (mb : MbCtl) (launch : Nat)
  /-- DBGHALT, R355. -/
  | dbghalt (f : Fn) (mb : MbCtl) (launch team : Nat)
  /-- TEAM_HALTED, R355. -/
  | teamHalted (t : TeamRef)
  /-- DBGSTEP, R355. -/
  | dbgstep (f : Fn) (mb : MbCtl) (g : GroupRef)
  /-- DBGRESUME, R355. -/
  | dbgresume (f : Fn) (mb : MbCtl) (launch team : Nat)
  /-- DBGREAD, R355. -/
  | dbgread (f : Fn) (mb : MbCtl) (launch core kind offset n : Nat)
  /-- DBGWRITE, R355. -/
  | dbgwrite (f : Fn) (mb : MbCtl) (launch core : Nat) (target : DbgTarget) (data : List Byte)
  /-- SHADOW, R357. -/
  | shadow (f : Fn) (mb : MbCtl) (launch core part grp : Nat) (code : Byte)
  /-- READCYC, R358. -/
  | readcyc (f : Fn) (mb : MbCtl) (u : CycleUnit)
  /-- SPDM, R353. -/
  | spdm (f : Fn) (mb : MbCtl) (buf : Dword) (len : Nat)
  /-- SPDM_DOE_MESSAGE, R353. -/
  | spdmDoeMessage (f : Fn) (req : List Byte)
  /-- DISTREC, R316. -/
  | distrec (f : Fn) (mb : MbCtl) (district : Nat) (addr : Dword)
  /-- SETVDEV, R300. -/
  | setvdev (f : Fn) (mb : MbCtl) (target : Fn) (vdev : Option VdevKey)
  /-- STOP, R313. -/
  | stop (f : Fn) (mb : MbCtl) (launch : Nat)
  /-- NOP_PACKET, R302. -/
  | nopPacket (q : QueueKey)
  /-- LAUNCH_PACKET, R308. -/
  | launchPacket (q : QueueKey)
  /-- FENCE_PACKET, R304. -/
  | fencePacket (q : QueueKey)
  /-- FENCE_RETEST, R304. -/
  | fenceRetest (q : QueueKey)
  /-- PRED_PACKET, R305. -/
  | predPacket (q : QueueKey)
  /-- SIGNAL_PACKET, R306. -/
  | signalPacket (q : QueueKey)
  /-- COPY_PACKET, R306. -/
  | copyPacket (q : QueueKey)
  /-- COPY_PACKET_COMPLETE, R306. -/
  | copyPacketComplete (q : QueueKey)
  /-- MARK_PACKET, R302. -/
  | markPacket (q : QueueKey)
  /-- WAITPREV_RELEASE, R302. -/
  | waitprevRelease (q : QueueKey)
  /-- FIRMWARE_CORE_FAULT, R393. -/
  | firmwareCoreFault (core : Nat)
  /-- SLICE_BOUNDARY, R314. -/
  | sliceBoundary (district : Nat)
  /-- LAUNCH_PLACEMENT, R319. -/
  | launchPlacement (launch : Nat)
  /-- TEAM_RESUME, R324. -/
  | teamResume (launch : Nat)
  /-- CAMP_INTERVAL, R322. -/
  | campInterval (t : TeamRef)
  /-- CAMP, R82. -/
  | camp (t : TeamRef)
  /-- UNDO_LOG_FULL, R322. -/
  | undoLogFull (core : Nat)
  /-- THERMAL_STEP, R15. -/
  | thermalStep (cluster : Nat) (up : Bool)
  /-- POWER_LIMIT_STEP, R351. -/
  | powerLimitStep (clusters : List Nat)
  /-- CRITICAL_TRIP, R351. -/
  | criticalTrip
  /-- SQUARE_GRANT, R41. -/
  | squareGrant (t : TeamRef) (part : Nat)
  /-- STOP_CONDITION_MET, R40. -/
  | stopConditionMet (g : GroupRef)
  /-- STARVATION_EVENT, R366. -/
  | starvationEvent (t : TeamRef) (part : Nat)
  /-- STARVATION_RESPONSE, R367. -/
  | starvationResponse (t : TeamRef) (part : Nat)
  /-- LOAD_DATA_ARRIVAL, R73. -/
  | loadDataArrival (g : GroupRef) (seq : Nat) (err : Option DataErr)
  /-- STORE_PERFORMED, R112. -/
  | storePerformed (g : GroupRef) (seq : Nat)
  /-- CREDIT_RETIRE, R74. -/
  | creditRetire (g : GroupRef) (cls : CreditClass)
  /-- RELEASE_PERFORMED, R139. -/
  | releasePerformed (g : GroupRef)
  /-- COPY_UNIT_DELIVERY, R118. -/
  | copyUnitDelivery (t : TeamRef) (copy : Nat) (err : Option DataErr)
  /-- COPY_COMPLETE, R251. -/
  | copyComplete (t : TeamRef) (copy : Nat)
  /-- ENGINE_OP_START, R265. -/
  | engineOpStart (quad : Nat)
  /-- ENGINE_OP_COMPLETE, R130. -/
  | engineOpComplete (quad : Nat) (err : Option DataErr)
  /-- LEASE_IDLE_TIMEOUT, R266. -/
  | leaseIdleTimeout (quad : Nat)
  /-- EMULATED_OP_COMPLETE, R95. -/
  | emulatedOpComplete (g : GroupRef)
  /-- SVC_COMPLETE, R226. -/
  | svcComplete (g : GroupRef)
  /-- TEAM_RETIRE, R23. -/
  | teamRetire (t : TeamRef)
  /-- LAUNCH_COMPLETE, R311. -/
  | launchComplete (launch : Nat)
  /-- REPLAY_TIMEOUT, R374. -/
  | replayTimeout (w : Waiter)
  /-- LINK_TIMEOUT, R372. -/
  | linkTimeout (w : Waiter)
  /-- PEER_ACCESS, R334. -/
  | peerAccess (port : Nat) (off : Nat) (acc : BusAccess)
  /-- HOST_APERTURE_ACCESS, R332. -/
  | hostApertureAccess (f : Fn) (off : Nat) (acc : BusAccess)
  /-- VECTOR_DELAY_EXPIRY, R326. -/
  | vectorDelayExpiry (f : Fn) (v : Nat)
  /-- VECTOR_IDLE_FIRE, R326. -/
  | vectorIdleFire (f : Fn) (v : Nat)
  /-- ROW_ACTIVATION_ALERT, R383. -/
  | rowActivationAlert (channel bank row : Nat)
  /-- BANK_BACKOFF_END, R383. -/
  | bankBackoffEnd (channel bank : Nat)
  /-- REFRESH_WINDOW_START, R383. -/
  | refreshWindowStart (channel : Nat)
  /-- PATROL_SCRUB, R379. -/
  | patrolScrub (channel : Nat) (found : List DataErr)
  /-- WALK_COMPLETE, R374. -/
  | walkComplete (w : Waiter)
  /-- UNKNOWN_COMMAND, R344. -/
  | unknownCommand (f : Fn) (mb : MbCtl) (code : Nat)
  /-- RESERVED_PACKET_TYPE, R307. -/
  | reservedPacketType (q : QueueKey)
  /-- VIRTUAL_DEVICE_SCHEDULED, R299. -/
  | virtualDeviceScheduled (v : VdevKey)
  deriving DecidableEq, Repr

end Sys2Proof
end

