-- ==== Sys2Proof/Machine/Encoding.lean ====
section
/-! DEFINITION. What the encoding rules accept in each field of each function (07 R149 to R167, with the field tables of
chapters 8 to 11), and the first field that offends them. -/

namespace Sys2Proof.Machine

/-- Register classes of Table 3.1. -/
inductive Cls where
  | v
  | w
  | s
  | m
  | q
  | special
  | h
  | k
  | t
  | vz
  | reserved
  deriving DecidableEq, Repr

/-- The class of an operand code (Table 3.1). -/
def clsOf (c : Byte) : Cls :=
  let n := c.toNat
  if n < 0x80 then .v else if n < 0xA0 then .w else if n < 0xC0 then .s else if n < 0xC2 then .m
  else if n < 0xC6 then .q else if n < 0xC8 then .reserved else if n < 0xD0 then .special
  else if n < 0xE0 then .h else if n < 0xF0 then .k else if n < 0xF8 then .t
  else if n < 0xFF then .reserved else .vz

/-- What a field of an instruction may hold. -/
inductive Role where
  /-- zero -/
  | zero
  /-- a source: v, w, s, m, a special value, vz, or h in a helper -/
  | src
  /-- a destination: v, w, s, m, vz, or h in a helper -/
  | dst
  /-- a 64-bit source: an even v, w or s pair, or vz (R65) -/
  | srcPair
  /-- a 64-bit destination -/
  | dstPair
  /-- a value stored whole or loaded by SIZE 4: v(4i) to v(4i+3) (Table 10.3) -/
  | quad
  /-- s registers up to a number; `n` consecutive ones are named -/
  | sReg (top : Nat) (even : Bool) (n : Nat)
  /-- a status or token: an s register, or vz, which every register field accepts (Table 3.1) -/
  | status
  | kReg
  /-- k1 to k15 -/
  | kRest
  /-- KMOV's D and A (Table 8.10) -/
  | kmovD
  | kmovA
  /-- RAND's D: v(4i) to v(4i+3), or h0, h4, h8, h12 in a rope (R200) -/
  | randD
  | succ
  | belayCode
  /-- a WAIT count: bits [7:6] zero -/
  | count
  | tile
  | tileOrVz
  | qSlot
  | vReg
  | vOrM
  | vwsReg
  | vws
  | tileOrV
  /-- MMA's C: vz, or v0 to v126 with its successor (R260) -/
  | scales
  | hReg
  /-- ROPERED's D: v or s -/
  | vOrS
  /-- BRA's condition: k, v, w, s or m -/
  | cond
  /-- a mail operand: v, w, s, m, a special value or vz (R214) -/
  | mail
  /-- a bound object address, or vz (MLINK) -/
  | objOrVz
  /-- a target pair: an even v, w or s pair (Table 9.2) -/
  | vwsPair
  /-- zero, and OPERAND otherwise (R272) -/
  | zeroOperand
  deriving DecidableEq, Repr

/-- Sub-select tables (Tables 7.10 and 7.11). -/
inductive SubTab where
  | zero
  | t32
  | t16
  | t8
  deriving DecidableEq, Repr

/-- Rounding fields: 000 only, any mode but SR, any mode. -/
inductive RoundRule where
  | rne
  | noSr
  | any
  deriving DecidableEq, Repr

/-- Write modes: 00 only, those of R162 for the destination, or merge and zero alone (R204). -/
inductive ModeRule where
  | whole
  | reg
  | lanes
  deriving DecidableEq, Repr

/-- The literal of the XL form: none, in place of source C (R163), required with a sign-extended high half, all 64 bits
required, or all 64 bits in place of C. -/
inductive LitRule where
  | no
  | replC
  | need32
  | need64
  | repl64
  deriving DecidableEq, Repr

/-- A part of the F field: its low bit, its width, and the values that are not ILLEGAL_ENCODING. -/
structure Seg where
  lo : Nat
  n : Nat
  ok : Nat → Bool

/-- What one function accepts. -/
structure Sig where
  d : Role := .zero
  a : Role := .zero
  b : Role := .zero
  c : Role := .zero
  types : List Nat := [0]
  pat : Bool := false
  asub : SubTab := .zero
  bsub : SubTab := .zero
  mask : Bool := false
  wmode : ModeRule := .whole
  round : RoundRule := .rne
  lit : LitRule := .no
  segs : List Seg

/-- A part that is zero. -/
def segZ (lo n : Nat) : Seg := { lo := lo, n := n, ok := (· == 0) }
/-- A part that holds any value. -/
def segA (lo n : Nat) : Seg := { lo := lo, n := n, ok := fun _ => true }
/-- A part that holds a value up to a top. -/
def segLe (lo n top : Nat) : Seg := { lo := lo, n := n, ok := (· ≤ top) }

/-- Sub-select table of a TYPE code (Table 7.8). -/
def typeSub (ty : Nat) : SubTab :=
  match ty with
  | 0 => .t32
  | 1 => .t16
  | 2 => .t16
  | 5 => .zero
  | _ => .t8

/-- Element width of a CVT code (Table 7.16). -/
def cvtWidth (code : Nat) : Nat :=
  match code with
  | 0 | 7 | 8 | 11 => 32
  | 1 | 2 | 9 | 10 => 16
  | 3 | 4 => 8
  | _ => 4

/-- Sub-select table of an element width. -/
def widthSub (w : Nat) : SubTab := if w == 32 then .t32 else if w == 16 then .t16 else .t8

/-- Element width of a standard format code (Table 7.14). -/
def stdWidth (code : Nat) : Nat := if code == 0 then 32 else 16

/-- Element width of an MMA format code other than a format register (Table 11.1). -/
def mmaWidth (code : Nat) : Nat :=
  match code with
  | 0 => 32
  | 1 | 2 => 16
  | 3 | 4 => 8
  | _ => 4

/-- An MMA format code is an integer format. -/
def mmaInt (code : Nat) : Bool := 3 ≤ code && code ≤ 6

/-- The MMA codes of F agree (R259). -/
def mmaPairOk (fa fb : Nat) : Bool :=
  fa != 7 && fb != 7 && mmaInt fa == mmaInt fb && (8 ≤ fa || 8 ≤ fb || mmaWidth fa == mmaWidth fb)

/-- The parts of F of a load or store (Tables 7.14 and 10.2). DESIGN CHOICE, log entry 94. -/
def memSegs (scopeTop : Nat) (load : Bool) (f : Nat) (stm : Bool) : List Seg :=
  [segZ 7 1, segLe 4 3 scopeTop,
   { lo := 3, n := 1, ok := fun x => x == 0 || (load && bits f 0 3 < 2) },
   { lo := 0, n := 3, ok := fun x => if stm then x == 2 else x ≤ 4 }]

/-- Roles of a load or store value by SIZE (Table 10.3); vz stands in every register field (Table 3.1).
DEDUCED, log entry 26. -/
def sizeRole (f : Nat) (load : Bool) : Role :=
  match bits f 0 3 with
  | 3 => if load then .dstPair else .srcPair
  | 4 => .quad
  | _ => .dst

/-- Compute functions share the pattern, mask and write-mode fields (R175). -/
def compute (d a b c : Role) (ty : Nat) (types : List Nat) (segs : List Seg) (round : RoundRule := .rne) : Sig :=
  { d := d, a := a, b := b, c := c, types := types, pat := true, asub := typeSub ty,
    bsub := if b == .zero then .zero else typeSub ty, mask := true, wmode := .reg, round := round,
    lit := if c == .src then .replC else .no, segs := segs }

/-- INT functions (Table 8.2). DESIGN CHOICE, log entry 95. -/
def sigInt (func : Nat) (ty f : Nat) : Option Sig :=
  let sat := bit f 4
  let uns := fun (ok : Bool) => { lo := 3, n := 1, ok := fun x => x == 0 || ok : Seg }
  let satUns := [segZ 5 3, segA 4 1, uns sat, segZ 0 3]
  let satOnly := [segZ 5 3, segA 4 1, segZ 0 4]
  let unsOnly := [segZ 4 4, segA 3 1, segZ 0 3]
  let none_ := [segZ 0 8]
  let wide := ty == 5
  let d := if wide then Role.dstPair else .dst
  let s := if wide then Role.srcPair else .src
  match func with
  | 0x00 | 0x01 => some (compute d s s .zero ty [0, 1, 3, 5] satUns)
  | 0x02 | 0x03 => some (compute .dst .src .src .src ty [0] none_)
  | 0x04 => some (compute .dst .src .src .zero ty [0, 1] satUns)
  | 0x05 | 0x06 => some (compute .dst .src .src .zero ty [0] none_)
  | 0x07 => some (compute .dst .src .src .src ty [0, 1] satUns)
  | 0x08 | 0x09 => some (compute .dst .src .src .zero ty [0, 1, 3] unsOnly)
  | 0x0A | 0x0B => some (compute .dst .src .zero .zero ty [0, 1, 3] satOnly)
  | 0x0C | 0x0D | 0x0E | 0x0F => some (compute .dst .src .src .zero ty [0] none_)
  | 0x10 => some (compute .dst .src .zero .zero ty [0] none_)
  | 0x11 | 0x12 | 0x13 => some (compute .dst .src .src .zero ty [0, 1, 3] none_)
  | 0x14 | 0x15 => some (compute .dst .src .src .zero ty [0] none_)
  | 0x16 | 0x17 | 0x18 | 0x19 => some (compute .dst .src .zero .zero ty [0] none_)
  | 0x1A => some (compute .dst .src .src .zero ty [0] unsOnly)
  | 0x1B => some (compute .dst .src .src .zero ty [0] none_)
  | 0x1C => some (compute .dst .src .src .zero ty [0, 1, 3] [segZ 4 4, segA 3 1, segLe 0 3 5])
  | 0x1D => some (compute .dst .src .src .src ty [0] none_)
  | 0x1E => some (compute d s .src .src ty [0, 5] [segZ 4 4, uns wide, segZ 0 3])
  | 0x1F => some (compute d s .zero .zero ty [0, 5] none_)
  | 0x20 => some { d := d, types := [0, 5], mask := true, wmode := .reg, lit := if wide then .need64 else .need32,
                   segs := none_ }
  | _ => none

/-- FLT functions (Table 8.3). -/
def sigFlt (func : Nat) (ty _f : Nat) : Option Sig :=
  let segs := fun (cond : Bool) =>
    [segZ 7 1, { lo := 4, n := 3, ok := fun x => x == 0 || ty == 6 : Seg }, segZ 3 1, if cond then segA 0 3 else segZ 0 3]
  let packed := [0, 1, 2, 6]
  match func with
  | 0x00 | 0x01 | 0x02 => some (compute .dst .src .src .zero ty packed (segs false) .noSr)
  | 0x03 => some (compute .dst .src .src .src ty packed (segs false) .noSr)
  | 0x04 | 0x05 => some (compute .dst .src .src .zero ty packed (segs false))
  | 0x06 | 0x07 => some (compute .dst .src .zero .zero ty packed (segs false))
  | 0x08 => some (compute .dst .src .src .zero ty packed (segs true))
  | 0x09 => some (compute .dst .src .src .src ty packed (segs false))
  | 0x0A => some (compute .dst .src .zero .zero ty [0, 1, 2] (segs false))
  | 0x0B => some (compute .dst .src .src .zero ty [0] (segs false) .noSr)
  | 0x0C | 0x0D | 0x0E => some (compute .dst .src .zero .zero ty [0] (segs false) .noSr)
  | 0x0F | 0x10 | 0x11 | 0x12 | 0x13 => some (compute .dst .src .zero .zero ty [0] (segs false))
  | 0x14 => some (compute .dst .src .src .zero ty [0] (segs false) .noSr)
  | _ => none

/-- CVT functions (R187 to R191). No XL form replaces the C of a rounding SR; PACKN takes a pattern on its B.
DESIGN CHOICE, log entry 113; DESIGN CHOICE, log entry 115. -/
def sigCvt (func : Nat) (round f : Nat) : Option Sig :=
  let sr := round == 4
  let srC := if sr then Role.sReg 28 true 4 else .zero
  let std := bits f 5 2
  let narrowSegs := fun (dir : Seg) => [dir, segLe 5 2 2, segZ 3 2, segA 0 3]
  match func with
  | 0x00 =>
    let sc := bits f 4 4
    let dc := bits f 0 4
    let ws := cvtWidth sc
    let wd := cvtWidth dc
    let pair := wd < ws
    let base := compute .dst .src (if pair then .src else .zero) srC 0 [0]
      [{ lo := 4, n := 4, ok := fun s => (s ≤ 10 && s != dc) || (s == 11 && dc == 0) }, segLe 0 4 10]
      (if sc == 11 then .rne else .any)
    some { base with asub := widthSub ws, bsub := if pair then widthSub ws else .zero, lit := .no }
  | 0x01 =>
    let toNarrow := !bit f 7
    let base := compute .dst .src (if toNarrow then .src else .zero) srC 0 [0] (narrowSegs (segA 7 1)) .any
    let sub := if toNarrow then widthSub (stdWidth std) else .t8
    some { base with asub := sub, bsub := if toNarrow then sub else .zero, lit := .no }
  | 0x02 =>
    let base := compute .dst .src .zero .src 0 [0] (narrowSegs (segZ 7 1)) .any
    some { base with b := srC, asub := widthSub (stdWidth std), bsub := .zero }
  | 0x03 =>
    let base := compute .dst .src .zero .src 0 [0] (narrowSegs { lo := 7, n := 1, ok := (· == 1) }) .noSr
    some { base with asub := .t8 }
  | 0x04 =>
    let base := compute .dst .src .src .zero 0 [0] [segZ 2 6, segLe 0 2 2] .noSr
    some { base with asub := widthSub (stdWidth (bits f 0 2)), bsub := .t8 }
  | _ => none

/-- DOT functions (R192, R193). -/
def sigDot (func : Nat) : Option Sig :=
  let idp := [segZ 3 5, segA 2 1, segA 1 1, segA 0 1]
  match func with
  | 0x00 => some { compute .dst .src .src .src 0 [0] idp with asub := .t16, bsub := .t16 }
  | 0x01 | 0x02 => some { compute .dst .src .src .src 0 [0] idp with asub := .t8, bsub := .t8 }
  | 0x03 => some { compute .dst .src .src .src 0 [0] [segZ 4 4, segA 3 1, segZ 0 3] .noSr with asub := .t16, bsub := .t16 }
  | _ => none

/-- XLANE functions (R194 to R197). -/
def sigXlane (func f : Nat) : Option Sig :=
  let fadd : RoundRule := if bits f 0 4 == 1 then .noSr else .rne
  match func with
  | 0x00 => some (compute .dst .src .src .zero 0 [0] [segZ 0 8])
  | 0x01 => some (compute .dst .src .zero .zero 0 [0] [segZ 5 3, segZ 4 1, segLe 0 4 10] fadd)
  | 0x02 => some (compute .dst .src .zero .zero 0 [0] [segZ 5 3, segA 4 1, segLe 0 4 10] fadd)
  | 0x03 => some (compute (if bits f 0 2 == 2 then .dstPair else .dst) .src .zero .zero 0 [0] [segZ 2 6, segA 0 2])
  | 0x04 => some (compute .dst .src .zero .zero 0 [0] [segZ 0 8])
  | _ => none

/-- MASK functions (Table 8.10). A pattern on a k field is OPERAND, not ILLEGAL_ENCODING (R160).
DEDUCED, log entry 24; DEDUCED, log entry 29. -/
def sigMask (func : Nat) (a : Byte) : Option Sig :=
  let k := fun (d a b : Role) => { d := d, a := a, b := b, pat := true, segs := [segZ 0 8] : Sig }
  match func with
  | 0x00 | 0x01 | 0x02 => some (k .kReg .kReg .kReg)
  | 0x03 => some (k .kReg .kReg .zero)
  | 0x04 =>
    let lanes := clsOf a != .k && clsOf a != .s
    some { k .kmovD .kmovA .zero with mask := lanes, asub := if lanes then .t32 else .zero }
  | 0x05 | 0x06 => some (k .dst .kReg .zero)
  | 0x07 => some { d := .kReg, lit := .need64, segs := [segZ 0 8] }
  | _ => none

/-- CTRL functions (Table 9.2). -/
def sigCtrl (func : Nat) : Option Sig :=
  let z := [segZ 0 8]
  match func with
  | 0x00 => some { a := .cond, lit := .need32, segs := z }
  | 0x01 => some { a := .kReg, lit := .need32, segs := z }
  | 0x02 => some { a := .vwsPair, segs := z }
  | 0x03 => some { lit := .need32, segs := z }
  | 0x04 => some { a := .vwsPair, segs := z }
  | 0x05 => some { segs := z }
  | 0x06 => some { d := .kRest, segs := z }
  | 0x07 => some { d := .succ, a := .kRest, segs := z }
  | 0x08 => some { mask := true, segs := z }
  | 0x09 | 0x0A => some { segs := [segA 0 8] }
  | 0x0B => some { segs := z }
  | _ => none

/-- BATON functions (Table 9.2). -/
def sigBaton (func : Nat) : Option Sig :=
  let z := [segZ 0 8]
  match func with
  | 0x00 => some { d := .succ, a := .mail, b := .mail, segs := z }
  | 0x01 => some { d := .succ, a := .mail, b := .mail, c := .succ, segs := z }
  | 0x02 => some { d := .belayCode, segs := z }
  | 0x03 => some { d := .succ, segs := z }
  | 0x04 => some { d := .succ, a := .count, b := .count, c := .count, segs := [segZ 6 2, segA 0 6] }
  | _ => none

/-- MEM functions (Table 10.2). -/
def sigMem (func f : Nat) : Option Sig :=
  let z := [segZ 0 8]
  match func with
  | 0x00 => some { d := sizeRole f true, a := .srcPair, b := .src, c := .src, mask := true, wmode := .reg, lit := .repl64,
                   segs := memSegs 4 true f false }
  | 0x01 => some { d := sizeRole f false, a := .srcPair, b := .src, c := .src, mask := true, lit := .repl64,
                   segs := memSegs 4 false f false }
  | 0x02 => some { d := sizeRole f true, a := .src, b := .src, c := .src, mask := true, wmode := .reg, lit := .replC,
                   segs := memSegs 2 true f false }
  | 0x03 => some { d := sizeRole f false, a := .src, b := .src, c := .src, mask := true, lit := .replC,
                   segs := memSegs 2 false f false }
  | 0x04 => some { d := .dst, a := .srcPair, b := .src, mask := true, segs := memSegs 4 false f true }
  | 0x05 => some { a := .srcPair, b := .src, c := .src, mask := true, lit := .repl64, segs := z }
  | 0x06 | 0x07 => some { d := .vwsReg, a := .srcPair, c := .src, lit := .repl64, segs := z }
  | _ => none

/-- ATOM functions (R241 to R243). -/
def sigAtom (func f : Nat) : Option Sig :=
  let op := bits f 0 4
  let wide := bit f 7
  let val := if wide then Role.srcPair else .src
  match func with
  | 0x00 => some { d := if wide then .dstPair else .dst, a := .srcPair, b := val, c := if op == 10 then val else .zero,
                   mask := true, wmode := .reg, lit := if op == 10 then .replC else .no,
                   segs := [{ lo := 7, n := 1, ok := fun x => x == 0 || op != 11 }, segLe 4 3 4, segLe 0 4 11] }
  | 0x01 => some { a := .srcPair, b := .src, mask := true, bsub := if bits f 0 2 == 0 then .zero else .t16,
                   segs := [segZ 7 1, segLe 4 3 4, segZ 2 2, segLe 0 2 2] }
  | 0x02 => some { d := .dst, a := .srcPair, mask := true, wmode := .reg, round := .noSr,
                   segs := [segZ 7 1, segLe 4 3 4, segZ 0 4] }
  | 0x03 => some { a := .srcPair, mask := true, segs := [segZ 7 1, segLe 4 3 4, segZ 0 4] }
  | _ => none

/-- SYNC functions (Table 10.5). -/
def sigSync (func : Nat) : Option Sig :=
  let sc := [segZ 7 1, segLe 4 3 4, segZ 0 4]
  let st := [segZ 7 1, segLe 4 3 2, segZ 0 4]
  match func with
  | 0x00 => some { a := .srcPair, b := .srcPair, c := .src, lit := .replC,
                   segs := [segZ 7 1, segLe 4 3 4, segZ 2 2, { lo := 0, n := 2, ok := (· != 0) }] }
  | 0x01 => some { a := .srcPair, segs := sc }
  | 0x02 => some { d := .succ, a := .srcPair, b := .src, c := .status, segs := sc }
  | 0x03 => some { d := .status, a := .srcPair, b := .src, segs := sc }
  | 0x04 => some { a := .srcPair, segs := sc }
  | 0x05 => some { segs := sc }
  | 0x06 => some { a := .srcPair, b := .src, segs := sc }
  | 0x07 | 0x08 => some { d := .status, a := .srcPair, mask := true, segs := sc }
  | 0x09 => some { d := .succ, a := .srcPair, b := .src, c := .status, segs := sc }
  | 0x0A => some { a := .src, b := .src, c := .src, lit := .replC, segs := st }
  | 0x0B => some { d := .succ, a := .src, b := .src, segs := st }
  | _ => none

/-- ASYNC functions (Table 10.7). -/
def sigAsync (func f : Nat) : Option Sig :=
  let sw := if bit f 3 then Role.src else .zero
  match func with
  | 0x00 => some { d := sw, a := .srcPair, b := .srcPair, c := .src, mask := bit f 2,
                   lit := if bit f 4 then .need64 else .replC,
                   segs := [segZ 5 3, segA 4 1, segA 3 1, segA 2 1, segA 0 2] }
  | 0x01 | 0x02 => some { d := sw, a := .srcPair, b := .srcPair, c := .src, mask := true, lit := .replC,
                          segs := [segZ 7 1, segA 5 2, segZ 4 1, segA 3 1, segZ 2 1, segA 0 2] }
  | 0x03 => some { segs := [segZ 4 4, { lo := 0, n := 4, ok := (· != 0) }] }
  | _ => none

/-- MTX functions (Table 11.3). -/
def sigMtx (func : Nat) (c : Byte) (round f : Nat) : Option Sig :=
  let memFmt : Seg := { lo := 0, n := 4, ok := fun x => x ≤ 2 || 8 ≤ x }
  match func with
  | 0x00 => some { segs := [segA 0 8] }
  | 0x01 => some { segs := [segZ 0 8] }
  | 0x02 =>
    let fa := bits f 0 4
    let fb := bits f 4 4
    let scaled := clsOf c != .vz
    -- a scaled pass with an integer code or with FP32 inputs is ILLEGAL_ENCODING (R260)
    let scaleOk := fun code => !scaled || !(mmaInt code || code == 0)
    some { d := .tile, a := .vws, b := .vws, c := .scales, asub := if scaled then .t8 else .zero,
           round := if mmaInt fa then .rne else .noSr,
           segs := [{ lo := 4, n := 4, ok := fun x => mmaPairOk fa x && scaleOk x },
                    { lo := 0, n := 4, ok := fun x => mmaPairOk x fb && scaleOk x }] }
  | 0x03 => some { d := .tile, segs := [segZ 0 8] }
  | 0x04 => some { d := .tile, a := .srcPair, b := .src, segs := [segZ 4 4, memFmt] }
  | 0x05 => some { d := .tile, a := .srcPair, b := .src, c := if round == 4 then .sReg 28 true 4 else .zeroOperand,
                   round := if bits f 0 4 == 0 then .rne else .any, segs := [segZ 4 4, memFmt] }
  | 0x06 => some { d := .vReg, a := .tile, c := .src, lit := .replC, segs := [segZ 0 8] }
  | 0x07 => some { d := .tile, a := .vOrM, c := .src, lit := .replC, segs := [segZ 0 8] }
  | 0x08 => some { d := .tile, a := .objOrVz, segs := [segZ 0 8] }
  | _ => none

/-- ORTH functions (Table 11.3). -/
def sigOrth (func : Nat) : Option Sig :=
  match func with
  | 0x00 => some { d := .qSlot, a := .tile, b := .tileOrVz, segs := [segA 0 8] }
  | 0x01 => some { d := .qSlot, a := .vOrM, b := .sReg 31 false 1, round := .noSr, segs := [segZ 0 8] }
  | 0x02 | 0x03 => some { d := .tileOrV, a := .qSlot, round := .noSr, segs := [segZ 1 7, segA 0 1] }
  | 0x04 => some { d := .qSlot, round := .noSr, segs := [segZ 0 8] }
  | 0x05 => some { d := .sReg 31 false 1, a := .qSlot, segs := [segZ 0 8] }
  | 0x06 => some { d := .qSlot, segs := [segZ 0 8] }
  | 0x07 => some { d := .vReg, a := .vOrM, b := .sReg 30 false 2, round := .noSr, segs := [segZ 6 2, segA 0 6] }
  | _ => none

/-- ROPE, RAND, FMT, WORK and SYS functions. DEDUCED, log entry 24. -/
def sigRest (family func f : Nat) : Option Sig :=
  let z := [segZ 0 8]
  match family, func with
  | 0x0F, 0x00 => some { d := .sReg 31 false 1, mask := true, lit := .need32, segs := [segZ 6 2, segA 0 6] }
  | 0x0F, 0x01 => some { segs := z }
  | 0x0F, 0x02 => some { d := .vOrS, a := .hReg, mask := true, round := if bits f 0 4 == 1 then .noSr else .rne,
                         segs := [segZ 4 4, segLe 0 4 10] }
  | 0x10, 0x00 => some { d := .randD, a := .sReg 30 true 2, b := .srcPair, pat := true, mask := true, wmode := .reg,
                         segs := [segZ 1 7, segA 0 1] }
  | 0x11, 0x00 => some { c := .src, lit := .replC, segs := [segZ 3 5, segA 0 3] }
  | 0x11, 0x01 => some { d := .dst, mask := true, wmode := .reg, segs := [segZ 3 5, segA 0 3] }
  | 0x12, 0x00 => some { d := .sReg 28 false 4, segs := z }
  | 0x12, 0x01 => some { d := .vReg, a := .srcPair, mask := true, wmode := .lanes, segs := z }
  | 0x13, 0x00 => some { d := .sReg 31 false 1, a := .sReg 30 true 2, segs := [segA 0 8] }
  | 0x13, 0x01 => some { segs := z }
  | 0x13, 0x02 => some { d := .sReg 30 true 2, segs := [segA 0 8] }
  | _, _ => none

/-- What a function accepts; `none` for a function code beyond its family's list (R164). -/
def sigOf (family func : Nat) (x : XF) : Option Sig :=
  let ty := x.type.toNat
  let f := x.f.toNat
  let round := x.round.toNat
  match family with
  | 0x01 => sigInt func ty f
  | 0x02 => sigFlt func ty f
  | 0x03 => sigCvt func round f
  | 0x04 => sigDot func
  | 0x05 => sigXlane func f
  | 0x06 => sigMask func x.a
  | 0x07 => sigCtrl func
  | 0x08 => sigBaton func
  | 0x09 => sigMem func f
  | 0x0A => sigAtom func f
  | 0x0B => sigSync func
  | 0x0C => sigAsync func f
  | 0x0D => sigMtx func x.c round f
  | 0x0E => sigOrth func
  | _ => sigRest family func f

/-! ## ILLEGAL_ENCODING -/

/-- A successor code of Table 2.3. -/
def succOk (c : Byte) : Bool := c.toNat ≤ 0x21 || (0x40 ≤ c.toNat && c.toNat ≤ 0x5F)

/-- A D value that BELAY accepts or for which it is OPERAND (R216). -/
def belayOk (c : Byte) : Bool := c.toNat ≤ 0x21 || (0x40 ≤ c.toNat && c.toNat ≤ 0x5F)

/-- Whether a field breaks the encoding rules in its role (R153, R158, R62, R39, R165). -/
def roleIllegal (r : Role) (c : Byte) : Bool :=
  match r with
  | .zero => c != 0
  | .succ => !succOk c
  | .belayCode => !belayOk c
  | .count => bits c.toNat 6 2 != 0
  | _ => clsOf c == .reserved

/-- Whether a sub-select code is reserved (Tables 7.10 and 7.11). -/
def subIllegal (t : SubTab) (code : Nat) : Bool :=
  match t with
  | .zero => code != 0
  | .t32 => 2 < code
  | .t16 => 3 < code
  | .t8 => false

/-- Whether a pattern and its parameter break R160. -/
def patIllegal (used : Bool) (pat parm : Nat) : Bool × Bool :=
  if !used then (pat != 0, parm != 0)
  else (6 < pat, (pat == 0 || pat == 5) && parm != 0)

/-- The high half of a literal is the sign extension of bit 31 (R156). -/
def sextOk (lit : Dword) : Bool := lit == (lit.truncate 32).signExtend 64

/-- A field is used by a role. -/
def Role.used (r : Role) : Bool := r != .zero && r != .zeroOperand

/-- The field that offends first in a list of checks, each a word, a low bit and whether it offends. -/
def firstOf (l : List (Nat × Nat × Bool)) : Option (Nat × Nat) :=
  (l.find? (fun e => e.2.2)).map (fun e => (e.1, e.2.1))

/-- The first part of F that offends, from the top down. -/
def segIllegal (segs : List Seg) (f : Nat) : Option Nat :=
  (segs.find? (fun s => !s.ok (bits f s.lo s.n))).map (·.lo)

/-- Whether the instruction has a literal where the form takes none, or none where it needs one (R163). -/
def litFormBad (r : LitRule) (lit : Option Dword) : Bool :=
  match r, lit with
  | .no, some _ => true
  | .need32, none => true
  | .need64, none => true
  | _, _ => false

/-- Whether the literal's high half breaks R163. -/
def litHighBad (r : LitRule) (lit : Option Dword) : Bool :=
  match r, lit with
  | .need32, some l => !sextOk l
  | .replC, some l => !sextOk l
  | _, _ => false

/-- The role of field C beside a literal: the literal replaces the source (R163). -/
def Sig.roleC (g : Sig) (lit : Option Dword) : Role :=
  match g.lit, lit with
  | .replC, some _ => .zero
  | .repl64, some _ => .zero
  | _, _ => g.c

/-- Whether WMODE breaks R162 (and R295 for an h destination) or R204. -/
def modeIllegal (r : ModeRule) (d : Byte) (mode : Nat) : Bool :=
  match r with
  | .whole => mode != 0
  | .reg => mode == 3 || (mode != 0 && clsOf d != .v && clsOf d != .m)
  | .lanes => mode == 0 || mode == 3 || (clsOf d != .v && clsOf d != .m)

/-- Whether ROUND breaks R87 and the function's table. -/
def roundIllegal (r : RoundRule) (round : Nat) : Bool :=
  match r with
  | .rne => round != 0
  | .noSr => round == 7 || round == 4
  | .any => round == 7

/-- The first field of an X or XL instruction that breaks the encoding rules, as word and lowest bit (Table 18.2);
`none` for a valid encoding. -/
def illegalX (family func : Nat) (x : XF) : Option (Nat × Nat) :=
  if family == 0 || 0x13 < family then some (0, 24)
  else match sigOf family func x with
  | none => some (1, 16)
  | some g =>
    let ap := patIllegal (g.pat && g.a.used) x.apat.toNat x.aparm.toNat
    let bp := patIllegal (g.pat && g.b.used) x.bpat.toNat x.bparm.toNat
    let fseg := segIllegal g.segs x.f.toNat
    firstOf [
      (0, 30, litFormBad g.lit x.lit),
      (0, 16, roleIllegal g.d x.d),
      (0, 8, roleIllegal g.a x.a),
      (0, 0, roleIllegal g.b x.b),
      (1, 24, roleIllegal (g.roleC x.lit) x.c),
      (1, 12, ap.1),
      (1, 6, ap.2),
      (1, 2, subIllegal g.asub x.asub.toNat),
      (1, 0, modeIllegal g.wmode x.d x.wmode.toNat),
      (2, 28, bp.1),
      (2, 22, bp.2),
      (2, 18, subIllegal g.bsub x.bsub.toNat),
      (2, 14, !g.mask && x.mask != 0),
      (2, 11, roundIllegal g.round x.round.toNat),
      (2, 8, !g.types.contains x.type.toNat),
      (2, fseg.getD 0, fseg.isSome),
      (4, 0, litHighBad g.lit x.lit)]

/-! ## The B, BL and PFX forms -/

/-- The roles of the fields A, B and C of a B-form major (Table 7.4); `none` for a major that is illegal. -/
def bRoles (major : Nat) : Option (Role × Role × Role) :=
  match major with
  | 0x0D | 0x0E | 0x0F | 0x10 | 0x11 => some (.dst, .src, .count)
  | 0x13 => some (.dst, .src, .zero)
  | 0x21 => some (.dst, .srcPair, .count)
  | 0x22 => some (.dst, .srcPair, .count)
  | 0x23 => some (.dst, .src, .count)
  | 0x24 => some (.dst, .src, .count)
  | 0x27 | 0x28 => some (.zero, .zero, .zero)
  | 0x29 => some (.succ, .mail, .mail)
  | 0x2D => some (.sReg 28 false 4, .zero, .zero)
  | 0x2B => some (.kRest, .zero, .succ)
  | 0x2C => some (.kRest, .zero, .zero)
  | _ => if 0x01 ≤ major && major ≤ 0x1F then some (.dst, .src, .src) else none

/-- The field of a B-form word that offends first (R152, R153). -/
def illegalB (w : Word) : Option (Nat × Nat) :=
  let major := bits w.toNat 24 6
  let a : Byte := w.extractLsb' 16 8
  let b : Byte := w.extractLsb' 8 8
  let c : Byte := w.extractLsb' 0 8
  match major with
  | 0x25 | 0x26 => none
  | 0x0E | 0x0F | 0x10 =>
    firstOf [(0, 16, roleIllegal .dst a), (0, 8, roleIllegal .src b), (0, 5, bits c.toNat 5 3 != 0)]
  | 0x0D | 0x11 | 0x21 | 0x22 | 0x23 | 0x24 => firstOf [(0, 16, roleIllegal .dst a), (0, 8, roleIllegal .src b)]
  | 0x12 => firstOf [(0, 16, roleIllegal .dst a)]
  | 0x20 => firstOf [(0, 16, roleIllegal .dst a), (0, 8, roleIllegal .src b), (0, 0, 7 < c.toNat)]
  | 0x2A => firstOf [(0, 0, roleIllegal .succ c)]
  | 0x2B => firstOf [(0, 20, bits a.toNat 4 4 != 0), (0, 8, b != 0), (0, 0, roleIllegal .succ c)]
  | 0x2C => firstOf [(0, 20, bits a.toNat 4 4 != 0), (0, 8, b != 0), (0, 0, c != 0)]
  | _ =>
    match bRoles major with
    | none => some (0, 24)
    | some (ra, rb, rc) =>
      firstOf [(0, 16, roleIllegal ra a), (0, 8, roleIllegal rb b), (0, 0, roleIllegal rc c)]

/-- The majors that take the BL form (Table 7.5). -/
def blMajor (major : Nat) : Bool :=
  (0x01 ≤ major && major ≤ 0x0C) || (0x14 ≤ major && major ≤ 0x19) || major == 0x13
    || (0x21 ≤ major && major ≤ 0x26)

/-- The field of a BL-form instruction that offends first (R156). -/
def illegalBL (w : Word) (lit : Dword) : Option (Nat × Nat) :=
  let major := bits w.toNat 24 6
  let a : Byte := w.extractLsb' 16 8
  let b : Byte := w.extractLsb' 8 8
  let c : Byte := w.extractLsb' 0 8
  let high := !sextOk lit
  if !blMajor major then some (0, 30)
  else match major with
  | 0x13 => firstOf [(0, 16, roleIllegal .dst a), (0, 8, b != 0), (0, 0, c != 0), (2, 0, high)]
  | 0x25 | 0x26 => firstOf [(0, 16, a != 0), (0, 8, b != 0), (0, 0, c != 0), (2, 0, high)]
  | 0x21 | 0x22 => firstOf [(0, 16, roleIllegal .dst a), (0, 8, roleIllegal .src b), (0, 0, c != 0)]
  | _ => firstOf [(0, 16, roleIllegal .dst a), (0, 8, roleIllegal .src b), (0, 0, c != 0), (2, 0, high)]

/-- A major that PFX accepts (R157). -/
def pfxMajor (major : Nat) : Bool := 0x01 ≤ major && major ≤ 0x20

/-- The word after a PFX is a B-form word of major 0x01 to 0x20 (R157). DEDUCED, log entry 23. -/
def pfxNextOk (next : Word) : Bool := bits next.toNat 30 2 == 0 && pfxMajor (bits next.toNat 24 6)

/-- The accumulate majors, whose addend FOURTH names (Table 7.6). -/
def accMajor (major : Nat) : Bool := major == 0x04 || major == 0x17 || (0x1C ≤ major && major ≤ 0x1F)

/-- The field of a PFX and its B-form word that offends first: word 0 is the PFX (Table 7.6, R180).
DEDUCED, log entry 23. -/
def illegalPfx (m : BitVec 4) (w : BitVec 2) (r : BitVec 3) (f : Byte) (low : Nat) (next : Word) : Option (Nat × Nat) :=
  let major := bits next.toNat 24 6
  let a : Byte := next.extractLsb' 16 8
  let rounds := (0x14 ≤ major && major ≤ 0x1D && major != 0x18 && major != 0x19)
    || (major == 0x20 && bits next.toNat 0 8 ≤ 2)
  let _ := m
  (firstOf [
    (0, 18, 2 ≤ w.toNat || (w == 1 && clsOf a != .v && clsOf a != .m)),
    (0, 15, if rounds then r == 7 || r == 4 else r != 0),
    (0, 7, if accMajor major then clsOf f == .reserved else f != 0),
    (0, 0, low != 0)]).orElse
  (fun _ => (illegalB next).map (fun e => (1, e.2)))

end Sys2Proof.Machine
end

