-- ==== Sys2Proof/Config.lean ====
section
/-! DEFINITION. What the manual leaves open: free values with no body, which no proof can evaluate, and the fixed sizes
of the module. -/

namespace Sys2Proof.Config

/-- Free value: the device's P-384 identity key, as its public bytes (17 R353). DESIGN CHOICE, log entry 60. -/
opaque identityKey : List Byte
/-- Free value: the certificate chain to a Thrumco root (17 R353). DESIGN CHOICE, log entry 60. -/
opaque certificateChain : List Byte
/-- Free value: the version of the boot ROM (17 R353). DESIGN CHOICE, log entry 60. -/
opaque bootRomVersion : List Byte
/-- Free value: the digest of the image that the boot ROM loads (17 R352, R353). DESIGN CHOICE, log entry 60. -/
opaque bootImageDigest : List Byte
/-- Free value: the digest of the cluster-control firmware (17 R353). DESIGN CHOICE, log entry 60. -/
opaque clusterControlDigest : List Byte
/-- Free value: the SHA-384 digest of some bytes (17 R353). DESIGN CHOICE, log entry 60. -/
opaque sha384 : List Byte → List Byte
/-- Free value: the response of the SPDM responder, from the identity key, the certificate chain, the measurements by index, a
fresh number and the request (17 R353 names the requests, not the messages). DESIGN CHOICE, log entry 60. -/
opaque spdmResponse : List Byte → List Byte → List (Nat × List Byte) → Nat → List Byte → List Byte
/-- Free value: the digest of the firmware image at an address (17 R352, R353). DESIGN CHOICE, log entry 79. -/
opaque imageDigest : List Host.Cell → Nat → List Byte
/-- Free value: whether the ECDSA P-384 signature of the image whose bytes start at an address verifies (17 R352). The
argument holds the memory that the image is read from. DESIGN CHOICE, log entry 79. -/
opaque signatureValid : List Host.Cell → Nat → Bool
/-- Free value: the length in bytes of the firmware image at an address (17 R352; its container is not laid out).
DESIGN CHOICE, log entry 79. -/
opaque imageLength : List Host.Cell → Nat → Nat
/-- Free value: the security version of the firmware image at an address (17 R352). DESIGN CHOICE, log entry 79. -/
opaque imageVersion : List Host.Cell → Nat → Nat
/-- Free value: whether the ECDSA P-384 signature of the boot image verifies at a reset (17 R352; the image's place is not
given). DEDUCED, log entry 4. -/
opaque bootSignatureValid : Nat → Bool
/-- Free value: the length in bytes of the boot image at a reset (17 R352). DEDUCED, log entry 4. -/
opaque bootImageLength : Nat → Nat
/-- Free value: the security version of the boot image at a reset (17 R352). DEDUCED, log entry 4. -/
opaque bootImageVersion : Nat → Nat
/-- Cores of the device (01 R12). -/
def cores : Nat := 512
/-- LPDDR6 capacity in bytes (01 R18). -/
def lpddrBytes : Nat := 768 * 2 ^ 30
/-- CXL physical space in bytes (17 R333). -/
def cxlBytes : Nat := 8 * 2 ^ 40
/-- Undo log of a core in bytes (16 R322). -/
def undoLogBytes : Nat := 128 * 2 ^ 10
/-- Base of the window aperture (03 R78). -/
def windowBase : Nat := 0x0070000000000000

end Sys2Proof.Config
end

