-- ==== Sys2Proof/Machine/State.lean ====
section
/-! DEFINITION. The state of the machine as plain data, the reasons a step can stop, and the state after reset. -/

namespace Sys2Proof.Machine

/-! ## Registers, paths and masks -/

/-- Shape tag of a register or result (R66). -/
inductive Tag where
  | u
  | a
  | g
  deriving DecidableEq, Repr

/-- Spill packings of R80, Table 3.10. -/
inductive Packing where
  | u
  | a
  | g8
  | g16
  | g32
  deriving DecidableEq, Repr

/-- A v, w, s, m or h register (R62, R66): the shape tag with base and stride, and the stored lane words of a v, m or h
register (a lane past the end of the list holds 0). `poison` marks the lane words of R380; `sources` gives the
POISON source of a marked lane word whose mark came over a link. `spill` is the spill tag of R80. DESIGN CHOICE, log entry 32. -/
structure Reg where
  tag : Tag := .u
  base : Word := 0
  stride : Word := 0
  lanes : List Word := []
  poison : Mask := 0
  sources : List (Nat × Nat) := []
  spill : Packing := .u
  deriving DecidableEq, Repr

/-- A k register with its rejoin depth, `none` for the value none (R46, R70). -/
structure KMask where
  mask : Mask := 0
  depth : Option Nat := none
  deriving DecidableEq, Repr

/-- The JOIN at which a path is parked: its k register, its successor code and the PC after it (R45). -/
structure JoinPark where
  k : Nat
  succ : Byte
  next : Dword
  deriving DecidableEq, Repr

/-- A path: the lanes that share one PC (R43), and the JOIN at which they are parked, if any (R45). -/
structure Path where
  pc : Dword
  mask : Mask
  join : Option JoinPark := none
  deriving DecidableEq, Repr

/-- The nine group states in the order of Table 2.2 (R29). -/
inductive GState where
  | ready
  | holding
  | waiting
  | heldWaiting
  | parked
  | lent
  | leaderSuspended
  | faulted
  | exited
  deriving DecidableEq, Repr

/-- A mailbox's flags (R68) and the last writer that MAIL_EMPTY reports (Table 18.2; 0xFF for none).
DESIGN CHOICE, log entry 3. -/
structure Mailbox where
  full : Bool := false
  ovr : Bool := false
  writer : Byte := 0xFF
  deriving DecidableEq, Repr

/-! ## Outstanding operations -/

/-- The code, INNER, ADDRESS and LANES of a fault record (R359, R360). -/
structure FaultInfo where
  code : Nat
  inner : Nat := 0
  address : Dword := 0
  lanes : Mask := 0
  deriving DecidableEq, Repr

/-- Where a byte lives: translated memory, a team's scratchpad or tiles in its first or second core, or a group's
registers, or the binding of its q slots as window kind 3 shows it (Table 5.1, R78). -/
inductive Space where
  | phys
  | scratch (t : TeamRef) (core : Nat)
  | tile (t : TeamRef) (core : Nat)
  | reg (g : GroupRef)
  | slots (t : TeamRef) (core : Nat)
  deriving DecidableEq, Repr

/-- One byte of a store that is not yet performed (R112). -/
structure StoreByte where
  space : Space
  addr : Nat
  val : Byte
  deriving DecidableEq, Repr

/-- What the arrival of an LD-class result writes (R73): lane words of one register with a poison mark each, a whole
register (FILL, uniform loads, TFETCH, QSTAT), or words of one helper register of the group's rope. A mark is the source
of the poison. -/
inductive Deliver where
  | lanes (code : Byte) (vals : List (Nat × Word × Option Nat))
  | whole (code : Byte) (r : Reg)
  | helper (h : Nat) (vals : List (Nat × Word × Option Nat))
  deriving DecidableEq, Repr

/-- An LD-class operation in flight (R74, Table 3.4). -/
structure LdOp where
  seq : Nat
  pc : Dword
  delivers : List Deliver
  done : Bool := false
  fail : Option FaultInfo := none
  /-- a MCOL or QSTAT whose data the engine has not produced (R274, R283) -/
  engine : Bool := false
  /-- an LDS, which consumes what it reads (R380) -/
  lds : Bool := false
  /-- the place from which each word of the result comes, by register code and lane (R347, R380) -/
  srcs : List (Byte × Nat × Space × Nat) := []
  deriving DecidableEq, Repr

/-- An ST-class operation in flight (R74). `marks` holds the places whose poison it carries with their sources (R380). -/
structure StOp where
  seq : Nat
  pc : Dword
  scope : Nat
  bytes : List StoreByte
  marks : List (Space × Nat × Nat) := []
  irrevocable : Bool := false
  done : Bool := false
  fail : Option FaultInfo := none
  deriving DecidableEq, Repr

/-- A CP-class operation in flight: one copy (R74, R251). -/
structure CpOp where
  seq : Nat
  pc : Dword
  copy : Nat
  done : Bool := false
  fail : Option FaultInfo := none
  deriving DecidableEq, Repr

/-- A row first written since the camp (R322). -/
inductive LogKey where
  | regRow (part grp code row : Nat)
  | scratchRow (core row : Nat)
  | tileRow (core tile row : Nat)
  deriving DecidableEq, Repr

/-- A TL-class operation in flight (R74, R261); `dests` are the interlocked v and s results of R261, and `logs` and
`sectors` what it may still add to the undo log (R322). -/
structure TlOp where
  seq : Nat
  pc : Dword
  dests : List Byte := []
  tiles : List Nat := []
  logs : List LogKey := []
  sectors : List Nat := []
  done : Bool := false
  fail : Option FaultInfo := none
  deriving DecidableEq, Repr

/-- A failed operation whose credit has retired and that no WAIT has surfaced (R218, R364). -/
structure RetiredFail where
  cls : CreditClass
  seq : Nat
  pc : Dword
  info : FaultInfo
  deriving DecidableEq, Repr

/-! ## Stops, holds and ropes -/

/-- The stopping instructions (R39) with the operands their re-test needs (R218, R245, R248, R249). -/
inductive Stop where
  | wait (ld st cp tl : Nat)
  | park
  | join
  | acq (obj : Dword) (gen : Word) (status : Byte)
  | barwait (obj : Dword) (token : Word) (status : Byte)
  | syncw (addr : Word) (gen : Word)
  deriving DecidableEq, Repr

/-- A stopped instruction: what it waits for, its PC and the PC after it. -/
structure StopRec where
  what : Stop
  pc : Dword
  next : Dword
  /-- what a re-test of the step that met the condition found (R245, R249): a status of Table 10.6, or 256 and the KIND
  of an object that does not suit -/
  res : Option Nat := none
  deriving DecidableEq, Repr

/-- The releases that wait for the group's earlier accesses (R139, R225, R246). -/
inductive ReleaseKind where
  | rel
  | fence
  | barrive
  | bardrop
  | launch
  deriving DecidableEq, Repr

/-- Why a HOLDING group does not issue its next instruction (R74, R139, R204, R261, R264, R275, R322, R347, R374, R95).
`retry` covers a full counter, a full reservation table, a linked tile and an interlocked register: the instruction
issues again when one of the group's operations completes; `channel` waits for a channel to become ready; `link` has the host
interface's clock at which the access began; `camp` is a CKPT whose camp has not been taken (R227).
DEDUCED, log entry 15. -/
inductive Hold where
  | retry
  | release (kind : ReleaseKind) (x : XF)
  | emulated (family func : Nat) (x : XF) (len : Nat)
  | svc (d : Byte) (service : Nat) (arg : Dword) (next : Dword)
  | xlate
  | channel
  | undoLog
  | link (seq : Nat) (va : Dword) (lanes : Mask) (since : Nat)
  | camp
  deriving DecidableEq, Repr

/-- A replayable translation failure that has written its record (R374). -/
structure Replay where
  clk : Nat
  va : Dword
  level : Nat
  lanes : Mask := 0
  /-- an INVAL that covers the address makes the walker walk again -/
  rewalk : Bool := false
  deriving DecidableEq, Repr

/-- One ROPERED contribution (R53, R222): leader register, operation, rounding, and the helpers' values. -/
structure Contribution where
  reg : Byte
  op : Nat
  round : Nat
  vals : List (Nat × Word)
  deriving DecidableEq, Repr

/-- A lender of a rope other than the leader's group, with the state it held at RECRUIT (R51). -/
structure Lender where
  group : GroupRef
  prior : GState
  deriving DecidableEq, Repr

/-- An active rope (R49 to R55). `used` counts each helper's instructions against the budget of R54. -/
structure Rope where
  n : Nat
  positions : List Nat
  lenders : List Lender
  leaderLane : Nat
  recruitPc : Dword
  nextPc : Dword
  hregs : List Reg
  ks : List KMask
  paths : List Path
  ended : Mask := 0
  contributions : List Contribution := []
  used : List Nat
  /-- undo-log bytes that the rope's own writes took (R322, R369) -/
  logBytes : Nat := 0
  /-- its writes alone filled the undo log (R322) -/
  alone : Bool := false
  pinned : Bool := false
  deriving DecidableEq, Repr

/-! ## Groups and teams -/

/-- A group of a team (R29, R62 to R77). `regs` lists the registers written since team start by operand code; an
unlisted register holds zero with tag U (R64). The counters of R74 are the lengths of `ld`, `st`, `cp` and `tl`. -/
structure Group where
  state : GState := .ready
  slot : Option Nat := none
  width : Nat := 16
  live : Mask := 0
  deadPc : List (Nat × Dword) := []
  paths : List Path := []
  regs : List (Nat × Reg) := []
  ks : List KMask := []
  fmt : List Word := []
  m0 : Mailbox := {}
  m1 : Mailbox := {}
  flags : BitVec 5 := 0
  stalls : List (Nat × Nat) := []
  belay : Byte := 0x21
  stack : List Dword := []
  depth : Nat := 0
  edited : Bool := false
  nextSeq : Nat := 0
  ld : List LdOp := []
  st : List StOp := []
  cp : List CpOp := []
  tl : List TlOp := []
  fails : List RetiredFail := []
  links : List (Nat × Dword) := []
  stop : Option StopRec := none
  hold : Option Hold := none
  replay : Option Replay := none
  rope : Option Rope := none
  readyAt : Nat := 0
  /-- it issues its next instruction in the clock `readyAt`, and in no later one, if it may issue then (R32, R41, R286) -/
  prompt : Bool := false
  busyUntil : Nat := 0
  heldSince : Nat := 0
  stopped : Bool := false
  faultPc : Dword := 0
  halted : Bool := false
  /-- a DBGSTEP whose instruction has not completed -/
  stepDue : Option (Fn × MbCtl) := none
  deriving DecidableEq, Repr

/-- A team's share of one partition (R30, R38, R41, R366): its groups, the slots of the batons in the square with the clock
from which each may be granted, the last recipient, the clock of the last grant, the clock and the slot of the last delivery,
and the starvation count. -/
structure Part where
  groups : List Group := []
  square : List (Nat × Nat) := []
  lastRecipient : Nat := 0
  lastGrant : Option Nat := none
  lastGive : Option (Nat × Nat) := none
  /-- the clock of the last test of a stop condition that held (R219) -/
  lastStop : Option Nat := none
  starve : Nat := 0
  /-- the starvation event of this run of the condition has been raised -/
  starved : Bool := false
  /-- the host interface's clock at that event (R367) -/
  starvedAt : Nat := 0
  deriving DecidableEq, Repr

/-- The binding of a q slot: tiles tA and tB (R277, R279). -/
structure QBind where
  tA : Nat
  tB : Option Nat
  deriving DecidableEq, Repr

/-- A team's share of one core: scratchpad bytes in physical order, tiles of 4,096 words (an empty list is all zero), q
slots, and the poison marks of scratch words and tile elements (R72, R113, R277, R380). -/
structure CoreShare where
  scratch : List Host.Cell := []
  tiles : List (Nat × List Word) := []
  qs : List (Nat × QBind) := []
  scratchPoison : List Nat := []
  tilePoison : List Nat := []
  deriving DecidableEq, Repr

/-- A copy in flight: the fields of Table 10.9 (R255) and its progress (R251, R254). `after` holds the copies that a
QFENCE puts before it (R127, R253). -/
structure Copy where
  id : Nat
  seq : Nat
  pc : Dword
  func : Nat
  f : Byte
  part : Nat
  grp : Nat
  sync : Option Word
  dst : Dword
  src : Dword
  bytes : Nat
  lit : Dword
  set : Mask
  idx : List Nat
  delivered : Nat := 0
  started : Bool := false
  outbound : Bool := false
  after : List Nat := []
  fail : Option FaultInfo := none
  overrun : Option FaultInfo := none
  replay : Option Replay := none
  /-- its next unit waits for room in the undo log -/
  logWait : Bool := false
  /-- the host interface's clock at which the access of its next unit began -/
  since : Nat := 0
  deriving DecidableEq, Repr

/-- What a camp records of a team and a rollback restores (R81, R387, R388); `unlisted` counts the owned locks that the
list had no room for. -/
structure TeamState where
  parts : List Part := []
  cores : List CoreShare := []
  cursor : Nat := 0
  locks : List Dword := []
  unlisted : Nat := 0
  copies : List Copy := []
  nextCopy : Nat := 0
  fences : List (Nat × List Nat) := []
  deriving DecidableEq, Repr

/-- A memory sector in the undo log (R322): the offsets of the bytes that the team has written with what they held before,
and the sector's mark. DEDUCED, log entry 100. -/
structure UndoSector where
  sector : Nat
  old : List (Nat × Byte)
  poison : Option Nat
  deriving DecidableEq, Repr

/-- Why a camp is due (R133, R136, R322, R355, R361). The first three let no group issue until the camp is taken. -/
inductive CampReason where
  | irrevocable
  | received
  | fault
  | debug
  | periodic
  | ckpt
  | logFull
  deriving DecidableEq, Repr

/-- A placed team (R23 to R26, R318, R322). -/
structure Team where
  ref : TeamRef
  core : Nat
  pair : Bool
  district : Nat
  cls : Nat
  share : Nat
  /-- the share of the camp's baton record -/
  campShare : Nat
  order : Nat
  saved : Bool := false
  cur : TeamState := {}
  camp : TeamState := {}
  undo : List UndoSector := []
  log : List LogKey := []
  logBad : Bool := false
  campDue : Option CampReason := none
  rollDue : Bool := false
  /-- the rollback due is that of a rope which met a full undo log (R322) -/
  logRoll : Bool := false
  lastCamp : Nat := 0
  haltDue : Bool := false
  deriving DecidableEq, Repr

/-! ## Launches -/

/-- The kernel descriptor (R172, Table 7.21). -/
structure Desc where
  width16 : Nat := 1
  groups : Nat := 1
  nv : Nat := 0
  nw : Nat := 0
  ns : Nat := 0
  helpers : Bool := false
  lend : Bool := false
  pair : Bool := false
  budget : Nat := 0
  tiles : Nat := 0
  orth : Nat := 0
  belay : Nat := 0x80
  calls : Nat := 0
  scratch : Nat := 0
  entry : Dword := 0
  callArea : Dword := 0
  fmt : List Word := []
  regions : List (Nat × Nat) := []
  deriving DecidableEq, Repr

/-- Where a launch stands (R309, R319, R323, R311). -/
inductive LaunchPhase where
  | admitted
  | running
  | saved
  deriving DecidableEq, Repr

/-- An admitted, uncompleted launch (R308 to R311). -/
structure Launch where
  num : Nat
  queue : QueueKey
  cls : Nat
  childQ : Nat
  split : Bool
  x : Nat
  y : Nat
  z : Nat
  iters : Nat
  argLen : Nat
  args : Dword
  descAddr : Dword
  desc : Desc
  faultQ : Dword
  blockRec : Dword
  save : Dword
  n : Nat
  order : Nat
  phase : LaunchPhase := .admitted
  faulted : Bool := false
  edited : Bool := false
  /-- the clusters ready at admission (R26) -/
  clu : BitVec 8 := 0
  /-- the host interface's clock at the launch's latest start or resumption -/
  since : Nat := 0
  /-- nanoseconds that thermal control has taken from it (R330) -/
  loss : Nat := 0
  /-- the district whose ranges it borrows (R320) -/
  borrow : Option Nat := none
  /-- the order of admission reached when its borrowed ranges were reclaimed (R390) -/
  reclaimed : Option Nat := none
  /-- a pre-emption in progress, with its reason of Table 16.7, or 9 for a reclaim (R320) -/
  preempt : Option Nat := none
  /-- the reason of the latest pre-emption -/
  savedBy : Nat := 0
  stopDue : Option (Fn × MbCtl) := none
  deriving DecidableEq, Repr

/-! ## The quad engine -/

/-- An element format latched by an engine operation: a standard code of Table 7.14 or a format record (R201). -/
inductive ElemFmt where
  | std (code : Nat)
  | record (r : Word)
  deriving DecidableEq, Repr

/-- An engine operation with the operands it read at issue (R293). DEDUCED, log entry 18. -/
inductive EngOp where
  | mlease (n : Nat)
  | mma (t : Nat) (a b : Word) (fa fb : ElemFmt) (scales : Option (List Word × List Word)) (sel round : Nat)
  | mzero (t : Nat)
  | mld (t : Nat) (ep : Dword) (pitch : Nat) (fmt : ElemFmt)
  | mst (t : Nat) (ep : Dword) (pitch : Nat) (fmt : ElemFmt) (round : Nat) (sr : List Word)
  | mcol (v : Byte) (t c : Nat) (exec : Mask)
  | mput (t : Nat) (vals : List Word) (c : Nat)
  | qinit (q tA : Nat) (tB : Option Nat) (cap policy : Nat)
  | qacc (q : Nat) (vals : List Word) (tau : Word) (round : Nat)
  | qapTile (left : Bool) (x q : Nat) (t : Bool) (round : Nat)
  | qapReg (left : Bool) (v : Byte) (vals : List Word) (exec : Mask) (q : Nat) (t : Bool) (round : Nat)
  | qfold (q round : Nat)
  | qstat (s : Byte) (q : Nat)
  | qclr (q : Nat)
  | hhgen (v : Byte) (vals : List Word) (exec : Mask) (j : Nat) (sT : Byte) (round : Nat)
  deriving DecidableEq, Repr

/-- An entry of a reservation table (R264): `tiles` are those the operation names (R292). -/
structure EngEntry where
  age : Nat
  group : GroupRef
  core : Nat
  seq : Nat
  pc : Dword
  op : EngOp
  tiles : List Nat
  lanes : Mask
  outbound : Bool := false
  replay : Option Replay := none
  /-- the rows that an MLD or MST that waits for a translation has moved -/
  row : Nat := 0
  deriving DecidableEq, Repr

/-- A quad engine (R264 to R266). -/
structure Engine where
  entries : List EngEntry := []
  busy : Option Nat := none
  lease : Option (TeamRef × Nat) := none
  idle : Nat := 0
  nextAge : Nat := 0
  /-- the host interface's clock at which the operation in progress started -/
  since : Nat := 0
  deriving DecidableEq, Repr

/-! ## The device around the cores -/

/-- The device's live copy of a queue control block (R297, Table 16.1) with the work that WAITPREV waits for (R302), and
how many packets of a THEN arm are still to be skipped before the ELSE arm runs (R305; DEDUCED, log entry 63). -/
structure Queue where
  key : QueueKey
  ringBase : Dword := 0
  ringSize : Nat := 16
  rdIdx : Word := 0
  wrIdx : Word := 0
  prio : Nat := 0
  ageStep : Nat := 0
  age : Nat := 0
  state : Nat := 0
  slot : Option Nat := none
  entry : Nat := 0
  errCode : Nat := 0
  errField : Nat := 0
  pkIdx : Word := 0
  condMask : BitVec 16 := 0
  pkind : Nat := 0
  armLeft : Nat := 0
  skipLeft : Nat := 0
  placed : Nat := 0
  evicted : Nat := 0
  preempted : Nat := 0
  repaid : Nat := 0
  deferred : Nat := 0
  admitted : Nat := 0
  waiting : Bool := false
  earlier : List Nat := []
  skipNow : Nat := 0
  deriving DecidableEq, Repr

/-- What the command complex or a core does for a launch once a channel is ready (R347): bytes to write at a virtual or a physical
address, an addition to a counter of a district record, an entry of a route book, a record of a fault queue, an event record,
or a kick. DEDUCED, log entry 110. -/
inductive Late where
  | bytes (asid link va : Nat) (bytes : List Byte)
  | phys (pa : Nat) (bytes : List Byte)
  | count (district off n : Nat)
  | route (district : Nat) (bytes : List Byte)
  | record (asid link queue : Nat) (bytes : List Byte)
  | event (ring size : Nat) (bytes : List Byte)
  | kick (k : QueueKey)
  deriving DecidableEq, Repr

/-- A COPY packet in progress on the hub die (R306). -/
structure HubCopy where
  queue : QueueKey
  dst : Dword
  src : Dword
  bytes : Nat
  deriving DecidableEq, Repr

/-- One MSI-X vector's coalescing (R326, R327, Table 16.12). `due` is the clock of the host interface by which the oldest
pending completion fires it, and `idleFor` counts the clocks for which the queue of its last SIGNAL has been idle. -/
structure Vector where
  t : BitVec 8 := 0x20
  d : BitVec 16 := 0x1000
  pending : Nat := 0
  due : Nat := 0
  last : Option QueueKey := none
  idleFor : Nat := 0
  deriving DecidableEq, Repr

/-- The management mailbox of a function (R344, Table 17.4). `out` is RESULT, and `sample` the whole of a command's results.
DESIGN CHOICE, log entry 2; DESIGN CHOICE, log entry 108. -/
structure MailboxRegs where
  cmd : Word := 0
  args : List Host.Cell := []
  busy : Bool := false
  done : Bool := false
  result : Nat := 0
  out : List Byte := []
  sample : List Byte := []
  deriving DecidableEq, Repr

/-- A PCIe function's registers (R327, R332, R344). DESIGN CHOICE, log entry 2. -/
structure FnState where
  fn : Fn
  mailbox : MailboxRegs := {}
  vectors : List (Nat × Vector) := []
  msix : List Host.Cell := []
  deriving DecidableEq, Repr

/-- A virtual device's binding and kick page (R298, R300, R341, R345). -/
structure Vdev where
  key : VdevKey
  fn : Fn
  qcbTable : Dword := 0
  asid : Nat := 0
  scheduled : Bool := true
  pending : Mask := 0
  deriving DecidableEq, Repr

/-- Group slots, register rows and scratchpad rows, in the units of Table 16.8: what a district can lend (R320). -/
structure Ranges where
  slots : Nat := 0
  rows : Nat := 0
  scratch : Nat := 0
  deriving DecidableEq, Repr

/-- A district (R316, R317, R320). `peak` is the most of its own ranges that it has used in this slice, and `spare` what it
left unused for the whole of the last one and lends. -/
structure District where
  quota : Quota
  quotaDue : Option Quota := none
  record : Option Dword := none
  lastSlice : Nat := 0
  peak : Ranges := {}
  spare : Ranges := {}
  deriving DecidableEq, Repr

/-- READY0 to READY3 (R346, Tables 17.6 and 17.7); DONE stays set (R347). -/
structure ReadyRegs where
  clu : BitVec 8 := 0
  cc : BitVec 8 := 0
  cxl : BitVec 4 := 0
  peer : BitVec 16 := 0
  link : BitVec 2 := 0
  trip : Bool := false
  chan : BitVec 192 := 0
  done : Bool := false
  deriving DecidableEq, Repr

/-- The last-error record (R381, Table 19.4). DESIGN CHOICE, log entry 2. -/
structure LastError where
  mech : Nat := 0
  kind : Nat := 0
  unit : Nat := 0
  loc : Dword := 0
  cycle : Nat := 0
  seq : Nat := 0
  deriving DecidableEq, Repr

/-- A channel's row-activation registers, row counts and backed-off banks (R383, Table 19.5).
DESIGN CHOICE, log entry 2. -/
structure RowAct where
  alerts : Word := 0
  rfms : Word := 0
  bank : BitVec 4 := 0
  row : BitVec 20 := 0
  cycle : Word := 0
  counts : List ((Nat × Nat) × Nat) := []
  backoff : List Nat := []
  deriving DecidableEq, Repr

/-- A debug right over a launch (R354, R356). -/
structure DebugRight where
  launch : Nat
  fn : Fn
  ring : Dword
  size : Nat
  deriving DecidableEq, Repr

/-- An INVAL that has not completed (R342). -/
structure Inval where
  fn : Fn
  mb : MbCtl
  asid : Nat
  range : Option (Dword × Nat)
  deriving DecidableEq, Repr

/-- A firmware image as a command-complex core holds it (R348, R352, R353). DESIGN CHOICE, log entry 2. -/
structure FwImage where
  addr : Dword := 0
  version : Nat := 0
  digest : List Byte := []
  deriving DecidableEq, Repr

/-- A command-complex core that is being reloaded or reset (R348, R393): whether another core has taken its queues and
districts, and the FWLOAD command that it serves. DESIGN CHOICE, log entry 105. -/
structure Reload where
  core : Nat
  taken : Bool := false
  job : Option (Fn × MbCtl × Dword) := none
  deriving DecidableEq, Repr

/-- An interrupt that has left the device (R326, R344, R392). DESIGN CHOICE, log entry 71. -/
structure Irq where
  fn : Fn
  vector : Nat
  deriving DecidableEq, Repr

/-- What moves next where the manual leaves the order to timing (R396): a group issues, an event of the table takes
place, or a clock advances: 0 to 7 a cluster's, 8 the host interface's, 16 to 23 a command-complex core's, from 32 a
channel's. Two more have no row in the table: a virtual device is descheduled (R299), and a row of a bank of a channel is
activated (R383). DESIGN CHOICE, log entry 106; DESIGN CHOICE, log entry 107. -/
inductive Act where
  | issue (g : GroupRef)
  | event (i : Instr)
  | tick (clock : Nat)
  | deschedule (v : VdevKey)
  | activate (channel bank row : Nat)
  deriving DecidableEq, Repr

/-- The whole machine. `asyncSeq` numbers what the async engines (0 to 511) and the quad engines (from 512) report (R359),
`serving` names the core that serves a district other than its own (R348), and `late` holds what waits for a channel (R347).
`marks` holds the group of each program mark by the core and the number of its entry (R226), and `blockSeqs` the sequence
number of each group's block record (R358).
DEDUCED, log entry 103; DEDUCED, log entry 124.
`agenda`, `cur`, `free`, `doomed` and `steps` are the model's own: the acts that come next, the group whose instruction runs,
the counter that free values read, the groups that another instruction of this clock has found FAULTED (R361), and for a sync
word the clock, the core, the partition and the slot of its latest step (R287). -/
structure State where
  mem : List Host.Cell := []
  memPoison : List (Nat × Nat) := []
  clocks : List Nat := [0, 0, 0, 0, 0, 0, 0, 0]
  hostClk : Nat := 0
  ccClk : List Nat := [0, 0, 0, 0, 0, 0, 0, 0]
  chanClk : List (Nat × Nat) := []
  freq : List Nat := [1100, 1100, 1100, 1100, 1100, 1100, 1100, 1100]
  freqSince : List Nat := [0, 0, 0, 0, 0, 0, 0, 0]
  power : Nat := 2200
  ready : ReadyRegs := {}
  cxlSize : List (Nat × Nat) := []
  peerSize : List (Nat × Nat) := []
  coreSeq : List (Nat × Nat) := []
  ccSeq : List (Nat × Nat) := []
  cluSeq : List (Nat × Nat) := []
  asyncSeq : List (Nat × Nat) := []
  chanSeq : List (Nat × Nat) := []
  errs : List (Nat × (Word × Word)) := []
  lastError : LastError := {}
  rowAct : List (Nat × RowAct) := []
  fns : List FnState := []
  vdevs : List Vdev := []
  queues : List Queue := []
  hubCopies : List HubCopy := []
  late : List Late := []
  districts : List District := []
  launchCount : Word := 0
  launches : List Launch := []
  teams : List Team := []
  nextOrder : Nat := 0
  engines : List (Nat × Engine) := []
  asids : List (Nat × Dword) := []
  apertures : List (Nat × Dword) := []
  cxlMap : List (Nat × (Dword × Nat)) := []
  peerWin : Option (Dword × Nat) := none
  fw : List (Nat × FwImage) := []
  fwMin : Nat := 0
  reloads : List Reload := []
  serving : List (Nat × Nat) := []
  rights : List DebugRight := []
  eventSeq : List (Nat × Nat) := []
  invals : List Inval := []
  drains : List (Nat × Fn × MbCtl) := []
  retrains : List (Nat × Nat × Fn × MbCtl) := []
  replies : List (Nat × List Byte) := []
  irqs : List Irq := []
  marks : List ((Nat × Nat) × GroupRef) := []
  blockSeqs : List (GroupRef × Nat) := []
  agenda : List Act := []
  cur : GroupRef := { launch := 0, team := 0, part := 0, grp := 0 }
  free : Nat := 0
  doomed : List GroupRef := []
  steps : List ((Space × Nat) × Nat × Nat × Nat × Nat) := []
  deriving DecidableEq, Repr

/-! ## Stops of the model -/

/-- Why the model stops. -/
inductive Fault where
  /-- Raised by a meaning when `State.cur` names no group of a team that is in its core. No step of the machine
  reaches it, because a step runs an instruction only for a group it has found. Safe: the machine has no such issue. -/
  | noIssuer
  deriving DecidableEq, Repr

/-- Why the model has no meaning to give. -/
inductive Refusal where
  /-- Raised by an arm of `exec` whose instruction has no meaning yet. Safe: the run stops. -/
  | notModelled (mnemonic : String)
  deriving DecidableEq, Repr

/-! ## Reset -/

/-- District 0's quotas after reset (R398), every one at its limit of Table 16.8. -/
def Quota.full : Quota :=
  { groupSlots := 8, registerRows := 8, compactWords := 8, scratchRows := 8, tiles := 8, ropeLanes := 63,
    engineWeight := 64, queueSlots := 128, capacity := 384, slice := 1000, campInt := 20 }

/-- The quotas of districts 1 to 7 after reset (R398). -/
def Quota.none : Quota :=
  { groupSlots := 0, registerRows := 0, compactWords := 0, scratchRows := 0, tiles := 0, ropeLanes := 0,
    engineWeight := 0, queueSlots := 0, capacity := 0, slice := 1000, campInt := 20 }

/-- The machine right after reset: every READY bit clear (R346), the quotas of R398, the power limit at its default
(R351), no launch, no binding, memory with nothing listed.
DESIGN CHOICE, log entry 1; DESIGN CHOICE, log entry 2. -/
def State.reset : State :=
  { districts := { quota := Quota.full } :: List.replicate 7 { quota := Quota.none } }

end Sys2Proof.Machine
end

