-- ==== Sys2Proof/Machine/Mem.lean ====
section
/-! DEFINITION. Memory as a canonical list of bytes, its poison marks, and address translation (02 R4, 17 R335 to R341). -/

namespace Sys2Proof.Machine

/-! ## Bytes -/

/-- What a byte that nothing has written reads as: the reset contents of the scratchpad (R309), and the model's choice
for memory. DESIGN CHOICE, log entry 1. -/
def unlistedByte : Byte := 0

/-- The canonical form of a byte list: addresses strictly rising, no byte equal to `unlistedByte`.
DESIGN CHOICE, log entry 1. -/
def Memory.wf : List Host.Cell → Bool
  | [] => true
  | [c] => c.2 != unlistedByte
  | c :: d :: t => c.2 != unlistedByte && decide (c.1 < d.1) && Memory.wf (d :: t)

/-- The byte at an address. -/
def cellRead : List Host.Cell → Nat → Byte
  | [], _ => unlistedByte
  | c :: t, a => if a = c.1 then c.2 else cellRead t a

/-- A list without the byte at an address. -/
def cellErase (l : List Host.Cell) (a : Nat) : List Host.Cell := l.filter (fun c => c.1 != a)

/-- Puts a byte at its place in a list that has none at its address. -/
def cellInsert : List Host.Cell → Nat → Byte → List Host.Cell
  | [], a, v => [(a, v)]
  | c :: t, a, v => if a < c.1 then (a, v) :: c :: t else c :: cellInsert t a v

/-- Writes one byte: the list stays in its canonical form, and a byte equal to `unlistedByte` is not listed. -/
def cellWrite (l : List Host.Cell) (a : Nat) (v : Byte) : List Host.Cell :=
  if v = unlistedByte then cellErase l a else cellInsert (cellErase l a) a v

/-- Writes bytes at rising addresses. -/
def cellWrites (l : List Host.Cell) (a : Nat) : List Byte → List Host.Cell
  | [] => l
  | v :: vs => cellWrites (cellWrite l a v) (a + 1) vs

/-- `n` bytes at rising addresses. -/
def cellReads (l : List Host.Cell) (a n : Nat) : List Byte := (List.range n).map (fun i => cellRead l (a + i))

/-- The number that little-endian bytes hold (R4). -/
def leNat : List Byte → Nat
  | [] => 0
  | b :: bs => b.toNat + 256 * leNat bs

/-- The little-endian bytes of a number (R4). -/
def leBytes (n : Nat) : Nat → List Byte
  | 0 => []
  | k + 1 => BitVec.ofNat 8 n :: leBytes (n / 256) k

/-- A little-endian number of `n` bytes. -/
def cellLe (l : List Host.Cell) (a n : Nat) : Nat := leNat (cellReads l a n)

/-! ## Keyed lists -/

/-- The value under a key, or a default. -/
def lookupD {α β : Type} [DecidableEq α] (l : List (α × β)) (k : α) (d : β) : β :=
  match l with
  | [] => d
  | e :: t => if e.1 = k then e.2 else lookupD t k d

/-- Replaces the value under a key, or appends it. -/
def insertKey {α β : Type} [DecidableEq α] (l : List (α × β)) (k : α) (v : β) : List (α × β) :=
  match l with
  | [] => [(k, v)]
  | e :: t => if e.1 = k then (k, v) :: t else e :: insertKey t k v

/-- Removes a key. -/
def eraseKey {α β : Type} [DecidableEq α] (l : List (α × β)) (k : α) : List (α × β) := l.filter (fun e => e.1 ≠ k)

/-! ## Poison marks of a register (R380) -/

/-- The source of the mark of a lane word, 0 for a storage error. -/
def Reg.srcOf (r : Reg) (l : Nat) : Nat := lookupD r.sources l 0

/-- Marks a lane word with the source of its poison. -/
def Reg.mark (r : Reg) (l src : Nat) : Reg :=
  { r with
    poison := r.poison ||| (1#64 <<< l)
    sources := if src == 0 then eraseKey r.sources l else insertKey r.sources l src }

/-- Marks some lane words. -/
def Reg.marked (r : Reg) (ms : List (Nat × Nat)) : Reg := ms.foldl (fun r m => r.mark m.1 m.2) r

/-- Clears the marks of some lane words. -/
def Reg.unmarked (r : Reg) (ls : List Nat) : Reg :=
  { r with
    poison := ls.foldl (fun m l => m &&& ~~~(1#64 <<< l)) r.poison
    sources := r.sources.filter (fun e => !ls.contains e.1) }

/-- Sets element `i` of a list in which an element that is not listed is `d`. -/
def setPad {α : Type} (l : List α) (i : Nat) (v d : α) : List α :=
  match l, i with
  | [], 0 => [v]
  | [], i + 1 => d :: setPad [] i v d
  | _ :: t, 0 => v :: t
  | x :: t, i + 1 => x :: setPad t i v d

/-- Applies a function to element `i` of a list. -/
def modAt {α : Type} (l : List α) (i : Nat) (f : α → α) : List α :=
  match l, i with
  | [], _ => []
  | x :: t, 0 => f x :: t
  | x :: t, i + 1 => x :: modAt t i f

/-- Inserts an element before the first one that it precedes. -/
def insertBy {α : Type} (le : α → α → Bool) (x : α) : List α → List α
  | [] => [x]
  | y :: t => if le x y then x :: y :: t else y :: insertBy le x t

/-- Sorts a list; equal elements keep their order. -/
def sortBy {α : Type} (le : α → α → Bool) : List α → List α
  | [] => []
  | x :: t => insertBy le x (sortBy le t)

/-! ## Lanes -/

/-- Bit `l` of a mask. -/
def laneBit (m : Mask) (l : Nat) : Bool := m.getLsbD l

/-- The mask of the lanes below `n` that satisfy a test. -/
def maskOf (n : Nat) (p : Nat → Bool) : Mask :=
  (List.range n).foldl (fun m l => if p l then m ||| (1#64 <<< l) else m) 0

/-- The lanes of a mask below `n`, ascending. -/
def lanesOf (n : Nat) (m : Mask) : List Nat := (List.range n).filter (fun l => laneBit m l)

/-- The lowest lane of a mask, or 64. -/
def lowLane (m : Mask) : Nat := ((List.range 64).find? (fun l => laneBit m l)).getD 64

/-- The number of lanes of a mask. -/
def popMask (m : Mask) : Nat := (lanesOf 64 m).length

/-- Every lane below `n`. -/
def fullMask (n : Nat) : Mask := maskOf n (fun _ => true)

/-! ## Numbering (R13) -/

/-- The cluster of a device core. -/
def clusterOf (core : Nat) : Nat := core / 64
/-- The device quad of a device core. -/
def quadOf (core : Nat) : Nat := core / 4

/-- The local cycle count of a core: its cluster's clock (R11, R14). -/
def State.clk (s : State) (core : Nat) : Nat := s.clocks.getD (clusterOf core) 0

/-! ## Poison of memory (R380) -/

/-- The source of the poison of a sector, 0 for a storage error of LPDDR6; `none` when clean. -/
def State.sectorPoison (s : State) (key : Nat) : Option Nat := (s.memPoison.find? (fun e => e.1 == key / 32)).map (·.2)

/-- Marks a sector. -/
def State.poisonSector (s : State) (key src : Nat) : State :=
  { s with memPoison := insertKey s.memPoison (key / 32) src }

/-- Clears the mark of a sector that has been written whole. -/
def State.cleanSector (s : State) (key : Nat) : State := { s with memPoison := eraseKey s.memPoison (key / 32) }

/-! ## Translation -/

/-- The key of a physical byte: one range of 2^52 for each of LPDDR6, CXL and system memory (Table 17.1). -/
def physKey (mtype pa : Nat) : Nat := mtype * 2 ^ 52 + pa

/-- The physical space of a key. -/
def keyType (key : Nat) : Nat := key / 2 ^ 52

/-- A translation: the key of the byte, the rights of the entry, bit 0 RD, bit 1 W, bit 2 X (Table 19.1), and the inner code
of the LINK with which the access ends once it is permitted (R372, R373). -/
structure Xlat where
  key : Nat
  rights : Nat
  link : Option Nat := none
  deriving DecidableEq, Repr

/-- Why an address has no translation: XLATE with the level of Table 19.1 and whether it is replayable (R374), or none yet,
since the walk waits for the channel of an entry (R347). -/
inductive XErr where
  | xlate (level : Nat) (replay : Bool)
  | wait
  deriving DecidableEq, Repr

/-- An address space as an access uses it: its ASID, and the host link that carries the virtual device (R341, R335). -/
structure VSpace where
  asid : Nat := 0
  link : Nat := 0
  deriving DecidableEq, Repr

/-- The LPDDR6 channel of a physical address: units of 2 KiB over the 192 channels (R19). DEDUCED, log entry 96. -/
def chanOf (pa : Nat) : Nat := pa / 2048 % 192

/-- The channel of a byte is ready; only LPDDR6 has channels (R347). DEDUCED, log entry 110. -/
def State.keyReady (s : State) (key : Nat) : Bool := keyType key != 0 || s.ready.chan.getLsbD (chanOf key)

/-- A byte of CXL space: the port, by units of 4 KiB over the mapped ports in ascending order, and the address on that
port, which its decoder and its expander must hold (R333, R335, R346). DESIGN CHOICE, log entry 97. -/
def State.cxlOf (s : State) (pa rights : Nat) : Except XErr Xlat :=
  if Config.cxlBytes ≤ pa then .error (.xlate 3 false)
  else match s.cxlMap with
    | [] => .ok { key := physKey 1 pa, rights := rights, link := some 2 }
    | p0 :: ps =>
      let n := ps.length + 1
      let p := (p0 :: ps).getD (pa / 4096 % n) p0
      let off := pa / 4096 / n * 4096 + pa % 4096
      let key := physKey 1 (p.1 * 2 ^ 44 + off)
      match s.cxlSize.find? (fun e => e.1 == p.1) with
      | none => .ok { key := key, rights := rights, link := some 2 }
      | some e =>
        if e.2 ≤ off then .error (.xlate 3 false)
        else .ok { key := key, rights := rights, link := if s.ready.cxl.getLsbD p.1 && decide (off < p.2.2) then none else some 2 }

/-- Checks the physical space that an entry names (R335, R333, R334, R346). DEDUCED, log entry 98. -/
def State.spaceOf (s : State) (link mtype pa rights : Nat) : Except XErr Xlat :=
  match mtype with
  | 0 => if pa < Config.lpddrBytes then .ok { key := physKey 0 pa, rights := rights } else .error (.xlate 3 false)
  | 1 => s.cxlOf pa rights
  | 2 =>
    let ok := fun (l : Option Nat) => (.ok { key := physKey 2 pa, rights := rights, link := l } : Except XErr Xlat)
    if pa < 2 ^ 51 then ok (if s.ready.link.getLsbD link then none else some 2)
    else
      let port := bits pa 47 4
      if !s.ready.peer.getLsbD port then ok (some 2)
      else match s.peerSize.find? (fun e => e.1 == port) with
        | none => ok (some 2)
        | some e => ok (if pa % 2 ^ 47 < e.2 then none else some 0)
  | _ => .error (.xlate 3 false)

/-- The key of a table's bytes: LPDDR6, or system memory past it (R341). DESIGN CHOICE, log entry 99. -/
def tableKey (a : Nat) : Nat := if a < Config.lpddrBytes then physKey 0 a else physKey 2 a

/-- The channel of the page-table entry at a table index is ready (R347). DEDUCED, log entry 110. -/
def State.pteReady (s : State) (table idx : Nat) : Bool := s.keyReady (tableKey (table + 8 * idx))

/-- The page-table entry at a table index (R337, R341). -/
def State.pte (s : State) (table idx : Nat) : Nat := cellLe s.mem (tableKey (table + 8 * idx)) 8

/-- The index of the leaf entry by which an access in a run of 64 translates: its own, unless it lacks CONT and another
entry of the run has it; then the first such one (R340). DEDUCED, log entry 16. -/
def State.contEntry (s : State) (table idx : Nat) : Nat :=
  if bit (s.pte table idx) 2 then idx
  else
    let base := tableKey (table + 8 * (idx / 64 * 64))
    match s.mem.find? (fun c => base ≤ c.1 && c.1 < base + 512 && (c.1 - base) % 8 == 0 && bit c.2.toNat 2) with
    | some c => idx / 64 * 64 + (c.1 - base) / 8
    | none => idx

/-- PA[51:15] of an entry. -/
def pteAddr (e : Nat) : Nat := bits e 15 37 * 2 ^ 15

/-- Reserved bits of an entry are zero (Table 17.2). -/
def pteClean (e : Nat) : Bool := bits e 52 12 == 0 && bits e 9 6 == 0

/-- A table entry holds nothing but ADDR, TB and V (R338). -/
def pteTable (e : Nat) : Bool := pteClean e && bits e 2 7 == 0

/-- RD, W and X of an entry as rights bits. -/
def pteRights (e : Nat) : Nat := bits e 3 3

/-- The physical address that a leaf entry gives: an entry of a run is applied at the offset within the run (R340). -/
def leafAddr (e va : Nat) : Nat :=
  if bit e 2 then pteAddr e / 2 ^ 25 * 2 ^ 25 + va % 2 ^ 25 else pteAddr e + va % 2 ^ 19

/-- Translates an address through the three levels (R337, R338); the walk waits for the channel of each entry (R347).
DEDUCED, log entry 16; DEDUCED, log entry 110. -/
def State.walk (s : State) (link root va : Nat) : Except XErr Xlat :=
  let e0 := s.pte root (bits va 43 12)
  if !s.pteReady root (bits va 43 12) then .error .wait
  else if !bit e0 0 then .error (.xlate 0 true)
  else if !(bit e0 1 && pteTable e0) then .error (.xlate 0 false)
  else
    let e1 := s.pte (pteAddr e0) (bits va 31 12)
    if !s.pteReady (pteAddr e0) (bits va 31 12) then .error .wait
    else if !bit e1 0 then .error (.xlate 1 true)
    else if bit e1 1 then
      if !pteTable e1 then .error (.xlate 1 false)
      else if !s.pteReady (pteAddr e1) (bits va 19 12) then .error .wait
      else
        let e2 := s.pte (pteAddr e1) (s.contEntry (pteAddr e1) (bits va 19 12))
        if !bit e2 0 then .error (.xlate 2 true)
        else if !(bit e2 1 && pteClean e2 && bits e2 15 4 == 0) then .error (.xlate 2 false)
        else s.spaceOf link (bits e2 6 2) (leafAddr e2 va) (pteRights e2)
    else if !(pteClean e1 && !bit e1 2 && bits e1 15 16 == 0) then .error (.xlate 1 false)
    else s.spaceOf link (bits e1 6 2) (pteAddr e1 + va % 2 ^ 31) (pteRights e1)

/-- The root table of an address space (R341). -/
def State.rootOf (s : State) (asid : Nat) : Option Nat := (s.asids.find? (fun e => e.1 == asid)).map (fun e => e.2.toNat)

/-- VA[54:52] = 0b111 is the window aperture (R337). -/
def isWindow (va : Nat) : Bool := va < 2 ^ 55 && bits va 52 3 == 7

/-- Translates an address of an address space; a window address has no translation, and an unbound ASID no root table to
read (R337). DEDUCED, log entry 16. -/
def State.xlate (s : State) (sp : VSpace) (va : Nat) : Except XErr Xlat :=
  if 2 ^ 55 ≤ va || isWindow va then .error (.xlate 3 false)
  else match s.rootOf sp.asid with
    | none => .error (.xlate 0 false)
    | some root => s.walk sp.link root va

/-- The rights of an access that an entry lacks: bit 0 RD, bit 1 W, bit 2 X (R339). -/
def missing (need have_ : Nat) : Nat :=
  (if bit need 0 && !bit have_ 0 then 1 else 0) + (if bit need 1 && !bit have_ 1 then 2 else 0)
    + (if bit need 2 && !bit have_ 2 then 4 else 0)

/-- The virtual device of a queue. -/
def vkeyOfQ (q : QueueKey) : VdevKey := { district := q.district, vdev := q.vdev }

/-- A bound virtual device. -/
def State.vdev? (s : State) (k : VdevKey) : Option Vdev := s.vdevs.find? (fun v => v.key == k)

/-- The address space of a virtual device, over the link of its function (R341, R335). -/
def Vdev.space (v : Vdev) : VSpace := { asid := v.asid, link := v.fn.link }
def State.spaceOfVdev (s : State) (k : VdevKey) : VSpace := ((s.vdev? k).map Vdev.space).getD {}

/-! ## Device accesses by virtual address

The firmware, and the hardware on a launch's behalf, read and write packets, descriptors, fault queues, block records
and save areas at sys scope. A byte that does not translate or is not permitted is not written and reads as 0 (log entry
20). -/

/-- The key of a byte of a virtual device's space, for an access that needs some rights (R339). -/
def State.vkeyOf (s : State) (sp : VSpace) (va need : Nat) : Option Nat :=
  match s.xlate sp va with
  | .ok x => if missing need x.rights == 0 && x.link.isNone then some x.key else none
  | .error _ => none

/-- Reads bytes at a virtual address. DESIGN CHOICE, log entry 20. -/
def State.vread (s : State) (sp : VSpace) (va n : Nat) : List Byte :=
  (List.range n).map (fun i => ((s.vkeyOf sp (va + i) 1).map (cellRead s.mem)).getD 0)

/-- Reads a little-endian number at a virtual address. -/
def State.vle (s : State) (sp : VSpace) (va n : Nat) : Nat := leNat (s.vread sp va n)

/-- Writes bytes at a virtual address whose channels are ready. DESIGN CHOICE, log entry 20. -/
def State.vstore (s : State) (sp : VSpace) (va : Nat) (bs : List Byte) : State :=
  match bs with
  | [] => s
  | b :: t =>
    match s.vkeyOf sp va 2 with
    | some k => State.vstore { s with mem := cellWrite s.mem k b } sp (va + 1) t
    | none => State.vstore s sp (va + 1) t

/-- The channels of some bytes at a virtual address, and of the walks to them, are ready (R347). DEDUCED, log entry 110. -/
def State.vready (s : State) (sp : VSpace) (va n : Nat) : Bool :=
  (List.range n).all (fun i => match s.xlate sp (va + i) with
    | .ok x => s.keyReady x.key
    | .error .wait => false
    | .error _ => true)

/-- What waits for a channel, until one becomes ready (R347). DEDUCED, log entry 110. -/
def State.defer (s : State) (x : Late) : State := { s with late := s.late ++ [x] }

/-- Writes bytes at a virtual address, or lets them wait for their channels (R347). DEDUCED, log entry 110. -/
def State.vwrite (s : State) (sp : VSpace) (va : Nat) (bs : List Byte) : State :=
  if s.vready sp va bs.length then s.vstore sp va bs else s.defer (.bytes sp.asid sp.link va bs)

end Sys2Proof.Machine
end

