-- ==== Sys2Proof/Machine/Groups.lean ====
section
/-! DEFINITION. Teams, groups and paths: finding and replacing them, clocks, batons and the square (02 R24 to R46). -/

namespace Sys2Proof.Machine

/-! ## Finding and replacing -/

/-- What happens on a compute die happens only while its clock runs: not after the critical trip (R351).
DESIGN CHOICE, log entry 7; DEDUCED, log entry 74. -/
def State.onDie (s : State) (f : State → State) : State := if s.ready.trip then s else f s

/-- The command complex runs: verified firmware, no critical trip (R351, R352).
DEDUCED, log entry 4; DEDUCED, log entry 74. -/
def State.fwUp (s : State) : Bool := s.ready.cc != 0 && !s.ready.trip

/-- What the firmware does happens only while it runs. DESIGN CHOICE, log entry 7; DEDUCED, log entry 74. -/
def State.byFw (s : State) (f : State → State) : State := if s.fwUp then f s else s

/-- A team that is placed, running or saved. -/
def State.team? (s : State) (t : TeamRef) : Option Team := s.teams.find? (fun m => m.ref == t)

/-- Applies a function to one team. -/
def State.modTeam (s : State) (t : TeamRef) (f : Team → Team) : State :=
  { s with teams := s.teams.map (fun m => if m.ref = t then f m else m) }

/-- Applies a function to a team's current state. -/
def Team.modCur (t : Team) (f : TeamState → TeamState) : Team := { t with cur := f t.cur }

/-- Applies a function to a partition of a team. -/
def Team.modPart (t : Team) (p : Nat) (f : Part → Part) : Team :=
  t.modCur (fun c => { c with parts := modAt c.parts p f })

/-- The team of a group. -/
def teamOf (g : GroupRef) : TeamRef := { launch := g.launch, team := g.team }

/-- A group of a team's current state. -/
def Team.group? (t : Team) (p g : Nat) : Option Group := (t.cur.parts[p]?).bind (fun q => q.groups[g]?)

/-- Applies a function to a group of a team. -/
def Team.modGroup (t : Team) (p g : Nat) (f : Group → Group) : Team :=
  t.modPart p (fun q => { q with groups := modAt q.groups g f })

/-- A group of a placed team. -/
def State.group? (s : State) (g : GroupRef) : Option Group := (s.team? (teamOf g)).bind (fun t => t.group? g.part g.grp)

/-- Applies a function to a group. -/
def State.modGroup (s : State) (g : GroupRef) (f : Group → Group) : State :=
  s.modTeam (teamOf g) (fun t => t.modGroup g.part g.grp f)

/-- An admitted, uncompleted launch. -/
def State.launch? (s : State) (n : Nat) : Option Launch := s.launches.find? (fun l => l.num == n)

/-- Applies a function to a launch. -/
def State.modLaunch (s : State) (n : Nat) (f : Launch → Launch) : State :=
  { s with launches := s.launches.map (fun l => if l.num = n then f l else l) }

/-- The groups of a team with their references, by partition and then group. -/
def Team.allGroups (t : Team) : List (GroupRef × Group) :=
  (t.cur.parts.zipIdx.map (fun (q, p) =>
    q.groups.zipIdx.map (fun (g, i) =>
      (({ launch := t.ref.launch, team := t.ref.team, part := p, grp := i } : GroupRef), g)))).flatten

/-- Applies a function to every group of a team. -/
def Team.mapGroups (t : Team) (f : Group → Group) : Team :=
  t.modCur (fun c => { c with parts := c.parts.map (fun q => { q with groups := q.groups.map f }) })

/-- Every group in a core, with its reference. -/
def State.allGroups (s : State) : List (GroupRef × Group) :=
  ((s.teams.filter (fun t => !t.saved)).map Team.allGroups).flatten

/-- Cores of a team: 1, or 2 for a pair (R25). -/
def Team.coreCount (t : Team) : Nat := if t.pair then 2 else 1

/-- The device core of a partition of a team (R25, R77). -/
def Team.coreOf (t : Team) (p : Nat) : Nat := t.core + p / 4

/-- The team of a launch on a core (R78, R114). -/
def State.teamOnCore (s : State) (launch core : Nat) : Option Team :=
  s.teams.find? (fun t => t.ref.launch == launch && !t.saved && (t.core == core || (t.pair && t.core + 1 == core)))

/-- The teams running on a core. -/
def State.teamsIn (s : State) (core : Nat) : List Team :=
  s.teams.filter (fun t => !t.saved && (t.core == core || (t.pair && t.core + 1 == core)))

/-- The share of a core index of a team. -/
def Team.share? (t : Team) (core : Nat) : CoreShare := t.cur.cores.getD core {}

/-- Applies a function to a core share of a team. -/
def Team.modShare (t : Team) (core : Nat) (f : CoreShare → CoreShare) : Team :=
  t.modCur (fun c => { c with cores := setPad c.cores core (f (c.cores.getD core {})) {} })

/-- A debug right over a launch (R354). -/
def State.right? (s : State) (launch : Nat) : Option DebugRight := s.rights.find? (fun r => r.launch == launch)

/-! ## Paths (R43 to R46) -/

/-- Whether a path comes before another under R44: the lower PC, then the lower lowest lane. -/
def Path.before (a b : Path) : Bool :=
  if a.pc == b.pc then lowLane a.mask < lowLane b.mask else a.pc.toNat < b.pc.toNat

/-- The path that runs next: the first of the runnable ones (R44). -/
def runPath (ps : List Path) : Option Path :=
  ps.foldl (fun best p =>
    if p.join.isSome || p.mask == 0 then best
    else match best with
      | none => some p
      | some b => if p.before b then some p else some b) none

/-- Replaces a path by paths; empty ones vanish. -/
def replacePath (ps : List Path) (old : Path) (new : List Path) : List Path :=
  (ps.filter (fun p => p ≠ old)) ++ new.filter (fun p => p.mask != 0)

/-- Lanes parked at a JOIN at a PC (R45). -/
def parkedAt (ps : List Path) (pc : Dword) : Mask :=
  ps.foldl (fun m p => if p.join.isSome && p.pc == pc then m ||| p.mask else m) 0

/-- A JOIN completes when every lane of its mask is parked there or dead (R45). `gone` holds the dead lanes, or a rope's
ended helpers. -/
def joinDone (ps : List Path) (gone kmask : Mask) (pc : Dword) : Bool :=
  kmask &&& ~~~(parkedAt ps pc ||| gone) == 0

/-- Fuses the paths parked at a JOIN into one path after it. -/
def fuse (ps : List Path) (pc next : Dword) : List Path :=
  (ps.filter (fun p => !(p.join.isSome && p.pc == pc))) ++ [{ pc := next, mask := parkedAt ps pc }]

/-- The parked path of lowest PC whose JOIN completes. DEDUCED, log entry 44. -/
def readyJoin (ps : List Path) (gone : Mask) (kmask : Nat → Mask) : Option Path :=
  ps.foldl (fun best p =>
    match p.join with
    | none => best
    | some j =>
      if joinDone ps gone (kmask j.k) p.pc then
        match best with
        | none => some p
        | some b => if p.pc.toNat < b.pc.toNat then some p else some b
      else best) none

/-- Completes every JOIN whose condition holds, the lowest PC first (R45, R211). DEDUCED, log entry 44. -/
def settlePaths (ps : List Path) (gone : Mask) (kmask : Nat → Mask) : List Path :=
  (List.range ps.length).foldl (fun ps _ =>
    match readyJoin ps gone kmask with
    | none => ps
    | some p => match p.join with
      | none => ps
      | some j => fuse ps p.pc j.next) ps

/-- The parked path of lowest PC. -/
def lowestParked (ps : List Path) : Option Path :=
  ps.foldl (fun best p =>
    match p.join, best with
    | none, _ => best
    | some _, none => some p
    | some _, some b => if p.pc.toNat < b.pc.toNat then some p else some b) none

/-- The mask of a k register; k0 reads every lane below `n` (R70). -/
def kMask (ks : List KMask) (n k : Nat) : Mask := if k == 0 then fullMask n else (ks.getD k {}).mask &&& fullMask n

/-- Writes a k register: bits from `n` up are never set, and a write of k0 is discarded (R63, R70). -/
def kWrite (ks : List KMask) (n k : Nat) (m : Mask) (depth : Option Nat) : List KMask :=
  if k == 0 then ks else setPad ks k { mask := m &&& fullMask n, depth := depth } {}

/-- The dead lanes of a group. -/
def Group.dead (g : Group) : Mask := fullMask g.width &&& ~~~g.live

/-- Completes the JOINs of a group, or of its rope, whose condition holds. DEDUCED, log entry 44. -/
def Group.settle (g : Group) : Group :=
  match g.rope with
  | some r =>
    if r.paths.any (fun p => p.join.isSome) then
      { g with rope := some { r with paths := settlePaths r.paths r.ended (kMask r.ks r.n) } }
    else g
  | none =>
    if g.paths.any (fun p => p.join.isSome) then
      { g with paths := settlePaths g.paths g.dead (kMask g.ks g.width) }
    else g

/-! ## Batons (R30 to R42) -/

/-- The earliest issue of a group that a baton reaches at a clock from a group of width `w` (R32).
DESIGN CHOICE, log entry 19. -/
def giveClock (clk w : Nat) : Nat := clk + max 2 (w / 16)

/-- Puts a baton in the square at a clock; it may be granted from the next (R36, R41). -/
def Part.toSquare (q : Part) (slot clk : Nat) : Part := { q with square := q.square ++ [(slot, clk + 1)] }

/-- A stopping instruction completes: the path that stopped goes on after it; lanes parked at a JOIN go on when they fuse. -/
def Group.pastStop (g : Group) : Group :=
  match g.stop, runPath g.paths with
  | some r, some p => { g with stop := none, paths := if p.pc == r.pc then replacePath g.paths p [{ p with pc := r.next }] else g.paths }
  | _, _ => { g with stop := none }

/-- Gives a baton to a group: READY and PARKED become HOLDING, WAITING becomes HELD-WAITING (R29, R36). A PARK completes
with the PC after it. -/
def Group.give (g : Group) (slot clk at_ : Nat) : Group :=
  match g.state with
  | .waiting => { g with state := .heldWaiting, slot := some slot, heldSince := clk }
  | .parked =>
    { g.pastStop with state := .holding, slot := some slot, readyAt := at_, prompt := true }
  | _ => { g with state := .holding, slot := some slot, readyAt := at_, prompt := true }

/-- Whether a candidate of the delivery takes the baton (R36). DEDUCED, log entry 41. -/
def takes (st : GState) (direct0 : Bool) : Bool :=
  match st with
  | .ready => true
  | .waiting => true
  | .parked => direct0
  | _ => false

/-- Delivers a baton along the belay chain from hop `5 - fuel` (R36). -/
def deliverFrom : Nat → Part → Nat → Bool → Nat → Nat → Nat → Part
  | 0, q, _, _, slot, clk, _ => q.toSquare slot clk
  | fuel + 1, q, cand, direct0, slot, clk, at_ =>
    if cand == 0x21 then q.toSquare slot clk
    else match q.groups[cand]? with
      | none => q.toSquare slot clk
      | some g =>
        if takes g.state direct0 then { q with groups := modAt q.groups cand (fun g => g.give slot clk at_) }
        else deliverFrom fuel q g.belay.toNat false slot clk at_

/-- Delivers a baton to a target: hop 0 and four hops of the belay chain, then the square (R36). -/
def deliver (q : Part) (target : Nat) (direct : Bool) (slot clk w : Nat) : Part :=
  deliverFrom 5 q target direct slot clk (giveClock clk w)

/-- Delivers the baton of a slot at a clock, which is the partition's latest delivery (R38). -/
def Part.handOn (q : Part) (target : Nat) (direct : Bool) (slot clk w : Nat) : Part :=
  { deliver q target direct slot clk w with lastGive := some (clk, slot) }

/-- A delivery of a slot can still come at a clock: no stop has been tested and no grant made in it, and no higher slot has
delivered (R38, R219). -/
def Part.turn (q : Part) (clk slot : Nat) : Bool :=
  q.lastStop != some clk && q.lastGrant != some clk && q.lastGive.all (fun e => e.1 != clk || decide (e.2 ≤ slot))

/-- Why a named target is BATON_TARGET: INNER of Table 18.2 (R36, R366). -/
def batonTarget (q : Part) (target : Nat) (alt : Bool) : Option Nat :=
  if target == 0x21 then none
  else match q.groups[target]? with
    | none => some (target + (if alt then 512 else 0))
    | some g => if g.state == .exited then some (target + 256 + (if alt then 512 else 0)) else none

/-- The recipient of the square's grant: the READY group with the lowest number above the last recipient, wrapping
(R41). DEDUCED, log entry 41. -/
def squareRecipient (q : Part) : Option Nat :=
  let n := q.groups.length
  ((List.range n).map (fun i => (q.lastRecipient + 1 + i) % n)).find?
    (fun i => match q.groups[i]? with
      | some g => g.state == .ready
      | none => false)

/-! ## Stall reasons (Table 3.7) -/

/-- The stop of a group, as the first reason of Table 3.7 that applies. -/
def stopReason (g : Group) (r : StopRec) : Nat :=
  match r.what with
  | .wait ld st cp _ =>
    if ld < g.ld.length && ld < 63 then 2 else if st < g.st.length && st < 63 then 3
    else if cp < g.cp.length && cp < 63 then 4 else 5
  | .park => 1
  | .join => 6
  | .acq _ _ _ => 8
  | .barwait _ _ _ => 7
  | .syncw _ _ => 9

/-- The stall counter that a clock increments, or none for an EXITED group (R76). `camping` says that a camp or a
rollback of the team is in progress. -/
def stallReason (g : Group) (camping : Bool) : Option Nat :=
  match g.state with
  | .exited => none
  | .faulted => some 15
  | st =>
    if g.halted then some 15
    else if camping then some 14
    else match st with
    | .lent => some 10
    | .leaderSuspended => some 11
    | .parked => some 1
    | .waiting | .heldWaiting => (match g.stop with
      | some r => some (stopReason g r)
      | none => some 12)
    | .ready => some 0
    | _ => (match g.hold with
      | some .xlate => some 13
      | some .undoLog => some 14
      | some .camp => some 14
      | _ => some 12)

/-- One clock of a group's stall counters. -/
def Group.stall (g : Group) (clk : Nat) (camping : Bool) : Group :=
  if clk < g.busyUntil then g
  else match stallReason g camping with
    | none => g
    | some r => { g with stalls := insertKey g.stalls r (min (lookupD g.stalls r 0 + 1) (2 ^ 48 - 1)) }

/-- A camp that lets no group issue until it is taken is due (R322). -/
def Team.campBlocks (t : Team) : Bool :=
  match t.campDue with
  | some .irrevocable => true
  | some .received => true
  | some .fault => true
  | some .debug => true
  | _ => false

/-- A pinned rope is active in the team (R55). -/
def Team.pinnedRope (t : Team) : Bool :=
  t.cur.parts.any (fun q => q.groups.any (fun g => ((g.rope.map (·.pinned)).getD false)))

/-- A rollback of the team waits only for what is in flight: no camp must come first and no rope is pinned, so that nothing new
issues, not even in a rope (R54, R55, R322). -/
def Team.rollsBack (t : Team) : Bool := t.rollDue && !t.campBlocks && !t.pinnedRope

/-- A camp that lets no group issue until it is taken, or a rollback, is in progress (R322). -/
def Team.camping (t : Team) : Bool := t.rollDue || t.campBlocks

/-- A group that has a DBGSTEP to issue, with or without a baton (R355). -/
def Group.stepping (g : Group) : Bool := g.stepDue.isSome && (g.state == .holding || g.state == .ready)

/-! ## Counters (R74) -/

/-- The length of a class's counter. -/
def Group.counter (g : Group) (c : CreditClass) : Nat :=
  match c with
  | .ld => g.ld.length
  | .st => g.st.length
  | .cp => g.cp.length
  | .tl => g.tl.length

/-- The register codes with a pending-write bit, each with the issue PC of its producer (R73). -/
def Group.pending (g : Group) : List (Byte × Dword) :=
  ((g.ld.filter (fun o => !o.done)).map (fun o =>
    o.delivers.filterMap (fun d => match d with
      | .lanes c _ => some (c, o.pc)
      | .whole c _ => some (c, o.pc)
      | .helper _ _ => none))).flatten

/-- The helper registers that a load has not written (R295). -/
def Group.pendingHelpers (g : Group) : List Nat :=
  ((g.ld.filter (fun o => !o.done)).map (fun o =>
    o.delivers.filterMap (fun d => match d with
      | .helper h _ => some h
      | _ => none))).flatten

/-- The results of engine operations that a later instruction waits for (R261). -/
def Group.interlocked (g : Group) : List Byte := ((g.tl.filter (fun o => !o.done)).map (·.dests)).flatten

/-- The status word of Table 3.5. -/
def Group.statusWord (g : Group) : Nat :=
  g.depth * 2 ^ 24 + (if g.rope.isSome then 2 ^ 12 else 0) + (g.paths.length - 1) % 16 * 2 ^ 8
    + g.m1.ovr.toNat * 16 + g.m0.ovr.toNat * 8 + g.m1.full.toNat * 4 + g.m0.full.toNat * 2 + g.edited.toNat

end Sys2Proof.Machine
end

