-- ==== Sys2Proof/Machine/Operands.lean ====
section
/-! DEFINITION. Reading and writing operands: registers, patterns, sub-selects, shape tags, write modes and the operand
checks (03 R62 to R73, 07 R159 to R162, 08 R175, R176). -/

namespace Sys2Proof.Machine

/-! ## The issuing group as an instruction sees it -/

/-- Everything an instruction needs of the group that issues it: the group, its team and launch, the path that runs, and
the rope when it leads one. `n` is W, or %ropen in a rope; `live` the live lanes, or the helpers that have not ended.
`immB` and `immC` stand in place of operands B and C (immediates and literals). -/
structure Ctx where
  ref : GroupRef
  team : Team
  launch : Launch
  group : Group
  path : Path
  rope : Option Rope
  n : Nat
  pc : Dword
  next : Dword
  core : Nat
  clk : Nat
  live : Mask
  ks : List KMask
  immB : Option Dword := none
  immC : Option Dword := none
  deriving DecidableEq, Repr

def Ctx.inRope (c : Ctx) : Bool := c.rope.isSome

/-- The core index of the issuing group within its team. -/
def Ctx.coreIdx (c : Ctx) : Nat := c.ref.part / 4

/-- The lanes of the current path under a mask register: `active(l)` of R109. -/
def Ctx.exec (c : Ctx) (mask : Nat) : Mask := c.path.mask &&& kMask c.ks c.n mask

/-! ## Registers -/

/-- A register of a group; one that nothing has written holds zero with tag U (R64). -/
def Group.reg (g : Group) (code : Byte) : Reg := lookupD g.regs code.toNat {}

/-- The value of a register of a class at a lane (R66, R175). -/
def Reg.at_ (r : Reg) (c : Cls) (l : Nat) : Word :=
  match c with
  | .w => r.base + r.stride * BitVec.ofNat 32 l
  | .s => r.base
  | _ => r.lanes.getD l 0

/-- A special value at lane `j` (Table 3.2). -/
def Ctx.special (c : Ctx) (code : Byte) (j : Nat) : Word :=
  BitVec.ofNat 32 (match code.toNat with
    | 0xC8 => j
    | 0xC9 => c.ref.grp
    | 0xCA => c.ref.team
    | 0xCB => c.core
    | 0xCC => c.launch.n
    | 0xCD => c.group.width
    | 0xCE => if c.inRope then j else 0
    | _ => if c.inRope then c.n else 0)

/-- The register that a code names, a helper register included. -/
def Ctx.regOf (c : Ctx) (code : Byte) : Reg :=
  match clsOf code, c.rope with
  | .h, some r => r.hregs.getD (code.toNat - 0xD0) {}
  | .h, none => {}
  | _, _ => c.group.reg code

/-- `read(X, j)` of R175. -/
def Ctx.read (c : Ctx) (code : Byte) (j : Nat) : Word :=
  match clsOf code with
  | .special => c.special code j
  | .v | .m | .w | .s | .h => (c.regOf code).at_ (clsOf code) j
  | _ => 0

/-- The lane whose value the lead pattern reads (R52). -/
def Ctx.leadLane (c : Ctx) : Nat := (c.rope.map (·.leaderLane)).getD 0

/-- The source lane of Table 7.9 for lane `l`; `n` is W or %ropen. -/
def srcLane (pat p n l : Nat) : Nat :=
  match pat with
  | 1 => (l + p) % n
  | 2 => p
  | 3 => l ^^^ p
  | 4 => l ^^^ (2 ^ p - 1)
  | 6 => 4 * (l / 4) + (l + p) % 4
  | _ => l

/-- A word read through a pattern; a source index at or above %ropen reads zero (R160). -/
def Ctx.readPat (c : Ctx) (code : Byte) (pat p l : Nat) : Word :=
  if pat == 5 then c.read code c.leadLane
  else
    let j := srcLane pat p c.n l
    if c.inRope && c.n ≤ j then 0 else c.read code j

/-- The bytes of Table 7.11. -/
def sub8 (code : Nat) : List Nat :=
  match code with
  | 0 => [0, 1, 2, 3]
  | 1 => [0, 0, 0, 0]
  | 2 => [1, 1, 1, 1]
  | 3 => [2, 2, 2, 2]
  | 4 => [3, 3, 3, 3]
  | 5 => [3, 2, 1, 0]
  | 6 => [1, 0, 3, 2]
  | 7 => [2, 3, 0, 1]
  | 8 => [0, 1, 0, 1]
  | 9 => [2, 3, 2, 3]
  | 10 => [1, 2, 3, 0]
  | 11 => [3, 0, 1, 2]
  | 12 => [0, 0, 2, 2]
  | 13 => [1, 1, 3, 3]
  | 14 => [0, 2, 1, 3]
  | _ => [0, 0, 1, 1]

/-- The elements of width `w` of a lane word, element 0 first (R4). -/
def elems (w : Nat) (x : Word) : List Nat := (List.range (32 / w)).map (fun e => bits x.toNat (e * w) w)

/-- A lane word from its elements; each is cut to `w` bits. -/
def packElems (w : Nat) (es : List Nat) : Word :=
  BitVec.ofNat 32 (es.zipIdx.foldl (fun acc e => acc + e.1 % 2 ^ w * 2 ^ (e.2 * w)) 0)

/-- `sub` of R175 (Tables 7.10 and 7.11). -/
def subSelect (t : SubTab) (code : Nat) (x : Word) : Word :=
  match t with
  | .zero => x
  | .t32 => if code == 1 then x &&& 0xFFFF else if code == 2 then x >>> 16 else x
  | .t16 =>
    let lo := bits x.toNat 0 16
    let hi := bits x.toNat 16 16
    match code with
    | 1 => packElems 16 [lo, lo]
    | 2 => packElems 16 [hi, hi]
    | 3 => packElems 16 [hi, lo]
    | _ => x
  | .t8 =>
    let es := elems 8 x
    packElems 8 ((sub8 code).map (fun i => es.getD i 0))

/-! ## Operand vectors and their tags -/

/-- The low word of an immediate or literal. -/
def lowWord (d : Dword) : Word := d.truncate 32

/-- Operand A at lane `l`, after its pattern and sub-select. -/
def Ctx.opA (c : Ctx) (g : Sig) (x : XF) (l : Nat) : Word :=
  subSelect g.asub x.asub.toNat (c.readPat x.a x.apat.toNat x.aparm.toNat l)

/-- Operand B at lane `l`. -/
def Ctx.opB (c : Ctx) (g : Sig) (x : XF) (l : Nat) : Word :=
  match c.immB with
  | some i => lowWord i
  | none => subSelect g.bsub x.bsub.toNat (c.readPat x.b x.bpat.toNat x.bparm.toNat l)

/-- Operand C at lane `l`: never through a pattern or sub-select (R158). -/
def Ctx.opC (c : Ctx) (x : XF) (l : Nat) : Word :=
  match c.immC with
  | some i => lowWord i
  | none => c.read x.c l

/-- A tag with its base and stride. -/
structure Shape where
  tag : Tag
  base : Word := 0
  stride : Word := 0
  deriving DecidableEq, Repr

/-- The shape of a register or special value as an operand. -/
def Ctx.shapeOf (c : Ctx) (code : Byte) : Shape :=
  match clsOf code with
  | .special =>
    if code == 0xC8 || (code == 0xCE && c.inRope) then { tag := .a, base := 0, stride := 1 }
    else { tag := .u, base := c.special code 0 }
  | .w => let r := c.regOf code; { tag := r.tag, base := r.base, stride := r.stride }
  | .s => { tag := .u, base := (c.regOf code).base }
  | .v | .m | .h => let r := c.regOf code; { tag := r.tag, base := r.base, stride := r.stride }
  | _ => { tag := .u }

/-- The shape of an operand after its pattern and sub-select (Table 3.3). -/
def Ctx.shapeOp (c : Ctx) (code : Byte) (pat : Nat) (t : SubTab) (sub : Nat) : Shape :=
  let sh := c.shapeOf code
  if pat != 0 && pat != 5 then { tag := .g }
  else
    let sh := if pat == 5 then { sh with base := c.read code c.leadLane, stride := 0 } else sh
    match sh.tag with
    | .u => { sh with base := subSelect t sub sh.base }
    | .a => if sub != 0 && t != .zero then { tag := .g } else sh
    | .g => sh

def Ctx.shapeA (c : Ctx) (g : Sig) (x : XF) : Shape := c.shapeOp x.a x.apat.toNat g.asub x.asub.toNat

def Ctx.shapeB (c : Ctx) (g : Sig) (x : XF) : Shape :=
  match c.immB with
  | some i => { tag := .u, base := lowWord i }
  | none => c.shapeOp x.b x.bpat.toNat g.bsub x.bsub.toNat

def Ctx.shapeC (c : Ctx) (x : XF) : Shape :=
  match c.immC with
  | some i => { tag := .u, base := lowWord i }
  | none => c.shapeOf x.c

/-- The shape with which an operand counts towards the result's tag: outside a rope %rope has tag U, but the U row of Table
3.3 admits no operation that reads it. -/
def Ctx.towards (c : Ctx) (code : Byte) (imm : Option Dword) (sh : Shape) : Shape :=
  if code == 0xCE && imm.isNone && !c.inRope then { tag := .g } else sh

/-- The operations of Table 3.3 that keep tag A. -/
inductive Affine where
  | none
  | add
  | sub
  | mov
  | mul
  | shl
  | lea
  deriving DecidableEq, Repr

/-- Shift left, 0 for an amount of 32 or more (R181). -/
def shlWord (x : Word) (n : Nat) : Word := if 32 ≤ n then 0 else x <<< n

/-- The A rows of Table 3.3 for operands that are not all U. -/
def affineShape (k : Affine) (a b c : Shape) : Option Shape :=
  match k with
  | .none => Option.none
  | .add => if a.tag == .g || b.tag == .g then Option.none
    else some { tag := .a, base := a.base + b.base, stride := a.stride + b.stride }
  | .sub => if a.tag == .g || b.tag == .g then Option.none
    else some { tag := .a, base := a.base - b.base, stride := a.stride - b.stride }
  | .mov => if a.tag == .a then some a else Option.none
  | .mul =>
    if a.tag == .a && b.tag == .u then some { tag := .a, base := a.base * b.base, stride := a.stride * b.base }
    else if a.tag == .u && b.tag == .a then some { tag := .a, base := a.base * b.base, stride := a.base * b.stride }
    else Option.none
  | .shl => if a.tag == .a && b.tag == .u then
      some { tag := .a, base := shlWord a.base b.base.toNat, stride := shlWord a.stride b.base.toNat }
    else Option.none
  | .lea => if a.tag == .g || b.tag == .g || c.tag != .u then Option.none
    else
      let n := c.base.toNat % 32
      some { tag := .a, base := a.base + b.base <<< n, stride := a.stride + b.stride <<< n }

/-- The tag of a pair: G if either half is G, else A if either half is A, else U (R65). DEDUCED, log entry 31. -/
def pairTag (lo hi : Tag) : Tag :=
  if lo == .g || hi == .g then .g else if lo == .a || hi == .a then .a else .u

/-- The second code of a pair. -/
def succCode (c : Byte) : Byte := c + 1

/-- A 64-bit operand at lane `l` (R65); vz reads zero. -/
def Ctx.read64 (c : Ctx) (code : Byte) (pat p l : Nat) : Dword :=
  if clsOf code == .vz then 0
  else c.readPat (succCode code) pat p l ++ c.readPat code pat p l

/-- The tag of a 64-bit operand (R65). -/
def Ctx.tag64 (c : Ctx) (code : Byte) (pat : Nat) : Tag :=
  if clsOf code == .vz then .u
  else pairTag (c.shapeOp code pat .zero 0).tag (c.shapeOp (succCode code) pat .zero 0).tag

/-! ## Codes that an instruction reads and writes -/

/-- The register codes that a field names in its role. -/
def roleCodes (r : Role) (c : Byte) : List Byte :=
  if clsOf c == .vz then []
  else match r with
  | .succ | .belayCode => if 0x40 ≤ c.toNat then [c + 0x60] else []
  | .zero | .count | .zeroOperand => []
  | .srcPair | .dstPair | .scales | .objOrVz | .vwsPair => [c, c + 1]
  | .quad | .randD => [c, c + 1, c + 2, c + 3]
  | .sReg _ _ n => (List.range n).map (fun i => c + BitVec.ofNat 8 i)
  | .kmovD | .kmovA => if clsOf c == .s then [c, c + 1] else [c]
  | _ => [c]

/-- The role of D makes it a source: a store value, and the functions that read D (BFI, PACKN). -/
def readsD (family func : Nat) : Bool :=
  (family == 0x01 && func == 0x1B) || (family == 0x03 && func == 0x02)
    || (family == 0x09 && (func == 1 || func == 3 || func == 4 || func == 6))
    || (family == 0x0C && func != 3) || (family == 0x0D && func == 5)

/-- The codes that an instruction names, by field: D, A, B, C. -/
def fieldCodes (g : Sig) (x : XF) : List (List Byte) :=
  [roleCodes g.d x.d, roleCodes g.a x.a, roleCodes g.b x.b, roleCodes (g.roleC x.lit) x.c]

/-- The codes that an instruction reads. Immediates in place of B and C read none. -/
def Ctx.sourceCodes (c : Ctx) (family func : Nat) (g : Sig) (x : XF) : List Byte :=
  (if readsD family func then roleCodes g.d x.d else []) ++ roleCodes g.a x.a
    ++ (if c.immB.isSome then [] else roleCodes g.b x.b)
    ++ (if c.immC.isSome then [] else roleCodes (g.roleC x.lit) x.c)

/-! ## OPERAND (R62, R65, R160, R167) -/

/-- The number of registers of a class that the descriptor declares (R63). -/
def declared (d : Desc) (c : Cls) : Nat :=
  match c with
  | .v => d.nv
  | .w => d.nw
  | .s => d.ns
  | .t => d.tiles
  | .q => d.orth
  | _ => 256

/-- The number of a code within its class. -/
def codeNum (c : Byte) : Nat :=
  match clsOf c with
  | .v => c.toNat
  | .w => c.toNat - 0x80
  | .s => c.toNat - 0xA0
  | .m => c.toNat - 0xC0
  | .q => c.toNat - 0xC2
  | .h => c.toNat - 0xD0
  | .k => c.toNat - 0xE0
  | .t => c.toNat - 0xF0
  | _ => 0

/-- A code names a declared register. -/
def isDeclared (d : Desc) (c : Byte) : Bool := codeNum c < declared d (clsOf c)

/-- A field accepts a code in its role: its class, its evenness, its range and its declaration (R62, R65, R205).
DEDUCED, log entry 26; DESIGN CHOICE, log entry 84; DEDUCED, log entry 28. -/
def roleOk (d : Desc) (rope : Bool) (r : Role) (c : Byte) : Bool :=
  let cl := clsOf c
  let single := isDeclared d c
  let h := cl == .h && rope
  let pair := (cl == .v || cl == .w || cl == .s) && codeNum c % 2 == 0 && isDeclared d (c + 1) && clsOf (c + 1) == cl
  match r with
  | .zero | .count => true
  | .succ => c.toNat < 0x40 || c.toNat - 0x40 < d.ns
  | .belayCode => c.toNat == 0x21 || (c.toNat < 0x20 && c.toNat < d.groups) || (0x40 ≤ c.toNat && c.toNat - 0x40 < d.ns)
  | .src => ((cl == .v || cl == .w || cl == .s || cl == .m) && single) || cl == .special || cl == .vz || h
  | .dst => ((cl == .v || cl == .w || cl == .s || cl == .m) && single) || cl == .vz || h
  | .srcPair | .dstPair => cl == .vz || pair
  | .quad => cl == .v && codeNum c % 4 == 0 && isDeclared d (c + 3)
  | .sReg top even n =>
    cl == .s && codeNum c ≤ top && (!even || codeNum c % 2 == 0) && codeNum c + n ≤ d.ns
  | .status => (cl == .s && single) || cl == .vz
  | .kReg => cl == .k
  | .kRest => cl == .k && c != 0xE0
  | .kmovD => cl == .k || cl == .vz || (cl == .s && pair)
  | .kmovA => cl == .k || cl == .vz || h || (cl == .s && pair) || ((cl == .v || cl == .w || cl == .m) && single)
  | .randD => (cl == .v && !rope && codeNum c % 4 == 0 && isDeclared d (c + 3)) || (h && codeNum c % 4 == 0)
      || (cl == .v && rope && codeNum c % 4 == 0 && isDeclared d (c + 3))
  | .tile => cl == .t && single
  | .tileOrVz => cl == .vz || (cl == .t && single)
  | .qSlot => cl == .q && single
  | .vReg => cl == .v && single
  | .vOrM => (cl == .v || cl == .m) && single
  | .vwsReg | .vws => (cl == .v || cl == .w || cl == .s) && single
  | .tileOrV => (cl == .t || cl == .v) && single
  | .scales => cl == .vz || (cl == .v && codeNum c ≤ 126 && isDeclared d (c + 1))
  | .hReg => cl == .h
  | .vOrS => (cl == .v || cl == .s) && single
  | .cond => cl == .k || h || ((cl == .v || cl == .w || cl == .s || cl == .m) && single)
  | .mail => ((cl == .v || cl == .w || cl == .s || cl == .m) && single) || cl == .special || cl == .vz
  | .objOrVz => cl == .vz || pair
  | .vwsPair => pair
  | .zeroOperand => c == 0

/-- ⌈log2 n⌉. -/
def clog2 (n : Nat) : Nat := if n ≤ 1 then 0 else (n - 1).log2 + 1

/-- A pattern parameter lies in its range (Table 7.9; R160 in a rope). -/
def parmOk (pat p n : Nat) : Bool :=
  match pat with
  | 1 | 2 | 3 => p < n
  | 4 => 1 ≤ p && p ≤ clog2 n
  | 6 => p < 4
  | _ => true

/-- A field names a k, t or q register. -/
def isKtq (c : Byte) : Bool := clsOf c == .k || clsOf c == .t || clsOf c == .q

/-- The value ranges of F and of the literal that are OPERAND (R165, R163, R228, R279). -/
def fRangeBad (family func : Nat) (x : XF) : Bool :=
  let f := x.f.toNat
  match family, func with
  | 0x0D, 0x00 => f == 0
  | 0x0E, 0x00 => bits f 0 6 == 0 || 32 < bits f 0 6 || bits f 6 2 == 3
  | 0x0F, 0x00 => f == 0
  | 0x13, 0x02 => 23 < f
  | _, _ => false

/-- The sel of a scaled MMA (Table 4.6); the format register's width decides for codes 8 to 15. -/
def selBad (width sel : Nat) : Bool :=
  if width == 4 then sel != 0 else if width == 8 then sel != 0 && sel != 2 else 3 < sel

/-- The fields of an instruction that its kernel or its rope does not accept, as word and lowest bit of the X form. -/
def Ctx.operandFaults (c : Ctx) (family func : Nat) (g : Sig) (x : XF) : List (Nat × Nat) :=
  let d := c.launch.desc
  let ok := fun r code => roleOk d c.inRope r code
  let parm := fun code pat p => (pat != 0 && isKtq code) || !parmOk pat p c.n
  ([
    (0, 16, !ok g.d x.d),
    (0, 8, !ok g.a x.a),
    (0, 0, c.immB.isNone && !ok g.b x.b),
    (1, 24, c.immC.isNone && !ok (g.roleC x.lit) x.c),
    (1, 6, parm x.a x.apat.toNat x.aparm.toNat),
    (2, 22, parm x.b x.bpat.toNat x.bparm.toNat),
    (2, 0, fRangeBad family func x),
    (3, 0, family == 0x0C && func == 0 && bit x.f.toNat 4 && bits ((x.lit.getD 0).toNat) 0 16 == 0)].filter (fun e => e.2.2)).map (fun e => (e.1, e.2.1))

/-- The first of some fields: words ascending, bits from 31 down (Table 18.2). -/
def firstField (l : List (Nat × Nat)) : Option (Nat × Nat) :=
  l.foldl (fun r e => match r with
    | none => some e
    | some b => if e.1 < b.1 || (e.1 == b.1 && b.2 < e.2) then some e else some b) none

/-! ## ROPE_ILLEGAL (R52) -/

/-- The instructions that a helper may execute (R52). -/
def helperMay (family func : Nat) : Bool :=
  match family with
  | 0x01 | 0x02 | 0x03 | 0x04 | 0x05 | 0x06 | 0x10 => true
  | 0x07 => func == 0 || func == 1 || func == 6 || func == 7
  | 0x09 => func ≤ 3
  | 0x0F => func == 1 || func == 2
  | 0x11 => func == 1
  | _ => false

/-- A source of a helper that names a leader v, w or m register without the lead pattern. -/
def leadNeeded (r : Role) (code : Byte) (pat : Nat) : Bool :=
  r.used && pat != 5 && (clsOf code == .v || clsOf code == .w || clsOf code == .m)
    && (match r with
      | .succ | .belayCode | .count | .tile | .qSlot => false
      | _ => true)

/-- INNER of ROPE_ILLEGAL for an instruction, or none (R52, R203, Table 18.2). DEDUCED, log entry 47;
DESIGN CHOICE, log entry 84. -/
def Ctx.ropeFault (c : Ctx) (family func : Nat) (g : Sig) (x : XF) : Option Nat :=
  if c.inRope then
    let store := readsD family func && family == 0x09
    if !helperMay family func then some 3
    else if g.d.used && g.d != .succ && !store && !(family == 0x0F && func == 2)
      && (clsOf x.d == .v || clsOf x.d == .w || clsOf x.d == .s || clsOf x.d == .m) then some 4
    else if leadNeeded g.a x.a x.apat.toNat || (c.immB.isNone && leadNeeded g.b x.b x.bpat.toNat)
      || (c.immC.isNone && leadNeeded (g.roleC x.lit) x.c 0) || (store && leadNeeded g.d x.d 0) then some 5
    else none
  else if x.apat == 5 || x.bpat == 5 then some 1
  else if family == 0x0F && (func == 1 || func == 2) then some 2
  else none

/-! ## Poison of registers (R380) -/

/-- The lane of an operand's register from which lane `l` reads. -/
def Ctx.fromLane (c : Ctx) (pat p l : Nat) : Nat := if pat == 5 then c.leadLane else srcLane pat p c.n l

/-- The lane word of a register whose mark counts for a lane: a w or s register has one. -/
def markLane (code : Byte) (l : Nat) : Nat := if clsOf code == .w || clsOf code == .s then 0 else l

/-- Lane `l` of an operand reads a poisoned word. DEDUCED, log entry 37. -/
def Ctx.poisoned (c : Ctx) (code : Byte) (pat p l : Nat) : Bool :=
  let cl := clsOf code
  if cl == .w || cl == .s then (c.regOf code).poison != 0
  else if cl == .v || cl == .m || cl == .h then laneBit (c.regOf code).poison (c.fromLane pat p l)
  else false

/-- The source of the poison of the word that lane `l` of an operand reads. -/
def Ctx.markAt (c : Ctx) (code : Byte) (pat p l : Nat) : Option Nat :=
  if c.poisoned code pat p l then some ((c.regOf code).srcOf (markLane code (c.fromLane pat p l))) else none

/-- The fault of consuming lane word `l` of a poisoned register: DATA_LOSS, or POISON with the source of a link (R379,
R380). -/
def Ctx.poisonFault (c : Ctx) (code : Byte) (l : Nat) (lanes : Mask) : FaultInfo :=
  let l := markLane code l
  let src := (c.regOf code).srcOf l
  let loc := Config.windowBase + c.core * 2 ^ 32 + 2 ^ 28 + c.ref.part % 4 * 2 ^ 21 + c.ref.grp * 2 ^ 16
    + code.toNat * 256 + l % 64 * 4
  let mech := match clsOf code with
    | .w | .s => 2
    | .h => 3
    | _ => 1
  if src == 0 then { code := 0x30, inner := mech, address := BitVec.ofNat 64 loc, lanes := lanes }
  else { code := 0x31, inner := src, address := BitVec.ofNat 64 loc, lanes := lanes }

/-- The lanes of some that meet data loss, or all of them where none does: DATA_LOSS comes before POISON, and LANES names the
lanes that raise the one raised (R363, R380). -/
def raising (src : Nat → Nat) (m : Mask) : Mask :=
  let loss := maskOf 64 (fun l => laneBit m l && src l == 0)
  if loss == 0 then m else loss

/-- The sources of an instruction with their patterns. -/
def Ctx.sourcePats (c : Ctx) (family func : Nat) (g : Sig) (x : XF) : List (Byte × Nat × Nat) :=
  (if readsD family func || g.d == .succ then (roleCodes g.d x.d).map (fun k => (k, 0, 0)) else [])
    ++ (roleCodes g.a x.a).map (fun k => (k, x.apat.toNat, x.aparm.toNat))
    ++ (if c.immB.isSome then [] else (roleCodes g.b x.b).map (fun k => (k, x.bpat.toNat, x.bparm.toNat)))
    ++ (if c.immC.isSome then [] else (roleCodes (g.roleC x.lit) x.c).map (fun k => (k, 0, 0)))

/-- The cross-lane functions, whose results depend on every executing lane's word (R195 to R197). -/
def crossLane (family func : Nat) : Bool := family == 0x05 && func != 0

/-- The register lane from which an executing lane reads a source. -/
def Ctx.wordLane (c : Ctx) (family func : Nat) (g : Sig) (x : XF) (e : Byte × Nat × Nat) (l : Nat) : Nat :=
  if family == 0x05 && func == 0 && e.1 == x.a then c.fromLane e.2.1 e.2.2 ((c.opB g x l).toNat % c.n)
  else c.fromLane e.2.1 e.2.2 l

/-- The executing lanes whose results depend on the words that some of them read: those lanes, or every lane of a cross-lane
function, a SCAN's from the first one on (R195 to R197). -/
def dependents (family func n : Nat) (excl : Bool) (exec m : Mask) : Mask :=
  if !crossLane family func || m == 0 then m
  else if func == 2 then
    let after := maskOf n (fun l => laneBit exec l && (lowLane m < l || (lowLane m == l && !excl)))
    if after == 0 then m else after
  else exec

/-- The first poisoned source whose word reaches an executing lane, with the lanes it reaches; the register that SPILL
writes out carries its mark without a fault. -/
def Ctx.poisonOf (c : Ctx) (family func : Nat) (g : Sig) (x : XF) (exec : Mask) : Option FaultInfo :=
  let spill := family == 0x09 && func == 6
  ((c.sourcePats family func g x).filter (fun e => !(spill && e.1 == x.d))).findSome? (fun e =>
    let cl := clsOf e.1
    let hit := fun (l : Nat) => if cl == .v || cl == .m || cl == .h then laneBit (c.regOf e.1).poison (c.wordLane family func g x e l)
      else c.poisoned e.1 e.2.1 e.2.2 l
    let from_ := fun (l : Nat) => c.wordLane family func g x e l
    let marked := maskOf c.n (fun l => laneBit exec l && hit l)
    if marked == 0 then none
    else
      let m := raising (fun l => (c.regOf e.1).srcOf (markLane e.1 (from_ l))) marked
      some (c.poisonFault e.1 (from_ (lowLane m)) (dependents family func c.n (bit x.f.toNat 4) exec m)))

/-! ## Writing results -/

/-- The codes whose registers a group logs by rows of 16 lanes. -/
def loggedReg (code : Byte) : Bool := clsOf code == .v || clsOf code == .m

/-- Stores lane words into a stored register. DESIGN CHOICE, log entry 32. -/
def Reg.setLanes (r : Reg) (n : Nat) (f : Nat → Option Word) : Reg :=
  { r.unmarked ((List.range n).filter (fun l => (f l).isSome)) with
    lanes := (List.range (max n r.lanes.length)).map (fun l => (f l).getD (r.lanes.getD l 0)) }

/-- The tag of a v, m or h result: G when the write does not reach every live lane (Table 3.3, R162).
DESIGN CHOICE, log entry 85. -/
def lanesTag (sh : Shape) (exec live : Mask) : Shape := if live &&& ~~~exec == 0 then sh else { tag := .g }

/-- The word that a shape gives a lane (R66). -/
def Shape.at_ (sh : Shape) (l : Nat) : Word := sh.base + sh.stride * BitVec.ofNat 32 l

/-- The new value of a v, m or h register: executing lanes written, the path's other lanes zero in zero mode. Where the
result has tag U or A its base and stride say the word of every lane, a dead one's too (R66). DESIGN CHOICE, log entry 32. -/
def Reg.writeLanes (r : Reg) (n : Nat) (vals : Nat → Word) (sh : Shape) (exec path live : Mask) (zero : Bool) : Reg :=
  let sh := lanesTag sh exec live
  { r.setLanes n (fun l =>
      if laneBit exec l then some (vals l) else if zero && laneBit path l then some 0
      else if sh.tag == .g then none else some (sh.at_ l)) with
    tag := sh.tag, base := sh.base, stride := sh.stride }

/-- The new value of a w or s register (R67). DESIGN CHOICE, log entry 32. -/
def Reg.writeWhole (r : Reg) (sh : Shape) : Reg :=
  { r with tag := sh.tag, base := sh.base, stride := sh.stride, poison := 0, sources := [] }

/-- Stores a register of a group. -/
def Group.setReg (g : Group) (code : Byte) (r : Reg) : Group :=
  if clsOf code == .vz then g else { g with regs := insertKey g.regs code.toNat r }

/-- Sets a mailbox's full flag for the group's own write (R68). -/
def Group.ownMail (g : Group) (code : Byte) (grp : Nat) : Group :=
  if code == 0xC0 then { g with m0 := { g.m0 with full := true, writer := BitVec.ofNat 8 grp } }
  else if code == 0xC1 then { g with m1 := { g.m1 with full := true, writer := BitVec.ofNat 8 grp } }
  else g

/-- Bytes of the undo log that an entry takes (R322). DEDUCED, log entry 82. -/
def LogKey.bytes : LogKey → Nat
  | .regRow _ _ _ _ => 64
  | .scratchRow _ _ => 256
  | .tileRow _ _ _ => 256

/-- Adds entries to a team's undo log, each once, and counts them for an active rope of the team. -/
def Team.addLog (t : Team) (keys : List LogKey) : Team :=
  keys.foldl (fun t k => if t.log.contains k then t else { t with log := t.log ++ [k] }) t

/-- The undo-log bytes of a team. DEDUCED, log entry 82. -/
def Team.logBytes (t : Team) : Nat :=
  t.log.foldl (fun n k => n + k.bytes) 0 + 32 * t.undo.length

/-- The rows of a register that a write of lanes reaches. -/
def regRows (p g : Nat) (code : Byte) (n : Nat) (m : Mask) : List LogKey :=
  ((List.range ((n + 15) / 16)).filter (fun r => (lanesOf n m).any (fun l => l / 16 == r))).map
    (fun r => .regRow p g code.toNat r)

/-- Writes a lane result to a destination in its write mode, and adds to the undo log (R162, R322). -/
def Ctx.writeDst (c : Ctx) (s : State) (code : Byte) (vals : Nat → Word) (sh : Shape) (exec : Mask) (zero : Bool) : State :=
  match clsOf code with
  | .v | .m =>
    s.modTeam (teamOf c.ref) (fun t =>
      (t.modGroup c.ref.part c.ref.grp (fun g =>
        (g.setReg code ((g.reg code).writeLanes c.n vals sh exec c.path.mask c.live zero)).ownMail code c.ref.grp)).addLog
        (regRows c.ref.part c.ref.grp code c.n (if zero then c.path.mask else exec)))
  | .h => s.modGroup c.ref (fun g => { g with rope := g.rope.map (fun r =>
      let h := (r.hregs.getD (codeNum code) {}).writeLanes c.n vals sh exec c.path.mask c.live false
      { r with hregs := setPad r.hregs (codeNum code) h {} }) })
  | .w | .s => s.modGroup c.ref (fun g => g.setReg code ((g.reg code).writeWhole sh))
  | _ => s

/-- SHAPE for a result of a tag to a destination (R67, R176). -/
def shapeFault (code : Byte) (tag : Tag) (lanes : Mask) : Option FaultInfo :=
  let bad := match clsOf code, tag with
    | .w, .g => some 2
    | .s, .g => some 2
    | .s, .a => some 1
    | _, _ => none
  bad.map (fun t => { code := 0x05, inner := code.toNat + 256 * t, lanes := lanes })

/-- PARTIAL_MASK of whole mode (R162): the live lanes that do not execute. -/
def Ctx.partialFault (c : Ctx) (code : Byte) (mode : Nat) (exec : Mask) : Option FaultInfo :=
  let miss := c.live &&& ~~~exec
  if (clsOf code == .v || clsOf code == .m) && mode == 0 && miss != 0 then
    some { code := 0x07, inner := 0, lanes := miss }
  else none

/-- UNIFORM_MISMATCH: the lanes of `lanes` that differ from the lowest, unless the tag is U (R206, R232). -/
def uniformFault (code : Byte) (tag : Tag) (n : Nat) (lanes : Mask) (f : Nat → Nat) : Option FaultInfo :=
  if tag == .u then none
  else
    let l0 := lowLane lanes
    let bad := maskOf n (fun l => laneBit lanes l && f l != f l0)
    if bad == 0 then none else some { code := 0x06, inner := code.toNat, lanes := bad }

end Sys2Proof.Machine
end

