-- ==== Sys2Proof/Machine/Access.lean ====
section
/-! DEFINITION. Where an access goes and what its bytes are: windows (03 R78, R79), scratch addresses (05 R113 to R116),
translated memory, the undo log of a team's writes (16 R322), and the sync words that a write touches (05 R118). -/

namespace Sys2Proof.Machine

/-- The place of a byte. -/
structure Loc where
  space : Space
  addr : Nat
  deriving DecidableEq, Repr

/-- Why an access is not made: the code and INNER of Table 19.1, and whether an XLATE is replayable (R374); or not yet, while a
walk waits for a channel (R347). -/
structure LocErr where
  code : Nat
  inner : Nat
  replay : Bool := false
  wait : Bool := false
  deriving DecidableEq, Repr

/-- The locations of `n` bytes from a place on. -/
def Loc.span (l : Loc) (n : Nat) : List Loc := (List.range n).map (fun i => { l with addr := l.addr + i })

/-! ## Windows (R78) -/

/-- A register code that window kind 1 reaches (Table 3.9). DEDUCED, log entry 75. -/
def windowCode (d : Desc) (c : Byte) : Bool :=
  match clsOf c with
  | .v | .w | .s => isDeclared d c
  | .m | .k => true
  | _ => false

/-- The place that a window address names, for an access of `n` bytes. DEDUCED, log entry 75. -/
def State.windowLoc (s : State) (l : Launch) (va n : Nat) (write : Bool) : Except LocErr Loc :=
  let core := bits va 32 20
  let kind := bits va 28 4
  let off := bits va 0 28
  if 4 ≤ kind then .error { code := 0x23, inner := 0 }
  else match s.teamOnCore l.num core with
    | none => .error { code := 0x23, inner := 1 }
    | some t =>
      let ci := core - t.core
      match kind with
      | 0 =>
        if off + n ≤ l.desc.scratch then .ok { space := .scratch t.ref ci, addr := off }
        else .error { code := 0x23, inner := 2 }
      | 1 =>
        let code : Byte := BitVec.ofNat 8 (bits off 8 8)
        if bits off 23 5 != 0 || l.desc.groups ≤ bits off 16 5 || !windowCode l.desc code then
          .error { code := 0x23, inner := 3 }
        else if write && clsOf code != .v && clsOf code != .m then .error { code := 0x23, inner := 5 }
        else
          let g : GroupRef := { launch := t.ref.launch, team := t.ref.team, part := 4 * ci + bits off 21 2, grp := bits off 16 5 }
          .ok { space := .reg g, addr := bits off 0 16 }
      | 2 =>
        if l.desc.tiles ≤ off / 16384 then .error { code := 0x23, inner := 3 }
        else .ok { space := .tile t.ref ci, addr := off }
      | _ =>
        if l.desc.orth ≤ off / 32 then .error { code := 0x23, inner := 3 }
        else if write then .error { code := 0x23, inner := 5 }
        else .ok { space := .slots t.ref ci, addr := off }

/-! ## Scratch addresses (R113 to R116) -/

/-- The region that encloses an offset. -/
def Desc.regionOf (d : Desc) (o : Nat) : Option (Nat × Nat) :=
  d.regions.find? (fun r => r.1 ≤ o && o < r.1 + 256 * r.2)

/-- The physical offset of a byte under SKEW (R116). -/
def skewed (base o : Nat) : Nat :=
  let r := (o - base) / 256
  let w := (o - base) / 8 % 32
  base + 256 * r + 8 * ((w + r) % 32) + o % 8

/-- The device core that a scratch address of a core names. -/
def scratchCore (core a : Nat) : Nat := if bit a 27 then 64 * clusterOf core + bits a 21 6 else core

/-- The places of the bytes of an access to scratchpad. -/
def State.scratchLocs (s : State) (l : Launch) (core a n : Nat) : Except LocErr (List Loc) :=
  if bits a 28 4 != 0 || (!bit a 27 && bits a 21 6 != 0) then .error { code := 0x23, inner := 4 }
  else
    let target := scratchCore core a
    match s.teamOnCore l.num target with
    | none => .error { code := 0x23, inner := 1 }
    | some t =>
      let o := bits a 0 20
      let sp := Space.scratch t.ref (target - t.core)
      if l.desc.scratch < o + n then .error { code := 0x23, inner := 2 }
      else if !bit a 20 then .ok (({ space := sp, addr := o } : Loc).span n)
      else if (List.range n).any (fun i => (l.desc.regionOf (o + i)).isNone) then .error { code := 0x24, inner := 0 }
      else .ok ((List.range n).map (fun i =>
        { space := sp, addr := skewed ((l.desc.regionOf (o + i)).getD (0, 0)).1 (o + i) }))

/-! ## Virtual addresses -/

/-- The error of a failed translation. -/
def XErr.toLoc : XErr → LocErr
  | .xlate level r => { code := 0x20, inner := level, replay := r }
  | .wait => { code := 0x20, inner := 0, wait := true }

/-- The place that a translation gives, or the right that it lacks, or the LINK of a port (R339, R373). -/
def Xlat.toLoc (x : Xlat) (need : Nat) : Except LocErr Loc :=
  let m := missing need x.rights
  if m != 0 then .error { code := 0x21, inner := m }
  else match x.link with
    | some i => .error { code := 0x32, inner := i }
    | none => .ok { space := .phys, addr := x.key }

/-- The place of `n` bytes at a virtual address of a launch. `need` holds the rights that the access uses. -/
def State.vaLoc (s : State) (l : Launch) (va n need : Nat) : Except LocErr Loc :=
  if isWindow va then s.windowLoc l va n (bit need 1)
  else match s.xlate (s.spaceOfVdev (vkeyOfQ l.queue)) va with
    | .error e => .error e.toLoc
    | .ok x => x.toLoc need

/-! ## Reading bytes -/

/-- The word of an element of a tile. -/
def CoreShare.tileWord (c : CoreShare) (tile i : Nat) : Word := (lookupD c.tiles tile []).getD i 0

/-- A byte of a word. -/
def wordByte (w : Word) (i : Nat) : Byte := BitVec.ofNat 8 (bits w.toNat (8 * i) 8)

/-- A register word as window kind 1 shows it (R78). -/
def Group.windowWord (g : Group) (code : Byte) (lane : Nat) : Word :=
  match clsOf code with
  | .k =>
    let m := if code == 0xE0 then fullMask g.width else kMask g.ks g.width (code.toNat - 0xE0)
    if lane == 0 then m.extractLsb' 0 32 else if lane == 1 then m.extractLsb' 32 32 else 0
  | c => if g.width ≤ lane then 0 else (g.reg code).at_ c lane

/-- The element of tA that holds the state word: tile row 32, column 32 (Table 11.6). -/
def stateElem : Nat := 32 * 64 + 32

/-- A word of window kind 3 (Table 3.8). -/
def CoreShare.slotWord (c : CoreShare) (q i : Nat) : Word :=
  match (c.qs.find? (fun e => e.1 == q)).map (·.2) with
  | none => 0
  | some b =>
    match i with
    | 0 => c.tileWord b.tA stateElem
    | 1 => BitVec.ofNat 32 (0xF0 + b.tA)
    | 2 => BitVec.ofNat 32 ((b.tB.map (0xF0 + ·)).getD 0xFF)
    | _ => 0

/-- The share of a team in a core index, empty when the team is gone. -/
def State.shareOf (s : State) (t : TeamRef) (core : Nat) : CoreShare := ((s.team? t).map (·.share? core)).getD {}

/-- The byte at a place. -/
def State.readLoc (s : State) (l : Loc) : Byte :=
  match l.space with
  | .phys => cellRead s.mem l.addr
  | .scratch t c => cellRead (s.shareOf t c).scratch l.addr
  | .tile t c => wordByte ((s.shareOf t c).tileWord (l.addr / 16384) (l.addr % 16384 / 4)) (l.addr % 4)
  | .reg g => match s.group? g with
    | none => 0
    | some gr => wordByte (gr.windowWord (BitVec.ofNat 8 (l.addr / 256)) (l.addr / 4 % 64)) (l.addr % 4)
  | .slots t c => wordByte ((s.shareOf t c).slotWord (l.addr / 32) (l.addr / 4 % 8)) (l.addr % 4)

/-- The channel of a place is ready; only LPDDR6 has channels (R347). DEDUCED, log entry 110. -/
def State.locReady (s : State) (p : Loc) : Bool :=
  match p.space with
  | .phys => s.keyReady p.addr
  | _ => true

/-- An instruction that acts on some places at once waits until their channels are ready (R347). -/
def State.chanHold (s : State) (ls : List Loc) : Option Hold := if ls.all s.locReady then none else some .channel

/-- A register of a group, or a helper register of its rope. -/
def Group.wordReg (g : Group) (code : Byte) : Reg :=
  if clsOf code == .h then ((g.rope.map (·.hregs)).getD []).getD (codeNum code) {} else g.reg code

/-- Stores a register of a group, or a helper register of its rope. -/
def Group.setWordReg (g : Group) (code : Byte) (r : Reg) : Group :=
  if clsOf code == .h then { g with rope := g.rope.map (fun q => { q with hregs := setPad q.hregs (codeNum code) r {} }) }
  else g.setReg code r

/-- The source of the poison at a place, 0 for a storage error; `none` when clean (R380). -/
def State.poisonAt (s : State) (l : Loc) : Option Nat :=
  match l.space with
  | .phys => s.sectorPoison l.addr
  | .scratch t c => if (s.shareOf t c).scratchPoison.contains (l.addr / 8) then some 0 else none
  | .tile t c => if (s.shareOf t c).tilePoison.contains (l.addr / 4) then some 0 else none
  | .reg g => match s.group? g with
    | none => none
    | some gr =>
      let code : Byte := BitVec.ofNat 8 (l.addr / 256)
      let r := gr.wordReg code
      match clsOf code with
      | .w | .s => if r.poison != 0 then some (r.srcOf 0) else none
      | .v | .m | .h => if laneBit r.poison (l.addr / 4 % 64) then some (r.srcOf (l.addr / 4 % 64)) else none
      | _ => none
  | .slots _ _ => none

/-- The last byte that the stores of a group that are not performed write at a place. DEDUCED, log entry 10. -/
def Group.storedAt (g : Group) (l : Loc) : Option Byte :=
  g.st.foldl (fun r o => if o.done then r else
    o.bytes.foldl (fun r b => if b.space = l.space && b.addr == l.addr then some b.val else r) r) none

/-- The byte that a group's access reads: its own earlier stores first, else what has been performed (R125, R140).
DEDUCED, log entry 10; DESIGN CHOICE, log entry 92. -/
def State.readFor (s : State) (g : Group) (l : Loc) : Byte := (g.storedAt l).getD (s.readLoc l)

/-! ## Writing bytes -/

/-- Replaces a byte of a word. -/
def setWordByte (w : Word) (i : Nat) (v : Byte) : Word :=
  BitVec.ofNat 32 (w.toNat - bits w.toNat (8 * i) 8 * 2 ^ (8 * i) + v.toNat * 2 ^ (8 * i))

/-- A tile's words, written at one index; a tile that nothing has written is all zero (R309). -/
def CoreShare.setTile (c : CoreShare) (tile i : Nat) (w : Word) : CoreShare :=
  let ws := lookupD c.tiles tile []
  let ws := if ws.isEmpty then List.replicate 4096 0 else ws
  { c with tiles := insertKey c.tiles tile (setPad ws i w 0) }

/-- A window write of a byte to a v or m register sets its tag to G (R79). -/
def Group.windowWrite (g : Group) (code : Byte) (lane i : Nat) (v : Byte) : Group :=
  if g.width ≤ lane then g
  else
    let r := g.reg code
    let r := r.setLanes g.width (fun l => if l = lane then some (setWordByte (r.lanes.getD l 0) i v) else none)
    g.setReg code { r with tag := .g, poison := (g.reg code).poison, sources := (g.reg code).sources }

/-- Writes the byte at a place. -/
def State.writeLoc (s : State) (b : StoreByte) : State :=
  match b.space with
  | .phys => { s with mem := cellWrite s.mem b.addr b.val }
  | .scratch t c => s.modTeam t (fun m => m.modShare c (fun h => { h with scratch := cellWrite h.scratch b.addr b.val }))
  | .tile t c => s.modTeam t (fun m => m.modShare c (fun h =>
      let i := b.addr % 16384 / 4
      h.setTile (b.addr / 16384) i (setWordByte (h.tileWord (b.addr / 16384) i) (b.addr % 4) b.val)))
  | .reg g => s.modGroup g (fun x => x.windowWrite (BitVec.ofNat 8 (b.addr / 256)) (b.addr / 4 % 64) (b.addr % 4) b.val)
  | .slots _ _ => s

/-- Bytes of the poison unit of a place: a 32-byte sector, an 8-byte scratch word, a lane word or a tile element. -/
def poisonUnit : Space → Nat
  | .phys => 32
  | .scratch _ _ => 8
  | _ => 4

/-- Two places lie in one poison unit. -/
def Loc.sameUnit (p q : Loc) : Bool :=
  p.space = q.space && p.addr / poisonUnit p.space == q.addr / poisonUnit q.space

/-- Clears or sets the mark of the unit at a place (R380). -/
def State.markUnit (s : State) (sp : Space) (addr : Nat) (src : Option Nat) : State :=
  let put := fun (l : List Nat) (i : Nat) => if src.isSome then (if l.contains i then l else l ++ [i]) else l.filter (· != i)
  match sp with
  | .phys => match src with
    | some x => s.poisonSector addr x
    | none => s.cleanSector addr
  | .scratch t c => s.modTeam t (fun m => m.modShare c (fun h => { h with scratchPoison := put h.scratchPoison (addr / 8) }))
  | .tile t c => s.modTeam t (fun m => m.modShare c (fun h => { h with tilePoison := put h.tilePoison (addr / 4) }))
  | .reg g => s.modGroup g (fun x =>
      let code : Byte := BitVec.ofNat 8 (addr / 256)
      let r := x.wordReg code
      let l := markLane code (addr / 4 % 64)
      x.setWordReg code (match src with
        | some m => r.mark l m
        | none => r.unmarked [l]))
  | .slots _ _ => s

/-- The units that a list of bytes writes whole. -/
def wholeUnits (bs : List StoreByte) : List StoreByte :=
  bs.filter (fun b =>
    let u := poisonUnit b.space
    b.addr % u == 0 && (List.range u).all (fun i => bs.any (fun d => d.space = b.space && d.addr == b.addr + i)))

/-- The mark of a place as the group's accesses see it: its own stores that are not performed carry marks, and clear those of
the units that they write whole (R380). DEDUCED, log entry 10. -/
def State.poisonFor (s : State) (g : Group) (l : Loc) : Option Nat :=
  g.st.foldl (fun r o =>
    if o.done then r
    else match o.marks.reverse.find? (fun m => l.sameUnit { space := m.1, addr := m.2.1 }) with
      | some m => some m.2.2
      | none => if (wholeUnits o.bytes).any (fun b => l.sameUnit { space := b.space, addr := b.addr }) then none else r)
    (s.poisonAt l)

/-! ## Camps that writes call for (R55, R133, R136) -/

/-- A team leads a rope. -/
def Team.roped (t : Team) : Bool := t.cur.parts.any (fun q => q.groups.any (fun g => g.rope.isSome))

/-- Pins the team's active ropes (R55). -/
def Team.pin (t : Team) : Team := t.mapGroups (fun g => { g with rope := g.rope.map (fun r => { r with pinned := true }) })

/-- A camp falls due; one that stops issue stays due ahead of one that does not (R322). DEDUCED, log entry 40. -/
def Team.due (t : Team) (r : CampReason) : Team :=
  match t.campDue with
  | some .irrevocable | some .received | some .fault | some .debug => t
  | _ => { t with campDue := some r }

/-- An irrevocable operation of a team has been performed (R133, R55). -/
def State.irrevocable (s : State) (t : TeamRef) : State := s.modTeam t (fun m => m.pin.due .irrevocable)

/-- A team has received a write from outside itself (R136, R55). -/
def State.received (s : State) (t : TeamRef) : State := s.modTeam t (fun m => m.pin.due .received)

/-! ## The undo log (R322, R136) -/

/-- The team that owns a place on chip. -/
def Space.owner : Space → Option TeamRef
  | .phys => none
  | .scratch t _ => some t
  | .tile t _ => some t
  | .reg g => some (teamOf g)
  | .slots t _ => some t

/-- The undo-log entry of a byte of the writing team's own state. -/
def logKeyOf (b : StoreByte) : List LogKey :=
  match b.space with
  | .scratch _ c => [.scratchRow c (b.addr / 256)]
  | .tile _ c => [.tileRow c (b.addr / 16384) (b.addr % 16384 / 256)]
  | .reg g => [.regRow g.part g.grp (b.addr / 256) (b.addr / 4 % 64 / 16)]
  | _ => []

/-- Keeps what a byte of memory held before the team's first write of it since the camp. DEDUCED, log entry 100. -/
def Team.logSector (t : Team) (s : State) (key : Nat) : Team :=
  let sec := key / 32
  let b := (key % 32, cellRead s.mem key)
  if t.undo.any (fun u => u.sector == sec) then
    { t with undo := t.undo.map (fun u =>
        if u.sector == sec && !u.old.any (fun e => e.1 == b.1) then { u with old := u.old ++ [b] } else u) }
  else { t with undo := t.undo ++ [{ sector := sec, old := [b], poison := s.sectorPoison key }] }

/-- Adds to the undo log of the writing team what a byte is about to replace. -/
def State.logByte (s : State) (t : TeamRef) (b : StoreByte) : State :=
  match b.space with
  | .phys => s.modTeam t (fun m => m.logSector s b.addr)
  | sp => if sp.owner = some t then s.modTeam t (fun m => m.addLog (logKeyOf b)) else s

/-! ## Sync words (R118, R249) -/

/-- A sync word's condition holds for a generation. -/
def genReached (gen g : Word) : Bool := decide ((gen - g).toNat < 2 ^ 31)

/-- A little-endian word of a team's scratchpad. -/
def State.scratchWord (s : State) (t : TeamRef) (core a : Nat) : Word := BitVec.ofNat 32 (cellLe (s.shareOf t core).scratch a 4)

/-- The test of a SYNCW at an address of a core: 0 when the condition holds, 1 when the word is poisoned (R249, R380). -/
def State.syncTest (s : State) (l : Launch) (core : Nat) (addr gen : Word) : Option Nat :=
  match s.scratchLocs l core addr.toNat 16 with
  | .ok ({ space := .scratch t c, addr := a } :: _) =>
    if (s.poisonAt { space := .scratch t c, addr := a + 8 }).isSome then some 1
    else if genReached (s.scratchWord t c (a + 8)) gen then some 0 else none
  | _ => none

/-- Re-tests every group stopped at SYNCW after a step on scratchpad (R249). DEDUCED, log entry 42. -/
def State.latch (s : State) : State :=
  { s with teams := s.teams.map (fun t =>
      match s.launch? t.ref.launch with
      | none => t
      | some l => t.modCur (fun c => { c with parts := c.parts.zipIdx.map (fun (q, p) =>
          { q with groups := q.groups.map (fun g =>
              match g.stop with
              | some r => (match r.what, r.res with
                | .syncw a n, none => { g with stop := some { r with res := s.syncTest l (t.coreOf p) a n } }
                | _, _ => g)
              | none => g) }) })) }

/-! ## Sync objects (R119, Table 5.5) -/

/-- A sync object. -/
structure SyncObj where
  base : Nat
  len : Nat
  kind : Nat
  res0 : Nat
  owner : Nat
  gen : Word
  expected : Nat
  arrived : Nat
  droppend : Nat
  res1 : Nat
  deriving DecidableEq, Repr

/-- The object that 32 bytes hold. -/
def SyncObj.read (le : Nat → Nat → Nat) : SyncObj :=
  { base := le 0x00 8, len := le 0x08 4, kind := le 0x0C 2, res0 := le 0x0E 2, owner := le 0x10 4
    gen := BitVec.ofNat 32 (le 0x14 4), expected := le 0x18 2, arrived := le 0x1A 2, droppend := le 0x1C 2, res1 := le 0x1E 2 }

/-- The 32 bytes of an object. -/
def SyncObj.bytes (o : SyncObj) : List Byte :=
  leBytes o.base 8 ++ leBytes o.len 4 ++ leBytes o.kind 2 ++ leBytes o.res0 2 ++ leBytes o.owner 4 ++ leBytes o.gen.toNat 4
    ++ leBytes o.expected 2 ++ leBytes o.arrived 2 ++ leBytes o.droppend 2 ++ leBytes o.res1 2

/-- KIND[1:0]: 0 unbound, 1 lock, 2 event, 3 barrier. -/
def SyncObj.type (o : SyncObj) : Nat := o.kind % 4
def SyncObj.broken (o : SyncObj) : Bool := bit o.kind 2
def SyncObj.parkedOwner (o : SyncObj) : Bool := bit o.kind 3
def SyncObj.owned (o : SyncObj) : Bool := bit o.owner 31

/-- Every reserved bit is zero (R119, R245). -/
def SyncObj.clean (o : SyncObj) : Bool :=
  o.base % 32 == 0 && o.kind / 16 == 0 && o.res0 == 0 && bits o.owner 28 3 == 0 && bits o.owner 0 12 == 0 && o.res1 == 0

/-- The OWNER value of a group (R245). -/
def ownerWord (core part grp : Nat) : Nat := 2 ^ 31 + core * 2 ^ 19 + part % 4 * 2 ^ 17 + grp * 2 ^ 12

/-- The object at a key. -/
def State.objAt (s : State) (key : Nat) : SyncObj := SyncObj.read (fun off n => cellLe s.mem (key + off) n)

/-- A barrier's phase of a token is complete (R248). -/
def phaseDone (gen token : Word) : Bool := 1 ≤ (gen - token).toNat && (gen - token).toNat ≤ 2 ^ 31

/-- A re-test of a stopped ACQ or BARWAIT of a group whose OWNER value is `self`: its result, or none while it still waits.
A free lock is taken by the event of the stop's completion (R245, R248). -/
def retestOf (what : Stop) (self : Nat) (o : SyncObj) : Option Nat :=
  match what with
  | .acq _ g _ =>
    if !o.clean || (o.type != 1 && o.type != 2) then some (256 + o.kind)
    else if o.type == 1 then (if o.owner == self then some 3 else if o.owned && o.parkedOwner then some 1 else none)
    else if genReached o.gen g then some 0 else none
  | .barwait _ tok _ =>
    if !o.clean || o.type != 3 then some (256 + o.kind)
    else if o.broken then some 2 else if phaseDone o.gen tok then some 0 else none
  | _ => none

/-- The object that a stop waits on. -/
def Stop.object : Stop → Option Dword
  | .acq o _ _ => some o
  | .barwait o _ _ => some o
  | _ => none

/-- The key of an object that a launch names. -/
def State.objKey (s : State) (l : Launch) (o : Dword) : Option Nat :=
  match s.vaLoc l o.toNat 32 3 with
  | .ok { space := .phys, addr := a } => some a
  | _ => none

/-- Re-tests the groups stopped on objects in some sectors, after a step on them (R244, R245).
DEDUCED, log entry 42. -/
def State.retest (s : State) (sectors : List Nat) : State :=
  { s with teams := s.teams.map (fun t =>
      if t.saved then t
      else match s.launch? t.ref.launch with
      | none => t
      | some l => t.modCur (fun c => { c with parts := c.parts.zipIdx.map (fun (q, p) =>
          { q with groups := q.groups.zipIdx.map (fun (g, i) =>
              match g.stop with
              | none => g
              | some r =>
                match r.res, r.what.object.bind (s.objKey l) with
                | none, some k =>
                  if sectors.contains (k / 32) then
                    { g with stop := some { r with res := retestOf r.what (ownerWord (t.coreOf p) (p % 4) i) (s.objAt k) } }
                  else g
                | _, _ => g) }) })) }

/-- Some group waits on a sync object. -/
def State.waitsOnObject (s : State) : Bool :=
  s.teams.any (fun t => t.cur.parts.any (fun q => q.groups.any (fun g =>
    ((g.stop.bind (fun r => r.what.object)).isSome))))

/-! ## Performing a write -/

/-- A byte lies in a mailbox of a group: the group and the mailbox's code. -/
def mailOf (b : StoreByte) : Option (GroupRef × Nat) :=
  match b.space with
  | .reg g => if b.addr / 256 == 0xC0 || b.addr / 256 == 0xC1 then some (g, b.addr / 256) else none
  | _ => none

/-- Mail or a window write reaches a mailbox: full, overrun when it was full, and the last writer (R68). -/
def Mailbox.put (m : Mailbox) (writer : Byte) : Mailbox := { full := true, ovr := m.ovr || m.full, writer := writer }

/-- A write reaches a mailbox of a group. -/
def Group.putMail (g : Group) (code : Nat) (writer : Byte) : Group :=
  if code == 0xC0 then { g with m0 := g.m0.put writer } else { g with m1 := g.m1.put writer }

/-- The first element of each run of equal elements. -/
def dedup {α : Type} [DecidableEq α] (l : List α) : List α := l.foldl (fun r x => if r.contains x then r else r ++ [x]) []

/-- Writes the bytes of one access by a team, or by an agent that is no team: undo log, bytes, poison marks, mailboxes,
and the re-tests of sync words and objects. DESIGN CHOICE, log entry 86. -/
def State.applyBytes (s : State) (writer : Option TeamRef) (bs : List StoreByte) : State :=
  let s := match writer with
    | none => s
    | some t => bs.foldl (fun s b => s.logByte t b) s
  let s := bs.foldl (fun s b => s.writeLoc b) s
  let s := (wholeUnits bs).foldl (fun s b => s.markUnit b.space b.addr none) s
  let s := (dedup (bs.filterMap mailOf)).foldl (fun s m => s.modGroup m.1 (fun g => g.putMail m.2 0xFE)) s
  let s := if bs.any (fun b => match b.space with
    | .scratch _ _ => true
    | _ => false) then s.latch else s
  if s.waitsOnObject then
    s.retest (dedup (bs.filterMap (fun b => match b.space with
      | .phys => some (b.addr / 32)
      | _ => none)))
  else s

/-- A store is a foreign write at some place (R79). -/
def foreign (me : GroupRef) (l : Loc) : Bool :=
  match l.space with
  | .reg g => g ≠ me
  | _ => false

/-- The teams other than the writer that some bytes belong to. -/
def receivers (writer : Option TeamRef) (bs : List StoreByte) : List TeamRef :=
  dedup (bs.filterMap (fun b => match b.space.owner with
    | some t => if some t = writer then none else some t
    | none => none))

/-- Performs the bytes of one access, and calls for the camps of the teams that receive them (R136). -/
def State.performBytes (s : State) (writer : Option TeamRef) (bs : List StoreByte) : State :=
  (receivers writer bs).foldl (fun s t => s.received t) (s.applyBytes writer bs)

/-- The bytes of a value at consecutive places. -/
def bytesAt (ls : List Loc) (vs : List Byte) : List StoreByte :=
  (ls.zip vs).map (fun (l, v) => { space := l.space, addr := l.addr, val := v })

/-! ## Memory faults of one instruction (R373) -/

/-- The rank of a memory fault in R373; LINK arises last. -/
def memRank (code : Nat) : Nat :=
  match code with
  | 0x22 => 0
  | 0x2A => 1
  | 0x23 => 2
  | 0x24 => 3
  | 0x20 => 4
  | 0x21 => 5
  | 0x25 => 6
  | 0x26 => 7
  | 0x27 => 8
  | _ => 9

/-- What the checks of an instruction's accesses find. -/
inductive MemCheck where
  | ok
  | fault (i : FaultInfo)
  | replay (i : FaultInfo)
  | wait
  deriving DecidableEq, Repr

/-- The checks of lanes that met errors at addresses: the first code in the order of R373, with every lane that raises
it; an XLATE that only waits for an entry is replayable when no lane's is fatal. A walk that waits for a channel lets the
checks wait (R347). -/
def memCheck (errs : List (Nat × Nat × LocErr)) : MemCheck :=
  let best := errs.foldl (fun r e => min r (memRank e.2.2.code)) 10
  if errs.any (fun e => e.2.2.wait) then .wait
  else if best == 10 then .ok
  else
    let es := errs.filter (fun e => memRank e.2.2.code == best)
    let fatal := es.filter (fun e => !e.2.2.replay)
    let mask := fun (l : List (Nat × Nat × LocErr)) => maskOf 64 (fun i => l.any (fun e => e.1 == i))
    let lowest := fun (l : List (Nat × Nat × LocErr)) =>
      l.foldl (fun (r : Option (Nat × Nat × LocErr)) e => match r with
        | none => some e
        | some b => if e.1 < b.1 then some e else some b) none
    match lowest fatal with
    | some e => .fault { code := e.2.2.code, inner := e.2.2.inner, address := BitVec.ofNat 64 e.2.1, lanes := mask fatal }
    | none => match lowest es with
      | some e =>
        .replay { code := e.2.2.code, inner := e.2.2.inner + 256, address := BitVec.ofNat 64 e.2.1, lanes := mask es }
      | none => .ok

/-- An access reaches the host, a peer or a CXL expander over a link. DEDUCED, log entry 13. -/
def Loc.remote (l : Loc) : Bool :=
  match l.space with
  | .phys => keyType l.addr != 0
  | _ => false

/-- An access has memory type system (R112). -/
def Loc.system (l : Loc) : Bool :=
  match l.space with
  | .phys => keyType l.addr == 2
  | _ => false

/-! ## Locations (R379) -/

/-- The window address of a place of a kind on a core (R78). -/
def windowAddr (core kind off : Nat) : Nat := Config.windowBase + core * 2 ^ 32 + kind * 2 ^ 28 + off

/-- The location of a place in the terms of its level, as a fault of an access from a core names it; `va` is the address
that the access used (R379). DESIGN CHOICE, log entry 77. -/
def State.placeAddr (s : State) (core : Nat) (p : Loc) (va : Nat) : Nat :=
  let home := fun (t : TeamRef) (c : Nat) => ((s.team? t).map (·.core)).getD 0 + c
  match p.space with
  | .phys => va
  | .scratch t c => if home t c == core then p.addr else 2 ^ 27 + home t c % 64 * 2 ^ 21 + p.addr
  | .tile t c => windowAddr (home t c) 2 p.addr
  | .reg g => windowAddr (home (teamOf g) (g.part / 4)) 1 (g.part % 4 * 2 ^ 21 + g.grp * 2 ^ 16 + p.addr)
  | .slots t c => windowAddr (home t c) 3 p.addr

/-- The place that an error of a storage or a link lies at, for an access of a launch: LOC is the offset in the register
window, the scratchpad or the tiles of core UNIT, or a physical address. DESIGN CHOICE, log entry 77. -/
def State.errPlace (s : State) (launch : Nat) (e : DataErr) : Option Loc :=
  let loc := e.loc.toNat
  let here := s.teamOnCore launch e.unit
  match e.mech with
  | 1 | 2 | 3 => here.map (fun t =>
      { space := .reg { launch := launch, team := t.ref.team, part := 4 * (e.unit - t.core) + bits loc 21 2, grp := bits loc 16 5 }
        addr := bits loc 0 16 })
  | 4 => here.map (fun t => { space := .scratch t.ref (e.unit - t.core), addr := loc })
  | 5 => here.map (fun t => { space := .tile t.ref (e.unit - t.core), addr := loc })
  | 7 | 8 => some { space := .phys, addr := physKey 0 loc }
  | 16 => (match s.cxlOf loc 7 with
    | .ok x => some { space := .phys, addr := x.key }
    | .error _ => none)
  | 17 | 18 => some { space := .phys, addr := physKey 2 loc }
  | _ => none

/-- The location that the record of an error names, for an access from a core to places at rising addresses from `va` on
(R379). -/
def State.errAddr (s : State) (launch core : Nat) (ls : List Loc) (va : Nat) (e : DataErr) : Nat :=
  match s.errPlace launch e with
  | none => va
  | some p => match ls.zipIdx.find? (fun x => x.1.sameUnit p) with
    | some (l, i) => s.placeAddr core l (va + i)
    | none => s.placeAddr core p va

end Sys2Proof.Machine
end

