-- ==== Sys2Proof/Machine/Fp.lean ====
section
/-! DEFINITION. Number formats, exact values, rounding and exact sums (04 R83 to R103). -/

namespace Sys2Proof.Machine

/-- The sticky flags of R86 in the bit order of Table 3.6: invalid, divide-by-zero, overflow, underflow, inexact. -/
abbrev Flags := BitVec 5

namespace Fp

def fInvalid : Flags := 1
def fDivZero : Flags := 2
def fOverflow : Flags := 4
def fUnderflow : Flags := 8
def fInexact : Flags := 16

/-- A floating-point layout: the standard formats of R83 and the format records of R89 read as one shape. -/
structure Fmt where
  wid : Nat
  sgn : Bool
  exp : Nat
  man : Nat
  bias : Nat
  pol : Nat
  sub : Bool
  sat : Bool
  nan : Nat
  deriving DecidableEq, Repr

/-- FP32 (Table 4.1). -/
def fp32 : Fmt := { wid := 32, sgn := true, exp := 8, man := 23, bias := 127, pol := 0, sub := true, sat := false, nan := 0x7FC00000 }
/-- FP16 (Table 4.1). -/
def fp16 : Fmt := { wid := 16, sgn := true, exp := 5, man := 10, bias := 15, pol := 0, sub := true, sat := false, nan := 0x7E00 }
/-- BF16 (Table 4.1). -/
def bf16 : Fmt := { wid := 16, sgn := true, exp := 8, man := 7, bias := 127, pol := 0, sub := true, sat := false, nan := 0x7FC0 }

/-- The standard format of a code 0 FP32, 1 FP16, 2 BF16 (Tables 7.14 and 7.16). -/
def stdFmt (code : Nat) : Fmt := if code == 1 then fp16 else if code == 2 then bf16 else fp32

/-- The fields of a format record (R89, Table 4.3). -/
def recordFmt (r : Word) : Fmt :=
  let n := r.toNat
  let wid := bits n 0 4
  let exp := bits n 4 3
  let sgn := bit n 7
  let man := wid - sgn.toNat - exp
  { wid := wid, sgn := sgn, exp := exp, man := man, bias := bits n 8 7, pol := bits n 16 2, sub := bit n 18,
    sat := bit n 19, nan := 2 ^ (wid - sgn.toNat) - 1 }

/-- A record is well-formed (R90). -/
def wellFormed (r : Word) : Bool :=
  let n := r.toNat
  let wid := bits n 0 4
  let exp := bits n 4 3
  let sgn := (bit n 7).toNat
  let pol := bits n 16 2
  1 ≤ wid && wid ≤ 8 && sgn + exp ≤ wid && pol != 3 && bits n 20 12 == 0 && bits n 15 1 == 0
    && (exp != 0 || pol == 1 || pol == 2) && (pol != 0 || (1 ≤ exp && sgn + exp + 1 ≤ wid))

/-- A well-formed record is native (R94). -/
def native (r : Word) : Bool :=
  let f := recordFmt r
  (f.wid == 4 || f.wid == 6 || f.wid == 8) && f.sgn && 1 ≤ f.exp && f.exp ≤ 5 && f.bias ≤ 63

/-- Width of the container of a narrow format (R93). -/
def container (r : Word) : Nat := if (recordFmt r).wid ≤ 4 then 4 else 8

/-- An exact value: NaN (`made` when it arose from operands none of which is NaN), an infinity, or
(-1)^neg · m · 2^e. -/
inductive Val where
  | nan (made : Bool)
  | inf (neg : Bool)
  | fin (neg : Bool) (m : Nat) (e : Int)
  deriving DecidableEq, Repr

/-- The value of an encoding (R91; for a standard format the same reading is IEEE 754's). -/
def decode (f : Fmt) (x : Nat) : Val :=
  let m := bits x 0 f.man
  let s := f.sgn && bit x (f.wid - 1)
  if f.exp == 0 then
    if f.pol == 1 && m == 2 ^ f.man - 1 then .nan false else .fin s m (-(f.bias : Int))
  else
    let e := bits x f.man f.exp
    let emax := 2 ^ f.exp - 1
    if f.pol == 0 && e == emax then (if m == 0 then .inf s else .nan false)
    else if f.pol == 1 && e == emax && m == 2 ^ f.man - 1 then .nan false
    else if e == 0 then
      if f.sub then .fin s m (1 - (f.bias : Int) - f.man) else .fin s 0 0
    else .fin s (2 ^ f.man + m) ((e : Int) - f.bias - f.man)

/-- The value of an FP32 lane word. -/
def val32 (x : Word) : Val := decode fp32 x.toNat

/-- Magnitude bits of the largest finite value of a format (R91). A format with SUB 0 and no finite normal value is read
as one with gradual subnormals. DESIGN CHOICE, log entry 89. -/
def maxBits (f : Fmt) : Nat :=
  if f.pol == 0 then 2 ^ f.man * (2 ^ f.exp - 1) - 1
  else if f.pol == 1 then 2 ^ (f.exp + f.man) - 2
  else 2 ^ (f.exp + f.man) - 1

/-- Encoding of a sign and magnitude bits. -/
def pack (f : Fmt) (neg : Bool) (mag : Nat) : Nat :=
  if f.sgn && neg then mag + 2 ^ (f.wid - 1) else mag

/-- `m · 2^k` as a natural number, rounded toward zero for a negative `k`. -/
def shiftNat (m : Nat) (k : Int) : Nat :=
  if 0 ≤ k then m * 2 ^ k.toNat else m / 2 ^ (-k).toNat

/-- Smallest exponent of the format's spacing: subnormal spacing, or fixed-point spacing with EXP = 0 (R87). -/
def qmin (f : Fmt) : Int := if f.exp == 0 then -(f.bias : Int) else 1 - (f.bias : Int) - f.man

/-- Exponent of the leading bit of `m · 2^e`, for `m` not 0. -/
def topExp (m : Nat) (e : Int) : Int := (m.log2 : Int) + e

/-- The rounding modes of Table 4.2: whether the larger magnitude is picked, from the sign, the parity of the smaller
one, and the discarded part `r` of `d` (with more below it when `sticky`); `rnd` is the random word of R108. -/
def pickUp (mode : Nat) (neg odd : Bool) (r d : Nat) (sticky : Bool) (rnd : Nat) : Bool :=
  let inexact := r != 0 || sticky
  match mode with
  | 0 => 2 * r > d || (2 * r == d && (sticky || odd))
  | 2 => inexact && neg
  | 3 => inexact && !neg
  | 4 => bits rnd 0 24 < r * 2 ^ 24 / d
  | 5 => 2 * r ≥ d
  | 6 => inexact && !odd
  | _ => false

/-- The neighbour of `m · 2^e` in spacing `2^q` that the mode picks, as a multiple of the spacing, and exactness (R87). The
last bit of RNE and RO is that of the integer significand. DESIGN CHOICE, log entry 88. -/
def pickAt (mode : Nat) (neg : Bool) (m : Nat) (e q : Int) (sticky : Bool) (rnd : Nat) : Nat × Bool :=
  if q ≤ e then (m * 2 ^ (e - q).toNat + (pickUp mode neg (e == q && bit m 0) 0 1 sticky rnd).toNat, !sticky)
  else
    let sh := min (q - e).toNat (m.log2 + 40)
    let d := 2 ^ sh
    let lo := m / d
    let r := m % d
    (lo + (pickUp mode neg (bit lo 0) r d sticky rnd).toNat, r == 0 && !sticky)

/-- `k · 2^q < 2^e`. -/
def ltPow (k : Nat) (q e : Int) : Bool := k == 0 || topExp k q < e

/-- Whether the overflow result of a mode is an infinity (Table 4.2). -/
def overflowInf (mode : Nat) (neg lower : Bool) : Bool :=
  match mode with
  | 0 => true
  | 2 => neg
  | 3 => !neg
  | 4 => !lower
  | 5 => true
  | _ => false

/-- Magnitude bits of `k · 2^q`, a representable magnitude. -/
def magBits (f : Fmt) (k : Nat) (q : Int) : Nat :=
  if f.exp == 0 || k < 2 ^ f.man then k
  else if k == 2 ^ (f.man + 1) then (q + 1 + f.bias + f.man).toNat * 2 ^ f.man
  else (q + f.bias + f.man).toNat * 2 ^ f.man + (k - 2 ^ f.man)

/-- Magnitude bits of an infinity. -/
def infBits (f : Fmt) : Nat := (2 ^ f.exp - 1) * 2 ^ f.man

/-- Underflow of R86: the exact magnitude, rounded with unbounded exponent, is below the smallest normal. -/
def tiny (f : Fmt) (mode : Nat) (neg : Bool) (m : Nat) (e : Int) (sticky : Bool) (rnd : Nat) : Bool :=
  if f.exp == 0 then topExp m e < -(f.bias : Int)
  else if 1 - (f.bias : Int) ≤ topExp m e then false
  else
    let q := topExp m e - f.man
    ltPow (pickAt mode neg m e q sticky rnd).1 q (1 - (f.bias : Int))

/-- Delivers the overflow result of a format (R87, R92, Table 4.4). -/
def overflowed (f : Fmt) (mode : Nat) (neg lower : Bool) : Nat × Flags :=
  let flags := fOverflow ||| fInexact
  let inf := overflowInf mode neg lower
  if f.sat || f.pol == 2 || !inf then (pack f neg (maxBits f), flags)
  else if f.pol == 1 then (f.nan, flags)
  else (pack f neg (infBits f), flags)

/-- Rounds a nonzero magnitude `m · 2^e` (a little more when `sticky`) once to a format (R87, R88, R92). -/
def roundFin (f : Fmt) (mode : Nat) (rnd : Nat) (neg : Bool) (m : Nat) (e : Int) (sticky : Bool) : Nat × Flags :=
  if !f.sgn && neg then (0, fInvalid)
  else
    let q := if f.exp == 0 then qmin f else max (qmin f) (topExp m e - f.man)
    let (k, exact) := pickAt mode neg m e q sticky rnd
    -- the largest finite magnitude is `maxBits` read with gradual subnormals
    let tooBig :=
      match decode { f with sub := true, sgn := false } (maxBits f) with
      | .fin _ km kq => km == 0 || topExp km kq < topExp k q || (topExp km kq == topExp k q && shiftNat km (kq - q) < k)
      | _ => true
    if k != 0 && tooBig then
      let lower := !(exact) && k == (pickAt 1 neg m e q sticky rnd).1
      overflowed f mode neg (lower || exact)
    else
      let inx : Flags := if exact then 0 else fInexact
      let unf : Flags := if !exact && tiny f mode neg m e sticky rnd then fUnderflow else 0
      if k != 0 && f.exp != 0 && !f.sub && ltPow k q (1 - (f.bias : Int)) then
        (pack f neg 0, fInexact ||| fUnderflow)
      else (pack f neg (magBits f k q), inx ||| unf)

/-- Rounds an exact value to a format (R85, R87, R92, R99, Table 4.4). In a record with EXP 0, M 0 and
POL 01, whose every encoding is a NaN, zero and the largest finite value give magnitude 0. DESIGN CHOICE, log entry 90. -/
def roundVal (f : Fmt) (mode : Nat) (rnd : Nat) (v : Val) : Nat × Flags :=
  match v with
  | .nan made =>
    if f.pol == 2 then (0, fInvalid) else (f.nan, if made then fInvalid else 0)
  | .inf neg =>
    if !f.sgn && neg then (0, fInvalid)
    else if f.pol == 0 then (pack f neg (infBits f), 0)
    else if f.pol == 1 && !f.sat then (f.nan, fInvalid)
    else (pack f neg (maxBits f), fInvalid)
  | .fin neg 0 _ => (pack f neg 0, 0)
  | .fin neg m e => roundFin f mode rnd neg m e false

/-- Negation; a NaN stays NaN. -/
def Val.negate : Val → Val
  | .nan made => .nan made
  | .inf n => .inf (!n)
  | .fin n m e => .fin (!n) m e

def Val.isNan : Val → Bool
  | .nan _ => true
  | _ => false

def Val.isZero : Val → Bool
  | .fin _ 0 _ => true
  | _ => false

/-- Exact product (R88, R98, R99). -/
def mul (a b : Val) : Val :=
  match a, b with
  | .nan i, .nan j => .nan (i && j)
  | .nan i, _ => .nan i
  | _, .nan j => .nan j
  | .inf n, .inf k => .inf (n != k)
  | .inf n, .fin k m _ => if m == 0 then .nan true else .inf (n != k)
  | .fin k m _, .inf n => if m == 0 then .nan true else .inf (n != k)
  | .fin n m e, .fin k m' e' => .fin (n != k) (m * m') (e + e')

/-- The signed integer of a finite value in units of `2^e0`, for `e0` at most its exponent. -/
def units (e0 : Int) : Val → Int
  | .fin n m e => let u := (m * 2 ^ (e - e0).toNat : Nat); if n then -(u : Int) else u
  | _ => 0

/-- Smallest exponent of the nonzero finite terms. -/
def minExp (ts : List Val) : Int :=
  ts.foldl (fun acc t => match t with
    | .fin _ m e => if m == 0 then acc else min acc e
    | _ => acc) 4096

/-- Exact sum of the listed terms with the special values of R99 and the zero sign of R88. -/
def sum (mode : Nat) (ts : List Val) : Val :=
  let nanIn := ts.any (fun t => t == .nan false)
  let nanMade := ts.any (fun t => t == .nan true)
  let pinf := ts.any (fun t => t == .inf false)
  let ninf := ts.any (fun t => t == .inf true)
  if nanIn then .nan false
  else if nanMade || (pinf && ninf) then .nan true
  else if pinf then .inf false
  else if ninf then .inf true
  else
    let e0 := minExp ts
    let nz := ts.filter (fun t => !t.isZero)
    let total := nz.foldl (fun acc t => acc + units e0 t) 0
    if total == 0 then
      let allNeg := ts != [] && ts.all (fun t => match t with
        | .fin n m _ => n && m == 0
        | _ => false)
      .fin (mode == 2 || allNeg) 0 0
    else .fin (total < 0) total.natAbs e0

/-- `round(exact(t1, …, tn), mode, fmt)` of R109. -/
def roundSum (f : Fmt) (mode : Nat) (ts : List Val) : Nat × Flags := roundVal f mode 0 (sum mode ts)

/-- Order of two values neither of which is NaN, with −0 equal to +0. -/
def lt (a b : Val) : Bool :=
  match a, b with
  | .inf n, .inf k => n && !k
  | .inf n, .fin _ _ _ => n
  | .fin _ _ _, .inf k => !k
  | .fin _ m e, .fin _ m' e' =>
    let e0 := if m == 0 then e' else if m' == 0 then e else min e e'
    (if m == 0 then 0 else units e0 a) < (if m' == 0 then 0 else units e0 b)
  | _, _ => false

def eq (a b : Val) : Bool := !a.isNan && !b.isNan && !lt a b && !lt b a

/-- The sign bit of a value. -/
def Val.neg : Val → Bool
  | .nan _ => false
  | .inf n => n
  | .fin n _ _ => n

/-- Whether FMIN takes its first operand: −0 below +0, and a NaN gives way to the other (R185). -/
def minFirst (a b : Val) : Bool :=
  if a.isNan then false else if b.isNan then true
  else if lt a b then true else if lt b a then false
  else a.neg || !b.neg

/-- Whether FMAX takes its first operand (R185). -/
def maxFirst (a b : Val) : Bool :=
  if a.isNan then false else if b.isNan then true
  else if lt b a then true else if lt a b then false
  else !a.neg || b.neg

/-- Integer square root by bits; 2·`n` + 2 bits suffice for the argument. -/
def isqrt (x : Nat) : Nat :=
  (List.range (x.log2 / 2 + 1)).reverse.foldl (fun r i => if (r + 2 ^ i) * (r + 2 ^ i) ≤ x then r + 2 ^ i else r) 0

/-- Rounds a positive quotient `n / d · 2^e` once. -/
def roundQuot (f : Fmt) (mode : Nat) (neg : Bool) (n d : Nat) (e : Int) : Nat × Flags :=
  let k := 66 + d.log2 - n.log2
  let q := n * 2 ^ k / d
  roundFin f mode 0 neg q (e - k) (n * 2 ^ k % d != 0)

/-- round(a / b) with the cases of R186. -/
def div (f : Fmt) (mode : Nat) (a b : Val) : Nat × Flags :=
  match a, b with
  | .nan i, .nan j => roundVal f mode 0 (.nan (i && j))
  | .nan i, _ => roundVal f mode 0 (.nan i)
  | _, .nan j => roundVal f mode 0 (.nan j)
  | .inf _, .inf _ => roundVal f mode 0 (.nan true)
  | .inf n, .fin k _ _ => roundVal f mode 0 (.inf (n != k))
  | .fin n _ _, .inf k => roundVal f mode 0 (.fin (n != k) 0 0)
  | .fin n m e, .fin k m' e' =>
    if m' == 0 then
      if m == 0 then roundVal f mode 0 (.nan true)
      else let (r, fl) := roundVal f mode 0 (.inf (n != k)); (r, fl ||| fDivZero)
    else if m == 0 then roundVal f mode 0 (.fin (n != k) 0 0)
    else roundQuot f mode (n != k) m m' (e - e')

/-- round(√a) (R184, R186). -/
def sqrt (f : Fmt) (mode : Nat) (a : Val) : Nat × Flags :=
  match a with
  | .nan i => roundVal f mode 0 (.nan i)
  | .inf n => roundVal f mode 0 (if n then .nan true else .inf false)
  | .fin n m e =>
    if m == 0 then roundVal f mode 0 (.fin n 0 0)
    else if n then roundVal f mode 0 (.nan true)
    else
      let odd := e % 2 != 0
      let m' := (if odd then 2 * m else m) * 2 ^ 140
      let e' := (if odd then e - 1 else e) - 140
      let r := isqrt m'
      roundFin f mode 0 false r (e' / 2) (r * r != m')

/-- round(1 / √a) (R184, R186). -/
def rsqrt (f : Fmt) (mode : Nat) (a : Val) : Nat × Flags :=
  match a with
  | .nan i => roundVal f mode 0 (.nan i)
  | .inf n => roundVal f mode 0 (if n then .nan true else .fin false 0 0)
  | .fin n m e =>
    if m == 0 then let (r, fl) := roundVal f mode 0 (.inf n); (r, fl ||| fDivZero)
    else if n then roundVal f mode 0 (.nan true)
    else
      let odd := e % 2 != 0
      let m' := if odd then 2 * m else m
      let e' := if odd then e - 1 else e
      let p := 100 + m'.log2
      let r := isqrt (2 ^ (2 * p) / m')
      roundFin f mode 0 false r (-(p : Int) - e' / 2) (r * r * m' != 2 ^ (2 * p))

/-- The value of a block scale (R96). -/
def scale (code : Nat) : Val := if code == 255 then .nan false else .fin false 1 ((code : Int) - 127)

/-- Rounds a value to an integer with integer spacing under R87 and clamps it (Table 8.7). -/
def toInt (mode rnd : Nat) (v : Val) (lo hi : Int) : Int × Flags :=
  match v with
  | .nan _ => (0, fInvalid)
  | .inf n => (if n then lo else hi, fInvalid)
  | .fin n m e =>
    if m == 0 then (0, 0)
    else if 40 < topExp m e then (if n then lo else hi, fInvalid)
    else
      let (k, exact) := pickAt mode n m e 0 false rnd
      let x : Int := if n then -(k : Int) else k
      if x < lo then (lo, fInvalid) else if hi < x then (hi, fInvalid)
      else (x, if exact then 0 else fInexact)

/-- The value of an integer. -/
def ofInt (x : Int) : Val := .fin (x < 0) x.natAbs 0

end Fp

end Sys2Proof.Machine
end

