-- ==== Sys2Proof/Machine/Flags.lean ====
section
/-! DEFINITION. The sticky flags and the status items (03 R75, Tables 3.5 and 3.6; 04 R86). -/

namespace Sys2Proof.Machine

/-- ORs flags into a group's sticky flags (R75); a helper's go to the group that leads its rope (R177). -/
def State.addFlags (s : State) (g : GroupRef) (f : Flags) : State := s.modGroup g (fun x => { x with flags := x.flags ||| f })

/-- The flags of the executing lanes together. -/
def orFlags (l : List Flags) : Flags := l.foldl (· ||| ·) 0

/-- A status item of Table 3.6. -/
def Ctx.statusItem (c : Ctx) (item : Nat) : Nat :=
  let g := c.group
  match item with
  | 16 => g.flags.toNat
  | 17 => g.statusWord
  | 18 => g.belay.toNat
  | 19 => g.ld.length
  | 20 => g.st.length
  | 21 => g.cp.length
  | 22 => g.tl.length
  | 23 => c.clk % 2 ^ 48
  | n => lookupD g.stalls n 0

/-- The read effects of items 16 and 17. -/
def Group.readEffect (g : Group) (item : Nat) : Group :=
  if item == 16 then { g with flags := 0 }
  else if item == 17 then { g with m0 := { g.m0 with ovr := false }, m1 := { g.m1 with ovr := false } }
  else g

end Sys2Proof.Machine
end

