-- ==== Sys2Proof/Machine/Records.lean ====
section
/-! DEFINITION. What the device writes about itself: fault records, block records, the route book, debug event records,
error counts and interrupts (16 R311 to R316, R326; 17 R355, R356; 18 R359, R360; 19 R381). -/

namespace Sys2Proof.Machine

/-! ## Sequence numbers (R11, R315, R358) -/

/-- Takes the next sequence number of a core. -/
def State.takeCoreSeq (s : State) (core : Nat) : State × Nat :=
  let n := lookupD s.coreSeq core 0
  ({ s with coreSeq := insertKey s.coreSeq core (n + 1) }, n)

/-- Takes the next sequence number of a command-complex core. -/
def State.takeCcSeq (s : State) (cc : Nat) : State × Nat :=
  let n := lookupD s.ccSeq cc 0
  ({ s with ccSeq := insertKey s.ccSeq cc (n + 1) }, n)

/-- Takes the next sequence number of a cluster's cache. -/
def State.takeCluSeq (s : State) (c : Nat) : State × Nat :=
  let n := lookupD s.cluSeq c 0
  ({ s with cluSeq := insertKey s.cluSeq c (n + 1) }, n)

/-- Takes the next sequence number of an async engine, by its core, or of a quad engine, from 512 (R359). -/
def State.takeAsyncSeq (s : State) (unit : Nat) : State × Nat :=
  let n := lookupD s.asyncSeq unit 0
  ({ s with asyncSeq := insertKey s.asyncSeq unit (n + 1) }, n)

/-- Takes the next event sequence number of a core, or of a command-complex core, from 512 (R355, R391). -/
def State.takeEventSeq (s : State) (core : Nat) : State × Nat :=
  let n := lookupD s.eventSeq core 0
  ({ s with eventSeq := insertKey s.eventSeq core (n + 1) }, n)

/-- Takes the next sequence number of a channel. -/
def State.takeChanSeq (s : State) (ch : Nat) : State × Nat :=
  let n := lookupD s.chanSeq ch 0
  ({ s with chanSeq := insertKey s.chanSeq ch (n + 1) }, n)

/-! ## Fault records -/

/-- The class of a fault code (Table 18.2). -/
def faultClass (code : Nat) : Nat :=
  if code ≤ 0x03 then 1 else if code ≤ 0x09 then 2 else if code ≤ 0x0B then 3 else if code ≤ 0x0E then 4
  else if code ≤ 0x11 then 5 else if code ≤ 0x13 then 6 else if code ≤ 0x2A then 7 else if code ≤ 0x32 then 8 else 9

/-- The unit that detects a failure (R359): the core of the group, its async engine or its quad engine, or a command-complex
core at admission. -/
inductive RecUnit where
  | core
  | copy
  | engine
  | command (cc : Nat)
  deriving DecidableEq, Repr

/-- The unit that met the failure of an operation of a class: the async engine, the quad engine, or the core. -/
def failUnit (c : CreditClass) : RecUnit :=
  match c with
  | .cp => .copy
  | .st => .core
  | _ => .engine

/-- The fields of a fault record that are not fixed by its code (Table 18.1), and the unit that detects it. -/
structure Record where
  info : FaultInfo
  unit : RecUnit := .core
  flags : Nat := 0
  launch : Nat
  pc : Dword
  core : Nat
  part : Nat
  grp : Nat
  team : Nat
  hlane : Nat := 0xFF
  secPc : Dword := 0
  deriving DecidableEq, Repr

/-- The 64 bytes of a fault record (Table 18.1). -/
def Record.bytes (r : Record) (seq cycle : Nat) : List Byte :=
  leBytes r.info.code 1 ++ leBytes (faultClass r.info.code) 1 ++ leBytes r.flags 2 ++ leBytes r.launch 4
    ++ leBytes r.pc.toNat 8 ++ leBytes r.info.lanes.toNat 8 ++ leBytes r.info.address.toNat 8 ++ leBytes r.core 2
    ++ leBytes r.part 1 ++ leBytes r.grp 1 ++ leBytes r.team 4 ++ leBytes r.info.inner 2 ++ leBytes r.hlane 1
    ++ leBytes 0 1 ++ leBytes seq 4 ++ leBytes r.secPc.toNat 8 ++ leBytes (cycle % 2 ^ 48) 8

/-- The next sequence number and the local cycle count of the unit that detects a failure (R358, R359).
DESIGN CHOICE, log entry 121. -/
def State.takeUnit (s : State) (u : RecUnit) (core : Nat) : State × Nat × Nat :=
  match u with
  | .core => let (t, n) := s.takeCoreSeq core
    (t, n, s.clk core)
  | .copy => let (t, n) := s.takeAsyncSeq core
    (t, n, s.clk core)
  | .engine => let (t, n) := s.takeAsyncSeq (512 + quadOf core)
    (t, n, s.clk core)
  | .command c => let (t, n) := s.takeCcSeq c
    (t, n, s.ccClk.getD c 0)

/-- Appends the bytes of a record to a fault queue: it is counted, and written while the capacity allows (R311); it waits for
the queue's channels (R347). DESIGN CHOICE, log entry 20; DEDUCED, log entry 110. -/
def State.appendRecord (s : State) (sp : VSpace) (fq : Nat) (bs : List Byte) : State :=
  let cap := s.vle sp (fq + 4) 4
  let count := s.vle sp (fq + 8) 4
  let slot := fq + 64 + 64 * count
  if !s.vready sp (fq + 4) 8 || (decide (count < cap) && !s.vready sp slot bs.length) then
    s.defer (.record sp.asid sp.link fq bs)
  else
    let s := s.vstore sp (fq + 8) (leBytes (count + 1) 4)
    if count < cap then s.vstore sp slot bs else s

/-- Appends a record to its launch's fault queue. DEDUCED, log entry 21. -/
def State.putRecord (s : State) (r : Record) : State :=
  match s.launch? r.launch with
  | none => s
  | some l =>
    let (s, seq, cycle) := s.takeUnit r.unit r.core
    s.appendRecord (s.spaceOfVdev (vkeyOfQ l.queue)) l.faultQ.toNat (r.bytes seq cycle)

/-- The record of a group's fault. -/
def recordOf (t : Team) (g : GroupRef) (pc : Dword) (info : FaultInfo) : Record :=
  { info := info, launch := g.launch, pc := pc, core := t.coreOf g.part, part := g.part % 4, grp := g.grp, team := g.team }

/-! ## Block records -/

/-- Partitions of a team of a launch: 4, or 8 on a pair (R77). -/
def Desc.parts (d : Desc) : Nat := if d.pair then 8 else 4

/-- The width of the groups of a launch. -/
def Desc.width (d : Desc) : Nat := 16 * d.width16

/-- The index of a group in the areas of R77 and R312. -/
def groupIndex (d : Desc) (g : GroupRef) : Nat := (g.team * d.parts + g.part) * d.groups + g.grp

/-- Writes a group's block record (R312), which takes a sequence number of its core; the layout has no field for it, and the
machine keeps it beside the record (R358). `flags` holds FAULTED (2) and STOPPED (4); EDITED is the group's.
DEDUCED, log entry 124. -/
def State.putBlockRecord (s : State) (g : GroupRef) (flags : Nat) : State :=
  match s.launch? g.launch, s.team? (teamOf g), s.group? g with
  | some l, some t, some gr =>
    let sp := s.spaceOfVdev (vkeyOfQ l.queue)
    let counters := (List.range 16).map (fun i => leBytes (lookupD gr.stalls i 0) 8)
    let bs := leBytes g.team 4 ++ leBytes g.part 1 ++ leBytes g.grp 1 ++ leBytes (flags + gr.edited.toNat) 2
      ++ leBytes (s.clk (t.coreOf g.part)) 8 ++ counters.flatten ++ List.replicate 112 0
    let (s, seq, _) := (s.vwrite sp (l.blockRec.toNat + 256 * groupIndex l.desc g) bs).takeUnit .core (t.coreOf g.part)
    { s with blockSeqs := insertKey s.blockSeqs g seq }
  | _, _, _ => s

/-! ## The route book and the district record -/

/-- The command-complex core that serves a district: its own, or the one that has taken it over during a reload (R348, R393).
DEDUCED, log entry 21. -/
def State.ccOf (s : State) (district : Nat) : Nat := lookupD s.serving district (district % 8)

/-- A core serves a district: it is not in the middle of handing its districts over (R348). DESIGN CHOICE, log entry 105. -/
def State.served (s : State) (district : Nat) : Bool := !s.reloads.any (fun r => !r.taken && r.core == s.ccOf district)

/-- Writes bytes at a device physical address of LPDDR6 whose channels are ready. -/
def State.pstore (s : State) (pa : Nat) (bs : List Byte) : State := { s with mem := cellWrites s.mem pa bs }

/-- The channels of some bytes at a device physical address are ready (R347). DEDUCED, log entry 110. -/
def State.pready (s : State) (pa n : Nat) : Bool := (List.range n).all (fun i => s.keyReady (pa + i))

/-- Writes bytes at a device physical address, or lets them wait for their channels (R347). DEDUCED, log entry 110. -/
def State.pwrite (s : State) (pa : Nat) (bs : List Byte) : State :=
  if s.pready pa bs.length then s.pstore pa bs else s.defer (.phys pa bs)

/-- Adds to a 64-bit counter of a district record; a district with no record counts nothing there (R316).
DEDUCED, log entry 54; DEDUCED, log entry 110. -/
def State.bumpDistrict (s : State) (d off n : Nat) : State :=
  match (s.districts[d]?).bind (·.record) with
  | none => s
  | some a =>
    if s.pready (a.toNat + off) 8 then s.pstore (a.toNat + off) (leBytes (cellLe s.mem (a.toNat + off) 8 + n) 8)
    else s.defer (.count d off n)

/-- An entry of the route book (Table 16.7). DEDUCED, log entry 103. -/
structure RbEntry where
  type : Nat
  reason : Nat := 0
  district : Nat
  vdev : Nat := 0xFF
  queue : Nat := 0xFF
  slot : Nat := 0xFF
  payload : Nat := 0
  deriving DecidableEq, Repr

/-- Appends the bytes of an entry to a district's route book, the oldest giving way once it is full (R315); they wait for its
channels (R347). DEDUCED, log entry 110. -/
def State.appendRoute (s : State) (d : Nat) (bs : List Byte) : State :=
  match (s.districts[d]?).bind (·.record) with
  | none => s
  | some a =>
    let a := a.toNat
    let count := cellLe s.mem (a + 16) 8
    let slot := cellLe s.mem a 8 + 32 * (count % cellLe s.mem (a + 8) 4)
    if s.pready a 24 && s.pready slot bs.length then (s.pstore slot bs).pstore (a + 16) (leBytes (count + 1) 8)
    else s.defer (.route d bs)

/-- Appends an entry to a district's route book and gives its sequence number, 0 where the district has no record (R315, R316).
DESIGN CHOICE, log entry 116. -/
def State.putRoute (s : State) (e : RbEntry) : State × Nat :=
  match (s.districts[e.district]?).bind (·.record) with
  | none => (s, 0)
  | some _ =>
    let cc := s.ccOf e.district
    let (s, seq) := s.takeCcSeq cc
    let bs := leBytes e.type 1 ++ leBytes e.reason 1 ++ leBytes e.district 1 ++ leBytes e.vdev 1 ++ leBytes e.queue 1
      ++ leBytes e.slot 1 ++ leBytes cc 1 ++ leBytes 0 1 ++ leBytes (s.ccClk.getD cc 0) 8 ++ leBytes seq 8
      ++ leBytes e.payload 8
    (s.appendRoute e.district bs, seq)

/-- Appends an entry whose number nobody needs. -/
def State.route (s : State) (e : RbEntry) : State := (s.putRoute e).1

/-- An entry about a queue. -/
def rbQueue (q : QueueKey) (type reason payload : Nat) (slot : Option Nat := none) : RbEntry :=
  { type := type, reason := reason, district := q.district, vdev := q.vdev, queue := q.idx, slot := slot.getD 0xFF,
    payload := payload }

/-! ## Debug event records (R355, R356) -/

/-- Appends an event record to a ring, or counts it lost when the ring is full; it waits for the ring's channels (R347).
DEDUCED, log entry 110. -/
def State.appendEvent (s : State) (base size : Nat) (bs : List Byte) : State :=
  let wr := cellLe s.mem base 8
  let rd := cellLe s.mem (base + 8) 8
  let slot := base + 64 + 64 * (wr % size)
  if !s.pready base 24 || (decide (wr - rd < size) && !s.pready slot 64) then s.defer (.event base size bs)
  else if wr - rd < size then (s.pstore slot (bs ++ List.replicate (64 - bs.length) 0)).pstore base (leBytes (wr + 1) 8)
  else s.pstore (base + 20) (leBytes (cellLe s.mem (base + 20) 4 + 1) 4)

/-- Appends an event record to a right's ring. -/
def State.putEvent (s : State) (r : DebugRight) (bs : List Byte) : State := s.appendEvent r.ring.toNat r.size bs

/-- The event record of a halt (1), a step (2) or a BRK (3). -/
def State.groupEvent (s : State) (r : DebugRight) (code : Nat) (g : GroupRef) : State :=
  match s.team? (teamOf g), s.group? g with
  | some t, some gr =>
    let core := t.coreOf g.part
    let (s, seq) := s.takeEventSeq core
    let p := (runPath gr.paths).getD { pc := 0, mask := 0 }
    s.putEvent r (leBytes code 4 ++ leBytes g.launch 4 ++ leBytes g.team 4 ++ leBytes g.part 1 ++ leBytes g.grp 1
      ++ leBytes (lowLane p.mask) 1 ++ leBytes 0 1 ++ leBytes p.pc.toNat 8 ++ leBytes (s.clk core) 8 ++ leBytes seq 8)
  | _, _ => s

/-! ## Error counts (R381) -/

/-- Counts an error of a mechanism and updates the last-error record. -/
def State.countError (s : State) (mech unit : Nat) (fatal : Bool) (loc : Dword) (cycle seq : Nat) : State :=
  let (ce, ue) := lookupD s.errs mech (0, 0)
  { s with
    errs := insertKey s.errs mech (if fatal then (ce, ue + 1) else (ce + 1, ue))
    lastError := { mech := mech, kind := fatal.toNat, unit := unit, loc := loc, cycle := cycle, seq := seq } }

/-- An error of a mechanism of a core. -/
def State.coreError (s : State) (mech core : Nat) (fatal : Bool) (loc : Dword) : State :=
  let (s, seq) := s.takeCoreSeq core
  s.countError mech core fatal loc (s.clk core) seq

/-! ## Interrupts (R326 to R328) -/

/-- A function's registers; one that nothing has touched holds its reset values. -/
def State.fnState (s : State) (f : Fn) : FnState := (s.fns.find? (fun x => x.fn == f)).getD { fn := f }

/-- Applies a function to a function's registers. -/
def State.modFn (s : State) (f : Fn) (g : FnState → FnState) : State :=
  if s.fns.any (fun x => x.fn == f) then { s with fns := s.fns.map (fun x => if x.fn = f then g x else x) }
  else { s with fns := s.fns ++ [g { fn := f }] }

/-- One vector of a function. -/
def FnState.vector (f : FnState) (v : Nat) : Vector := lookupD f.vectors v {}

/-- Sends an MSI-X interrupt. DESIGN CHOICE, log entry 71. -/
def State.sendIrq (s : State) (f : Fn) (v : Nat) : State := { s with irqs := s.irqs ++ [{ fn := f, vector := v }] }

/-- Completes a mailbox command (R344): result, and an interrupt when CMD asks for one. RESULT holds the first 56 bytes of
what the command gives. DESIGN CHOICE, log entry 108. -/
def State.reply (s : State) (f : Fn) (mb : MbCtl) (result : Nat) (out : List Byte := []) : State :=
  let s := s.modFn f (fun x => { x with mailbox := { x.mailbox with
    busy := false, done := true, result := result, out := out.take 56, sample := out } })
  if mb.irq then s.sendIrq f mb.vector.toNat else s

/-- Fires a vector: the interrupt leaves and the pending count returns to zero (R326). -/
def State.fireVector (s : State) (f : Fn) (v : Nat) : State :=
  (s.modFn f (fun x => { x with vectors := insertKey x.vectors v { x.vector v with pending := 0 } })).sendIrq f v

/-- Counts a completion on a vector; it fires when the pending count reaches T (R326, R328). The oldest pending completion
keeps the delay D that held when it was counted (R327). -/
def State.addCompletion (s : State) (f : Fn) (v : Nat) (q : QueueKey) : State :=
  let x := (s.fnState f).vector v
  let x := { x with
    pending := x.pending + 1, due := if x.pending == 0 then s.hostClk + x.d.toNat else x.due, last := some q, idleFor := 0 }
  let s := s.modFn f (fun y => { y with vectors := insertKey y.vectors v x })
  if x.t.toNat ≤ x.pending then s.fireVector f v else s

end Sys2Proof.Machine
end

