-- ==== Sys2Proof/Machine/Ops.lean ====
section
/-! DEFINITION. What every instruction shares: the issuing group, the checks of R151 and R363, taking a fault (18 R361,
R362, R368) and the return from it (17 R355), holds, batons on a stop, and the commit of an effect (07 R151). -/

namespace Sys2Proof.Machine

/-- The outcome of an instruction or event. -/
abbrev Out := Host.Outcome State Fault Refusal

/-! ## The issuing group -/

/-- The context of the group that issues (R44, R51). -/
def ctxOf (s : State) : Option Ctx :=
  match s.team? (teamOf s.cur), s.group? s.cur, s.launch? s.cur.launch with
  | some t, some g, some l =>
    let n := (g.rope.map (·.n)).getD g.width
    match runPath ((g.rope.map (·.paths)).getD g.paths) with
    | none => none
    | some p =>
      let core := t.coreOf s.cur.part
      some { ref := s.cur, team := t, launch := l, group := g, path := p, rope := g.rope, n := n, pc := p.pc, next := p.pc,
             core := core, clk := s.clk core,
             live := match g.rope with
               | some r => fullMask n &&& ~~~r.ended
               | none => g.live,
             ks := (g.rope.map (·.ks)).getD g.ks }
  | _, _, _ => none

/-- Clocks that an instruction occupies its pipe (R16, R51). DEDUCED, log entry 9; DESIGN CHOICE, log entry 19. -/
def Ctx.pipe (c : Ctx) : Nat := (c.n + 15) / 16

/-- A fault that names the live lanes of the path (Table 18.2). -/
def Ctx.pathFault (c : Ctx) (code inner : Nat) : FaultInfo := { code := code, inner := inner, lanes := c.path.mask }

/-! ## Ropes end (R51, R53, R368) -/

/-- A lender returns to the state it held at RECRUIT, or to READY when its stop has completed meanwhile.
DEDUCED, log entry 34. -/
def Group.returnLent (g : Group) (prior : GState) : Group :=
  if g.state == .lent then { g with state := if g.stop.isNone then .ready else prior } else g

/-- Returns every lender of a rope. -/
def State.returnLenders (s : State) (r : Rope) : State :=
  r.lenders.foldl (fun s l => s.modGroup l.group (fun g => g.returnLent l.prior)) s

/-! ## Faults (R361, R362) -/

/-- Reports the failed operations of a group that is gone and that no WAIT has surfaced (R378).
DEDUCED, log entry 38. -/
def State.reportFails (s : State) (t : Team) (g : GroupRef) (fails : List RetiredFail) : State :=
  fails.foldl (fun s f => (s.putRecord { recordOf t g f.pc f.info with flags := 3, unit := failUnit f.cls }).modLaunch g.launch
    (fun l => { l with faulted := true })) s

/-- Delivers the baton of a group that has exited or faulted to its belay target (R37). -/
def State.dropBaton (s : State) (g : GroupRef) (old : Group) : State :=
  match old.slot with
  | none => s
  | some slot => s.modTeam (teamOf g) (fun t => t.modPart g.part (fun q =>
      q.handOn old.belay.toNat false slot (s.clk (t.coreOf g.part)) old.width))

/-- A DBGSTEP that ends in a fault completes with its event record (R355). DEDUCED, log entry 104. -/
def State.stepFaulted (s : State) (g : GroupRef) (old : Group) : State :=
  match old.stepDue with
  | none => s
  | some e => (match s.right? g.launch with
    | some d => s.groupEvent d 2 g
    | none => s).reply e.1 e.2 0

/-- A group becomes FAULTED: the record is written, the baton goes to the belay target, a camp falls due, and without a
debug right the group stops and writes its block record. `pc` is the PC at which a debugger resumes it.
DEDUCED, log entry 104. -/
def State.faultGroup (s : State) (g : GroupRef) (r : Record) (pc : Dword) : State :=
  match s.team? (teamOf g), s.group? g with
  | some t, some old =>
    let held := (s.right? g.launch).isSome
    let s := (s.putRecord r).modLaunch g.launch (fun l => { l with faulted := true })
    let s := match old.rope with
      | some rope => s.returnLenders rope
      | none => s
    let s := s.reportFails t g old.fails
    let s := s.modGroup g (fun x =>
      { x with state := .faulted, slot := none, stop := none, hold := none, replay := none, rope := none, fails := [],
               faultPc := pc, halted := held, stopped := !held, stepDue := none })
    let s := (if held then s else s.putBlockRecord g 2).stepFaulted g old
    let s := s.dropBaton g old
    s.modTeam (teamOf g) (fun t => t.due .fault)
  | _, _ => s

/-- TAKING A FAULT: the one operation by which an instruction at issue faults (R361). In a rope the leader takes HELPER,
with the helper's code, lane position, PC and address (R368, R223). -/
def takeFault (c : Ctx) (f : FaultInfo) (s : State) : State :=
  match c.rope with
  | none => s.faultGroup c.ref (recordOf c.team c.ref c.pc f) c.pc
  | some r =>
    let h := lowLane (if f.lanes == 0 then c.path.mask else f.lanes)
    let info : FaultInfo := { code := 0x0E, inner := f.code, address := f.address, lanes := 1#64 <<< r.leaderLane }
    s.faultGroup c.ref
      { recordOf c.team c.ref r.recruitPc info with flags := 4, hlane := r.positions.getD h 0xFF, secPc := c.pc } r.recruitPc

/-- THE RETURN FROM A FAULT, or from a halt: a debugger releases a group (R355, R362). A FAULTED group becomes READY at
its recorded PC; a halted one goes on from the state before the halt. -/
def Group.release (g : Group) : Group :=
  if g.state == .faulted then
    if g.stopped then g
    else { g with state := .ready, halted := false, paths := match runPath g.paths with
      | some p => replacePath g.paths p [{ p with pc := g.faultPc }]
      | none => g.paths }
  else { g with halted := false }

/-! ## Checks (R151, R363) -/

/-- What an instruction finds at issue beyond the checks that all share, and its effect. The fields are in the order of
R363 and R373; `range` is an OPERAND that a register's value decides, `codes` names registers beyond the operand fields, `emulated` asks for the firmware of R95, and `hold`
keeps the group from issuing. -/
structure Plan where
  operand : Option FaultInfo := none
  codes : List Byte := []
  shape : Option FaultInfo := none
  uniform : Option FaultInfo := none
  range : Option FaultInfo := none
  partialMask : Option FaultInfo := none
  path : Option FaultInfo := none
  baton : Option FaultInfo := none
  rope : Option FaultInfo := none
  format : Option FaultInfo := none
  mem : MemCheck := .ok
  data : Option FaultInfo := none
  emulated : Bool := false
  hold : Option Hold := none
  effect : State

/-- What becomes of an instruction at issue. -/
inductive Verdict where
  | fault (f : FaultInfo)
  | replay (f : FaultInfo)
  | hold (h : Hold)
  | go
  deriving DecidableEq, Repr

/-- The instruction of an X form, or of a B form in its X terms: family, function, fields, length in words, and the
field that the encoding rules refuse. `place` gives the place in its own words of a field of the X form. -/
structure Op where
  family : Nat
  func : Nat
  x : XF
  len : Nat := 3
  bad : Option (Nat × Nat) := none
  immB : Option Dword := none
  immC : Option Dword := none
  place : Nat × Nat → Nat × Nat := id
  /-- the group issues its next instruction as soon as the pipe is free (R286) -/
  prompt : Bool := false

/-- What the function accepts; a refused encoding has an empty one. -/
def Op.sig (o : Op) : Sig := (sigOf o.family o.func o.x).getD { segs := [] }

/-- The registers that an instruction names, in the order D, A, B, C. -/
def Ctx.named (c : Ctx) (o : Op) : List Byte :=
  roleCodes o.sig.d o.x.d ++ c.sourceCodes o.family o.func o.sig o.x

/-- HAZARD: the first named register whose write is pending (R73). -/
def Ctx.hazard (c : Ctx) (codes : List Byte) : Option FaultInfo :=
  let pend := c.group.pending
  codes.findSome? (fun k => (pend.find? (fun p => p.1 == k)).map (fun p =>
    { code := 0x04, inner := k.toNat, address := p.2, lanes := c.path.mask }))

/-- MAIL_EMPTY: a mailbox that is read while empty, with its last writer and that group's state (R35, R68). -/
def Ctx.mailFault (c : Ctx) (codes : List Byte) : Option FaultInfo :=
  let check := fun (code : Byte) (m : Mailbox) =>
    if codes.contains code && !m.full then
      let st := match (c.team.group? c.ref.part m.writer.toNat).map (·.state) with
        | some .exited => 1
        | some .faulted => 2
        | _ => 0
      let st := if 0x20 ≤ m.writer.toNat then 0 else st
      some { code := 0x0A, inner := code.toNat, address := BitVec.ofNat 64 (m.writer.toNat + 256 * st),
             lanes := c.path.mask : FaultInfo }
    else none
  (check 0xC0 c.group.m0).orElse (fun _ => check 0xC1 c.group.m1)

/-- ROPE_BUDGET: an executing helper has spent its budget (R54, R221). -/
def Ctx.budgetFault (c : Ctx) (exec : Mask) : Option FaultInfo :=
  match c.rope with
  | none => none
  | some r =>
    let bad := maskOf c.n (fun h => laneBit exec h && c.launch.desc.budget ≤ r.used.getD h 0)
    if bad == 0 then none else some { code := 0x0D, lanes := bad }

/-- The codes that an instruction reads. -/
def Ctx.reads (c : Ctx) (o : Op) : List Byte := c.sourceCodes o.family o.func o.sig o.x

/-- Of two OPERAND faults, the one of the first field: words ascending, bits from 31 down (Table 18.2). -/
def firstOperand (a b : Option FaultInfo) : Option FaultInfo :=
  match a, b with
  | some x, some y =>
    if y.inner / 256 < x.inner / 256 || (y.inner / 256 == x.inner / 256 && x.inner % 256 < y.inner % 256) then b else a
  | some _, none => a
  | none, _ => b

/-- A register that an instruction names waits for the engine, or, in a helper, for a load (R261, R295).
DEDUCED, log entry 47. -/
def Ctx.awaits (c : Ctx) (codes : List Byte) : Bool :=
  codes.any (fun k => c.group.interlocked.contains k || (clsOf k == .h && c.group.pendingHelpers.contains (codeNum k)))

/-- The faults of the words alone and of the kernel's declarations, with the OPERAND that a register's value decides once
nothing that the instruction names is awaited (R62, R151, R167). DEDUCED, log entry 47. -/
def Ctx.wordFault (c : Ctx) (o : Op) (p : Plan) : Option FaultInfo :=
  (o.bad.map (fun e => c.pathFault 0x01 (256 * e.1 + e.2))).orElse fun _ =>
    firstOperand (firstOperand ((firstField ((c.operandFaults o.family o.func o.sig o.x).map o.place)).map
      (fun e => c.pathFault 0x02 (256 * e.1 + e.2))) p.operand)
      (if c.awaits (c.named o ++ p.codes) then none else p.range)

/-- The faults that follow, up to the memory checks, in the order of R363. -/
def Ctx.issueFault (c : Ctx) (o : Op) (p : Plan) : Option FaultInfo :=
  let exec := c.exec o.x.mask.toNat
  [c.hazard (c.named o ++ p.codes),
    p.shape, p.uniform, p.partialMask, p.path,
    c.mailFault (c.reads o),
    p.baton,
    (c.ropeFault o.family o.func o.sig o.x).map (fun i => { code := 0x0C, inner := i, lanes := exec }),
    p.rope, c.budgetFault exec,
    p.format].findSome? id

/-- The first fault, wait or hold of an instruction, or none (R151, R261, R295, R363, R373).
DEDUCED, log entry 47. -/
def Ctx.verdict (c : Ctx) (o : Op) (resumed : Bool) (p : Plan) : Verdict :=
  match c.wordFault o p with
  | some f => .fault f
  | none =>
    if c.awaits (c.named o ++ p.codes) then .hold .retry
    else match c.issueFault o p, p.mem with
    | some f, _ => .fault f
    | none, .fault f => .fault f
    | none, .replay f => .replay f
    | none, .wait => .hold .channel
    | none, .ok =>
      match (c.poisonOf o.family o.func o.sig o.x (c.exec o.x.mask.toNat)).orElse (fun _ => p.data) with
      | some f => .fault f
      | none =>
        if p.emulated && !resumed then .hold (.emulated o.family o.func o.x o.len)
        else match p.hold with
          | some h => .hold h
          | none => .go

/-! ## Holding and committing -/

/-- Sets why a group holds its baton without issuing. -/
def Ctx.setHold (c : Ctx) (h : Hold) (s : State) : State := s.modGroup c.ref (fun g => { g with hold := some h, prompt := false })

/-- A translation waits for its entry: the replay record is written once (R374). -/
def Ctx.takeReplay (c : Ctx) (f : FaultInfo) (s : State) : State :=
  let again := match c.group.replay with
    | some r => r.va == f.address
    | none => false
  let s := if again then s else s.putRecord { recordOf c.team c.ref c.pc f with flags := 0 }
  let clk := match c.group.replay with
    | some r => if again then r.clk else c.clk
    | none => c.clk
  s.modGroup c.ref (fun g =>
    { g with hold := some .xlate, prompt := false, replay := some { clk := clk, va := f.address, level := f.inner - 256, lanes := f.lanes } })

/-- Poisoned words read only for lanes that do not execute are counted, at their offset in the register window (R380, R381).
DESIGN CHOICE, log entry 77. -/
def Ctx.countIdle (c : Ctx) (o : Op) (s : State) : State :=
  let exec := c.exec o.x.mask.toNat
  (c.sourcePats o.family o.func o.sig o.x).foldl (fun s e =>
    match (List.range c.n).find? (fun l => !laneBit exec l && c.poisoned e.1 e.2.1 e.2.2 l) with
    | none => s
    | some l =>
      let f := c.poisonFault e.1 (c.fromLane e.2.1 e.2.2 l) 0
      s.coreError f.inner c.core true (BitVec.ofNat 64 (f.address.toNat % 2 ^ 28))) s

/-- What every instruction that has passed its checks does first: the hold ends, the pipe is taken, the helpers' budgets
are charged, and the mailboxes that it reads become empty (R35, R54). DEDUCED, log entry 9; DESIGN CHOICE, log entry 87. -/
def Ctx.begin_ (c : Ctx) (o : Op) (s : State) : State :=
  let exec := c.exec o.x.mask.toNat
  let codes := c.reads o
  let s := if (c.sourcePats o.family o.func o.sig o.x).any (fun e => (c.regOf e.1).poison != 0) then c.countIdle o s else s
  s.modGroup c.ref (fun g =>
    { g with
      hold := none, replay := none, readyAt := c.clk + c.pipe, busyUntil := c.clk + c.pipe
      prompt := o.prompt && !c.inRope
      m0 := if codes.contains 0xC0 then { g.m0 with full := false } else g.m0
      m1 := if codes.contains 0xC1 then { g.m1 with full := false } else g.m1
      rope := g.rope.map (fun r => { r with
        used := r.used.zipIdx.map (fun (u, h) => if laneBit exec h then u + 1 else u) }) })

/-- The register rows that the arrival of loads of a group may write. -/
def Group.loadLogs (g : Group) (p i : Nat) : List LogKey :=
  (g.ld.filter (fun o => !o.done)).flatMap (fun o => o.delivers.flatMap (fun d =>
    match d with
    | .lanes c _ => if loggedReg c then regRows p i c g.width (fullMask g.width) else []
    | .whole c _ => if loggedReg c then regRows p i c g.width (fullMask g.width) else []
    | .helper _ _ => []))

/-- Bytes of the undo log that the outstanding stores, loads and engine operations of a team may still take.
DEDUCED, log entry 82. -/
def Team.pendingLog (t : Team) : Nat :=
  let gs := t.allGroups
  let bs := gs.flatMap (fun e => (e.2.st.filter (fun o => !o.done)).flatMap (·.bytes))
  let tl := gs.flatMap (fun e => e.2.tl.filter (fun o => !o.done))
  let sectors := dedup ((bs.filter (fun b => b.space = .phys)).map (fun b => b.addr / 32) ++ tl.flatMap (·.sectors))
  let keys := dedup (bs.flatMap (fun b => if b.space.owner = some t.ref then logKeyOf b else [])
    ++ gs.flatMap (fun e => e.2.loadLogs e.1.part e.1.grp) ++ tl.flatMap (·.logs))
  32 * (sectors.filter (fun x => !t.undo.any (fun u => u.sector == x))).length
    + (keys.filter (fun k => !t.log.contains k)).foldl (fun n k => n + k.bytes) 0

/-- The undo log of a core holds what its running teams have logged and may yet log (R322).
DEDUCED, log entry 82. -/
def State.logFits (s : State) (core : Nat) : Bool :=
  (s.teamsIn core).foldl
    (fun n t => n + t.logBytes + t.pendingLog) 0 ≤ Config.undoLogBytes

/-- Charges what a rope's instruction has added to the undo log to the rope (R322, R369). -/
def Ctx.chargeRope (c : Ctx) (s : State) : State :=
  if !c.inRope then s
  else
    let after := match s.team? (teamOf c.ref) with
      | some t => t.logBytes + t.pendingLog
      | none => 0
    let added := after - (c.team.logBytes + c.team.pendingLog)
    s.modGroup c.ref (fun g => { g with rope := g.rope.map (fun r => { r with logBytes := r.logBytes + added }) })

/-- Commits an effect and the JOINs that it lets complete, or holds the instruction until the undo log has room (R322).
DEDUCED, log entry 9; DEDUCED, log entry 44; DEDUCED, log entry 82. -/
def Ctx.commit (c : Ctx) (effect s : State) : State :=
  let e := c.chargeRope (effect.modGroup c.ref Group.settle)
  if e.logFits c.core then e else c.setHold .undoLog s

/-- Runs an instruction of the issuing group: its checks, its holds, and its effect (R151). DEDUCED, log entry 9. -/
def runOp (o : Op) (plan : Ctx → State → Plan) (s : State) (resumed : Bool := false) : Out :=
  match ctxOf s with
  | none => .fault .noIssuer
  | some c0 =>
    let c := { c0 with next := c0.pc + BitVec.ofNat 64 (4 * o.len), immB := o.immB, immC := o.immC }
    let p := plan c (c.begin_ o s)
    match c.verdict o resumed p with
    | .fault f => .next (takeFault c f s)
    | .replay f => .next (c.takeReplay f s)
    | .hold h => .next (c.setHold h s)
    | .go => .next (c.commit p.effect s)

/-- The literal that stands in place of source C (R163). -/
def litC (family func : Nat) (x : XF) : Option Dword :=
  match (sigOf family func x).map Sig.lit with
  | some .replC => x.lit
  | some .repl64 => x.lit
  | _ => none

/-- An X or XL instruction as an operation. -/
def opX (family func : Nat) (x : XF) : Op :=
  { family := family, func := func, x := x, len := if x.lit.isSome then 5 else 3, bad := illegalX family func x,
    immC := litC family func x
    prompt := family == 0x01 || (family == 0x07 && func == 0x00) || (family == 0x0B && (func == 0x0A || func == 0x0B)) }

/-- Runs an X-form instruction. -/
def runX (family func : Nat) (x : XF) (plan : Ctx → State → Plan) (s : State) (resumed : Bool := false) : Out :=
  runOp (opX family func x) plan s resumed

/-! ## Moving on -/

/-- Moves the paths of the group, or of its rope. -/
def Ctx.setPaths (c : Ctx) (f : List Path → List Path) (s : State) : State :=
  s.modGroup c.ref (fun g => if c.inRope then { g with rope := g.rope.map (fun r => { r with paths := f r.paths }) }
    else { g with paths := f g.paths })

/-- The path goes on at a PC. -/
def Ctx.goto (c : Ctx) (pc : Dword) (s : State) : State :=
  c.setPaths (fun ps => replacePath ps c.path [{ c.path with pc := pc }]) s

/-- The path goes on with the next instruction. -/
def Ctx.advance (c : Ctx) (s : State) : State := c.goto c.next s

/-! ## Successors, stops and batons (R36, R39) -/

/-- The target that a successor code names, by way of the belay register or of an s register; none is OPERAND. -/
def Ctx.successor (c : Ctx) (code : Byte) : Option Nat :=
  let n := code.toNat
  if n < 0x20 || n == 0x21 then some n
  else if n == 0x20 then some c.group.belay.toNat
  else
    let v := bits (c.read (code + 0x60) 0).toNat 0 8
    if v < 0x20 || v == 0x21 then some v else if v == 0x20 then some c.group.belay.toNat else none

/-- The issuing group's partition of its team. -/
def Ctx.part (c : Ctx) : Part := c.team.cur.parts.getD c.ref.part {}

/-- OPERAND of a successor that an s register gives. -/
def Ctx.succOperand (c : Ctx) (code : Byte) (word low : Nat) : Option FaultInfo :=
  if (c.successor code).isNone then some (c.pathFault 0x02 (256 * word + low)) else none

/-- BATON_TARGET of a successor (R36, R366). -/
def Ctx.succBaton (c : Ctx) (code : Byte) (alt : Bool) : Option FaultInfo :=
  ((c.successor code).bind (fun t => batonTarget c.part t alt)).map (fun i => c.pathFault 0x0B i)

/-- Delivers the issuing group's baton; its state has been set to one without it. -/
def Ctx.passBaton (c : Ctx) (target : Nat) (direct : Bool) (s : State) : State :=
  match c.group.slot with
  | none => s
  | some slot => s.modTeam (teamOf c.ref) (fun t => t.modPart c.ref.part (fun q =>
      q.handOn target direct slot c.clk c.group.width))

/-- The group stops and its baton goes to the successor (R39). -/
def Ctx.stopAt (c : Ctx) (what : Stop) (succ : Byte) (s : State) : State :=
  let st := match what with
    | .park => GState.parked
    | _ => GState.waiting
  let s := s.modGroup c.ref (fun g => { g with state := st, slot := none, stop := some { what := what, pc := c.pc, next := c.next } })
  c.passBaton ((c.successor succ).getD 0x21) true s

/-! ## Counters (R74) -/

/-- The hold of an operation that would take a counter past 63. -/
def Ctx.counterHold (c : Ctx) (cls : CreditClass) (n : Nat := 1) : Option Hold :=
  if 63 < c.group.counter cls + n then some .retry else none

/-- The hold of an access that waits for the response of a link, with the address and the lanes that a LINK fault names and
the clock of the host interface (chapter 19, Links). DEDUCED, log entry 13. -/
def linkHold (seq clk : Nat) (link : Option (Dword × Mask)) : Option Hold := link.map (fun e => .link seq e.1 e.2 clk)

/-- Adds an LD-class operation of the issuing group; `srcs` holds where the words of its result come from. -/
def Ctx.addLd (c : Ctx) (delivers : List Deliver) (s : State) (link : Option (Dword × Mask) := none) (engine : Bool := false)
    (srcs : List (Byte × Nat × Loc) := []) (lds : Bool := false) : State :=
  s.modGroup c.ref (fun g => { g with
    ld := g.ld ++ [{ seq := g.nextSeq, pc := c.pc, delivers := delivers, engine := engine, lds := lds,
                     srcs := srcs.map (fun e => (e.1, e.2.1, e.2.2.space, e.2.2.addr)) }]
    nextSeq := g.nextSeq + 1
    hold := (linkHold g.nextSeq s.hostClk link).orElse (fun _ => g.hold) })

/-- Adds an ST-class operation of the issuing group. -/
def Ctx.addSt (c : Ctx) (scope : Nat) (bytes : List StoreByte) (irrevocable : Bool) (s : State)
    (link : Option (Dword × Mask) := none) : State :=
  s.modGroup c.ref (fun g => { g with
    st := g.st ++ [{ seq := g.nextSeq, pc := c.pc, scope := scope, bytes := bytes, irrevocable := irrevocable }]
    nextSeq := g.nextSeq + 1
    hold := (linkHold g.nextSeq s.hostClk link).orElse (fun _ => g.hold) })

/-- A group that held for a full counter, table or interlock issues again (R74, R261, R264). -/
def Group.unretry (g : Group) : Group := if g.hold = some .retry then { g with hold := none } else g

/-- Every earlier LD- and ST-class access of the group is performed (R139). DEDUCED, log entry 14. -/
def Group.quiet (g : Group) : Bool := g.ld.all (·.done) && g.st.all (·.done)

end Sys2Proof.Machine
end

