-- ==== Sys2Proof/Machine/Compute.lean ====
section
/-! DEFINITION. The skeleton that every compute instruction runs through (08 R175 to R178) and the terms in which a B-form
compute major is its X-form function (08 R179). -/

namespace Sys2Proof.Machine

/-- What a function does with operands A, B, C and the old D of one lane: the result word and its flags. The last argument
is the lane. -/
abbrev LaneOp := Word → Word → Word → Word → Nat → Word × Flags

/-- The shape of a field that the function uses; an unused one counts as U. -/
def usedShape (r : Role) (sh : Shape) : Shape := if r.used then sh else { tag := .u }

/-- The shapes of operands A, B and C, and of D when the function reads it. -/
def Ctx.shapes (c : Ctx) (family func : Nat) (g : Sig) (x : XF) : Shape × Shape × Shape × Shape :=
  (usedShape g.a (c.towards x.a none (c.shapeA g x)), usedShape g.b (c.towards x.b c.immB (c.shapeB g x)),
   usedShape g.c (c.towards x.c c.immC (c.shapeC x)),
   if readsD family func then c.shapeOf x.d else { tag := .u })

/-- The shape of a result: U when every operand is U and the operation is lane-independent, then the A rows of Table 3.3,
else G (R66, R176). DEDUCED, log entry 30. -/
def resultShape (aff : Affine) (laneDep : Bool) (value : Word) (a b c d : Shape) : Shape :=
  if a.tag == .u && b.tag == .u && c.tag == .u && d.tag == .u then
    if laneDep then { tag := .g } else { tag := .u, base := value }
  else (affineShape aff a b c).getD { tag := .g }

/-- A function that writes one word to D: its checks and its effect (R175, R176). -/
def computePlan (family func : Nat) (aff : Affine) (laneDep : Bool) (op : LaneOp) (x : XF) (c : Ctx) (s : State) : Plan :=
  let g := (sigOf family func x).getD { segs := [] }
  let exec := c.exec x.mask.toNat
  let (sa, sb, sc, sd) := c.shapes family func g x
  let whole := op sa.base sb.base sc.base sd.base 0
  let sh := resultShape aff laneDep whole.1 sa sb sc sd
  let res := fun (l : Nat) => op (c.opA g x l) (c.opB g x l) (c.opC x l) (c.read x.d l) l
  let compact := clsOf x.d == .w || clsOf x.d == .s
  let flags := if compact then whole.2 else orFlags ((lanesOf c.n exec).map (fun l => (res l).2))
  { shape := shapeFault x.d sh.tag c.path.mask
    partialMask := c.partialFault x.d x.wmode.toNat exec
    effect := c.advance ((c.writeDst s x.d (fun l => (res l).1) sh exec (x.wmode == 2)).addFlags c.ref flags) }

/-- The low and high words of a 64-bit value. -/
def loWord (d : Dword) : Word := d.extractLsb' 0 32
def hiWord (d : Dword) : Word := d.extractLsb' 32 32

/-- Writes a 64-bit result to a pair (R65). DEDUCED, log entry 31. -/
def Ctx.writePair (c : Ctx) (s : State) (d : Byte) (vals : Nat → Dword) (lo hi : Shape) (exec : Mask) (zero : Bool) : State :=
  if clsOf d == .vz then s
  else c.writeDst (c.writeDst s d (fun l => loWord (vals l)) lo exec zero) (succCode d) (fun l => hiWord (vals l)) hi exec zero

/-- A 64-bit operand A or B at lane `l`; a literal gives all 64 bits. -/
def Ctx.wideA (c : Ctx) (x : XF) (l : Nat) : Dword := c.read64 x.a x.apat.toNat x.aparm.toNat l
def Ctx.wideB (c : Ctx) (x : XF) (l : Nat) : Dword := c.read64 x.b x.bpat.toNat x.bparm.toNat l

/-- The value of a pair whose halves have tag U. -/
def Ctx.wideBase (c : Ctx) (code : Byte) (pat : Nat) : Dword :=
  if clsOf code == .vz then 0
  else (c.shapeOp (succCode code) pat .zero 0).base ++ (c.shapeOp code pat .zero 0).base

/-- A function of type 101 with 64-bit operands: the result is U when every operand is, else G (R65). -/
def widePlan (x : XF) (tags : List Tag) (whole : Dword) (res : Nat → Dword) (c : Ctx) (s : State) : Plan :=
  let exec := c.exec x.mask.toNat
  let tag := if tags.all (· == .u) then Tag.u else .g
  { shape := shapeFault x.d tag c.path.mask
    partialMask := c.partialFault x.d x.wmode.toNat exec
    effect := c.advance (c.writePair s x.d res { tag := tag, base := loWord whole } { tag := tag, base := hiWord whole } exec
      (x.wmode == 2)) }

/-! ## The B-form majors as X functions (R154, R179) -/

/-- The write mode of a B-form word: merge for a v or m destination, whole otherwise (R154). -/
def bMode (d : Byte) : BitVec 2 := if clsOf d == .v || clsOf d == .m then 1 else 0

/-- The X fields of a B-form word with operands A, B and the addend C. -/
def xB (ty : Nat) (d a b c : Byte) (f : Byte := 0) : XF :=
  { d := d, a := a, b := b, c := c, wmode := bMode d, type := BitVec.ofNat 3 ty, f := f }

/-- An immediate of `n` bits, sign-extended. -/
def simm (n v : Nat) : Dword := BitVec.ofInt 64 (if v < 2 ^ (n - 1) then (v : Int) else (v : Int) - 2 ^ n)

/-- Runs a B-form instruction: its word decides the encoding check. -/
def runB (word : Word) (family func : Nat) (x : XF) (immB : Option Dword) (plan : Ctx → State → Plan) (s : State) : Out :=
  runOp { family := family, func := func, x := x, len := 1, bad := illegalB word, immB := immB, prompt := family == 0x01 } plan s

/-- The base word of a BL-form instruction. -/
def wordBL (major : Nat) (a b : Byte) : Word := (1 : BitVec 2) ++ BitVec.ofNat 6 major ++ a ++ b ++ (0 : Byte)

/-- Runs a BL-form instruction with its literal in place of B. -/
def runBL (major : Nat) (a b : Byte) (lit : Dword) (family func : Nat) (x : XF) (plan : Ctx → State → Plan) (s : State) : Out :=
  runOp { family := family, func := func, x := x, len := 3, bad := illegalBL (wordBL major a b) lit, immB := some lit } plan s

end Sys2Proof.Machine
end

