-- ==== Sys2Proof/Machine/FpFun.lean ====
section
/-! DEFINITION. The correctly rounded FEXP2, FLOG2, FSINPI, FCOSPI and FTANH (08 R184, R186).

Each is computed in fixed point with `P` fraction bits and rounded once. The arguments for which the exact result is a
dyadic number are taken apart first; for every other argument the result is irrational, so the discarded part is never
zero. UNVERIFIED, log entry 78: that no exact result lies within the computation's error of a rounding boundary. -/

namespace Sys2Proof.Machine.Fp

/-- Fraction bits of the fixed-point values below. -/
def P : Nat := 400

/-- Product of two fixed-point values. -/
def fixMul (a b : Nat) : Nat := a * b / 2 ^ P

/-- exp(y) for a fixed-point y below 1: the series of y / 2^16, squared 16 times. -/
def fixExp (y : Nat) : Nat :=
  let z := y / 2 ^ 16
  let s := (List.range 40).foldl
    (fun (acc : Nat × Nat) i => (acc.1 + acc.2, fixMul acc.2 z / (i + 2))) (2 ^ P, z)
  (List.range 16).foldl (fun r _ => fixMul r r) s.1

/-- 2·artanh(z) for a fixed-point z of at most 1/3. -/
def fixAtanh2 (z : Nat) : Nat :=
  let z2 := fixMul z z
  2 * ((List.range 140).foldl (fun (acc : Nat × Nat) i => (acc.1 + acc.2 / (2 * i + 1), fixMul acc.2 z2)) (0, z)).1

/-- ln 2 = 2·artanh(1/3). -/
def fixLn2 : Nat := fixAtanh2 (2 ^ P / 3)

/-- arctan(1/k). -/
def fixAtanInv (k : Nat) : Nat :=
  let s := (List.range 100).foldl
    (fun (acc : Int × Nat) i =>
      let t : Int := (acc.2 / (2 * i + 1) : Nat)
      (if i % 2 == 0 then acc.1 + t else acc.1 - t, acc.2 / (k * k))) ((0 : Int), 2 ^ P / k)
  s.1.toNat

/-- π = 16·arctan(1/5) − 4·arctan(1/239). -/
def fixPi : Nat := 16 * fixAtanInv 5 - 4 * fixAtanInv 239

/-- sin or cos of a fixed-point y of at most 1. -/
def fixSinCos (cos : Bool) (y : Nat) : Nat :=
  let y2 := fixMul y y
  let off := if cos then 0 else 1
  let s := (List.range 50).foldl
    (fun (acc : Int × Nat) i =>
      let t : Int := (acc.2 : Nat)
      let k := 2 * i + off
      (if i % 2 == 0 then acc.1 + t else acc.1 - t, fixMul acc.2 y2 / ((k + 1) * (k + 2)))) ((0 : Int), if cos then 2 ^ P else y)
  s.1.toNat

/-- |x| in fixed point. UNVERIFIED, log entry 78. -/
def fixOf (m : Nat) (e : Int) : Nat := shiftNat m (e + P)

/-- Rounds a positive fixed-point value with a nonzero discarded part. UNVERIFIED, log entry 78. -/
def roundFix (neg : Bool) (r : Nat) (k : Int) : Nat × Flags := roundFin fp32 0 0 neg r (k - P) true

/-- round(2^a). UNVERIFIED, log entry 78. -/
def exp2 (v : Val) : Nat × Flags :=
  match v with
  | .nan i => roundVal fp32 0 0 (.nan i)
  | .inf n => roundVal fp32 0 0 (if n then .fin false 0 0 else .inf false)
  | .fin n m e =>
    if m == 0 then roundVal fp32 0 0 (.fin false 1 0)
    else if 10 ≤ topExp m e then roundFin fp32 0 0 false 1 (if n then -1000 else 1000) false
    else
      let a := fixOf m e
      let whole := a / 2 ^ P
      let part := a % 2 ^ P
      if part == 0 then roundVal fp32 0 0 (.fin false 1 (if n then -(whole : Int) else whole))
      else
        let (k, fr) : Int × Nat := if n then (-(whole : Int) - 1, 2 ^ P - part) else ((whole : Int), part)
        roundFix false (fixExp (fixMul fr fixLn2)) k

/-- round(log2 a). UNVERIFIED, log entry 78. -/
def log2 (v : Val) : Nat × Flags :=
  match v with
  | .nan i => roundVal fp32 0 0 (.nan i)
  | .inf n => roundVal fp32 0 0 (if n then .nan true else .inf false)
  | .fin n m e =>
    if m == 0 then let (r, fl) := roundVal fp32 0 0 (.inf true); (r, fl ||| fDivZero)
    else if n then roundVal fp32 0 0 (.nan true)
    else
      let top := topExp m e
      if m == 2 ^ m.log2 then roundVal fp32 0 0 (if top == 0 then .fin false 0 0 else ofInt top)
      else
        let one := 2 ^ P
        let f := fixOf m (e - top)
        let ln := fixAtanh2 ((f - one) * one / (f + one))
        let l : Int := top * (one : Nat) + (ln * one / fixLn2 : Nat)
        if l < 0 then roundFix true l.natAbs 0 else roundFix false l.natAbs 0

/-- round(sin(π·r)) for 0 < r < 1 in fixed point, r not 1/2, with a sign. -/
def sinPart (neg : Bool) (r : Nat) : Nat × Flags :=
  let half := 2 ^ P / 2
  let q := if half < r then 2 ^ P - r else r
  if q ≤ half / 2 then roundFix neg (fixSinCos false (fixMul q fixPi)) 0
  else roundFix neg (fixSinCos true (fixMul (half - q) fixPi)) 0

/-- round(sin(π·a)). UNVERIFIED, log entry 78. -/
def sinpi (v : Val) : Nat × Flags :=
  match v with
  | .nan i => roundVal fp32 0 0 (.nan i)
  | .inf _ => roundVal fp32 0 0 (.nan true)
  | .fin n m e =>
    let a := fixOf m e % 2 ^ (P + 1)
    let r := a % 2 ^ P
    let neg := n != (2 ^ P ≤ a)
    if m == 0 || r == 0 then roundVal fp32 0 0 (.fin n 0 0)
    else if r == 2 ^ P / 2 then roundVal fp32 0 0 (.fin neg 1 0)
    else sinPart neg r

/-- round(cos(π·a)). UNVERIFIED, log entry 78. -/
def cospi (v : Val) : Nat × Flags :=
  match v with
  | .nan i => roundVal fp32 0 0 (.nan i)
  | .inf _ => roundVal fp32 0 0 (.nan true)
  | .fin _ m e =>
    let a := (fixOf m e + 2 ^ P / 2) % 2 ^ (P + 1)
    let r := a % 2 ^ P
    let neg : Bool := decide (2 ^ P ≤ a)
    if r == 0 then roundVal fp32 0 0 (.fin false 0 0)
    else if r == 2 ^ P / 2 then roundVal fp32 0 0 (.fin neg 1 0)
    else sinPart neg r

/-- round(tanh a). UNVERIFIED, log entry 78. -/
def tanh (v : Val) : Nat × Flags :=
  match v with
  | .nan i => roundVal fp32 0 0 (.nan i)
  | .inf n => roundVal fp32 0 0 (.fin n 1 0)
  | .fin n m e =>
    if m == 0 then roundVal fp32 0 0 (.fin n 0 0)
    else if topExp m e < -90 then roundFin fp32 0 0 n (m * 2 ^ 100 - 1) (e - 100) true
    else if 6 ≤ topExp m e then roundFin fp32 0 0 n (2 ^ 100 - 1) (-100) true
    else
      let one := 2 ^ P
      let y := 2 * fixOf m e
      let k := y / fixLn2
      let en := fixExp (fixLn2 - y % fixLn2) / 2 ^ (k + 1)
      roundFix n ((one - en) * one / (one + en)) 0

end Sys2Proof.Machine.Fp
end

