-- ==== Sys2Proof/Machine/Int.lean ====
section
/-! DEFINITION. The INT family (08 R181 to R183, Table 8.2). -/

namespace Sys2Proof.Machine

/-! ## Elements -/

/-- Element width of an integer type code (Table 7.8). -/
def typeWidth (ty : Nat) : Nat :=
  match ty with
  | 0 => 32
  | 1 | 2 => 16
  | 3 => 8
  | 5 => 64
  | _ => 4

/-- An element read as signed (R84). -/
def sx (w n : Nat) : Int := if n < 2 ^ (w - 1) then (n : Int) else (n : Int) - 2 ^ w

/-- An element read as signed, or as unsigned. -/
def rd (uns : Bool) (w n : Nat) : Int := if uns then (n : Int) else sx w n

/-- An integer modulo 2^w. -/
def wrap (w : Nat) (i : Int) : Nat := (i % (2 ^ w : Int)).toNat

/-- An integer clamped to the range of `w` bits (R84). -/
def clampW (uns : Bool) (w : Nat) (i : Int) : Int :=
  if uns then max 0 (min i (2 ^ w - 1)) else max (-(2 ^ (w - 1))) (min i (2 ^ (w - 1) - 1))

/-- SAT and UNS of F (Table 7.14). -/
def satBit (x : XF) : Bool := bit x.f.toNat 4
def unsBit (x : XF) : Bool := bit x.f.toNat 3

/-- An exact integer result, clamped with SAT, else wrapped (R84, R181). -/
def intRes (x : XF) (w : Nat) (i : Int) : Nat :=
  if satBit x then wrap w (clampW (unsBit x) w i) else wrap w i

/-- Applies a function of elements to every element of three lane words (R178). -/
def elemOp (w : Nat) (f : Nat → Nat → Nat → Nat) (a b c : Word) : Word :=
  packElems w ((List.range (32 / w)).map (fun e => f (bits a.toNat (e * w) w) (bits b.toNat (e * w) w) (bits c.toNat (e * w) w)))

/-- An integer function: elements of the instruction's type, no flags (R177). -/
def intOp (x : XF) (f : Nat → Nat → Nat → Nat → Nat) : LaneOp := fun a b c _ _ =>
  (elemOp (typeWidth x.type.toNat) (f (typeWidth x.type.toNat)) a b c, 0)

/-- Element results of Table 8.2 at width `w`. -/
def elAdd (x : XF) (w a b _c : Nat) : Nat := intRes x w (rd (unsBit x) w a + rd (unsBit x) w b)
def elSub (x : XF) (w a b _c : Nat) : Nat := intRes x w (rd (unsBit x) w a - rd (unsBit x) w b)
def elAddc (_w a b c : Nat) : Nat := (a + b + c % 2) / 2 ^ 32
def elSubb (_w a b c : Nat) : Nat := if a < b + c % 2 then 1 else 0
def elMul (x : XF) (w a b _c : Nat) : Nat := intRes x w (rd (unsBit x) w a * rd (unsBit x) w b)
def elMulhS (_w a b _c : Nat) : Nat := wrap 32 ((sx 32 a * sx 32 b) / 2 ^ 32)
def elMulhU (_w a b _c : Nat) : Nat := a * b / 2 ^ 32
def elMad (x : XF) (w a b c : Nat) : Nat := intRes x w (rd (unsBit x) w a * rd (unsBit x) w b + rd (unsBit x) w c)
def elMin (x : XF) (w a b _c : Nat) : Nat := if rd (unsBit x) w b < rd (unsBit x) w a then b else a
def elMax (x : XF) (w a b _c : Nat) : Nat := if rd (unsBit x) w a < rd (unsBit x) w b then b else a
def elAbs (x : XF) (w a _b _c : Nat) : Nat := intRes x w (sx w a).natAbs
def elNeg (x : XF) (w a _b _c : Nat) : Nat := intRes x w (-(sx w a))
def elShl (w a b _c : Nat) : Nat := if w ≤ b then 0 else a * 2 ^ b % 2 ^ w
def elShr (w a b _c : Nat) : Nat := if w ≤ b then 0 else a / 2 ^ b
def elSar (w a b _c : Nat) : Nat := wrap w (sx w a / 2 ^ (min b (w - 1)))
def elCmp (x : XF) (w a b _c : Nat) : Nat :=
  let p := rd (unsBit x) w a
  let q := rd (unsBit x) w b
  let hit := match bits x.f.toNat 0 3 with
    | 0 => p == q
    | 1 => p != q
    | 2 => decide (p < q)
    | 3 => decide (p ≤ q)
    | 4 => decide (q < p)
    | _ => decide (q ≤ p)
  if hit then 2 ^ w - 1 else 0

/-! ## Whole words -/

/-- A function of whole words without flags. -/
def wordOp (f : Word → Word → Word → Word) : LaneOp := fun a b c _ _ => (f a b c, 0)

/-- Rotation to the left by `n` mod 32 (R109). -/
def rotl (x : Word) (n : Nat) : Word := x.rotateLeft (n % 32)

/-- Number of 1 bits. -/
def popWord (x : Word) : Nat := ((List.range 32).filter (fun i => x.getLsbD i)).length
/-- Leading zero bits, 32 for 0. -/
def clzWord (x : Word) : Nat := ((List.range 32).find? (fun i => x.getLsbD (31 - i))).getD 32
/-- Trailing zero bits, 32 for 0. -/
def ctzWord (x : Word) : Nat := ((List.range 32).find? (fun i => x.getLsbD i)).getD 32
/-- Bit `i` of the result is bit 31 − i. -/
def brevWord (x : Word) : Word := BitVec.ofNat 32 ((List.range 32).foldl (fun r i => if x.getLsbD i then r + 2 ^ (31 - i) else r) 0)

/-- Position and length of a bit field (R182). -/
def fieldPos (b : Word) : Nat := bits b.toNat 0 5
def fieldLen (b : Word) : Nat := min (bits b.toNat 8 6) (32 - fieldPos b)

/-- BFX (R182). -/
def bfxWord (uns : Bool) (a b : Word) : Word :=
  let n := fieldLen b
  if n == 0 then 0
  else
    let v := bits a.toNat (fieldPos b) n
    BitVec.ofInt 32 (rd uns n v)

/-- BFI (R182). -/
def bfiWord (d a b : Word) : Word :=
  let m := ((1#32 <<< fieldLen b) - 1) <<< fieldPos b
  (d &&& ~~~m) ||| ((a <<< fieldPos b) &&& m)

/-! ## The operations -/

def opIadd (x : XF) : LaneOp := intOp x (elAdd x)
def opIsub (x : XF) : LaneOp := intOp x (elSub x)
def opIaddc (x : XF) : LaneOp := intOp x elAddc
def opIsubb (x : XF) : LaneOp := intOp x elSubb
def opImul (x : XF) : LaneOp := intOp x (elMul x)
def opImulhS (x : XF) : LaneOp := intOp x elMulhS
def opImulhU (x : XF) : LaneOp := intOp x elMulhU
def opImad (x : XF) : LaneOp := intOp x (elMad x)
def opImin (x : XF) : LaneOp := intOp x (elMin x)
def opImax (x : XF) : LaneOp := intOp x (elMax x)
def opIabs (x : XF) : LaneOp := intOp x (elAbs x)
def opIneg (x : XF) : LaneOp := intOp x (elNeg x)
def opAnd : LaneOp := wordOp (fun a b _ => a &&& b)
def opOr : LaneOp := wordOp (fun a b _ => a ||| b)
def opXor : LaneOp := wordOp (fun a b _ => a ^^^ b)
def opAndn : LaneOp := wordOp (fun a b _ => a &&& ~~~b)
def opNot : LaneOp := wordOp (fun a _ _ => ~~~a)
def opShl (x : XF) : LaneOp := intOp x elShl
def opShr (x : XF) : LaneOp := intOp x elShr
def opSar (x : XF) : LaneOp := intOp x elSar
def opRotl : LaneOp := wordOp (fun a b _ => rotl a b.toNat)
def opRotr : LaneOp := wordOp (fun a b _ => rotl a ((32 - b.toNat % 32) % 32))
def opPopc : LaneOp := wordOp (fun a _ _ => BitVec.ofNat 32 (popWord a))
def opClz : LaneOp := wordOp (fun a _ _ => BitVec.ofNat 32 (clzWord a))
def opCtz : LaneOp := wordOp (fun a _ _ => BitVec.ofNat 32 (ctzWord a))
def opBrev : LaneOp := wordOp (fun a _ _ => brevWord a)
def opBfx (x : XF) : LaneOp := wordOp (fun a b _ => bfxWord (unsBit x) a b)
def opBfi : LaneOp := fun a b _ d _ => (bfiWord d a b, 0)
def opIcmp (x : XF) : LaneOp := intOp x (elCmp x)
def opIsel : LaneOp := wordOp (fun a b c => if c != 0 then a else b)
def opLea : LaneOp := wordOp (fun a b c => a + b <<< (c.toNat % 32))
def opMov : LaneOp := wordOp (fun a _ _ => a)

/-- The A row of Table 3.3 holds for 32-bit results without SAT. DEDUCED, log entry 30. -/
def affOf (x : XF) (k : Affine) : Affine := if x.type == 0 && !satBit x then k else .none

/-- A function of the INT family. -/
def intPlan (func : Nat) (k : Affine) (op : LaneOp) (x : XF) : Ctx → State → Plan := computePlan 0x01 func (affOf x k) false op x

/-- A sum of type 101: the exact sum of 64-bit elements, clamped with SAT, else wrapped. -/
def wideSum (sub : Bool) (x : XF) (c : Ctx) (s : State) : Plan :=
  let f := fun (a b : Dword) => BitVec.ofNat 64 (if sub then elSub x 64 a.toNat b.toNat 0 else elAdd x 64 a.toNat b.toNat 0)
  widePlan x [c.tag64 x.a x.apat.toNat, c.tag64 x.b x.bpat.toNat]
    (f (c.wideBase x.a x.apat.toNat) (c.wideBase x.b x.bpat.toNat)) (fun l => f (c.wideA x l) (c.wideB x l)) c s

def planIadd (x : XF) : Ctx → State → Plan := if x.type == 5 then wideSum false x else intPlan 0x00 .add (opIadd x) x
def planIsub (x : XF) : Ctx → State → Plan := if x.type == 5 then wideSum true x else intPlan 0x01 .sub (opIsub x) x

/-- LEA of type 101: a 32-bit B sign- or zero-extended and shifted (R183). -/
def planLea (x : XF) : Ctx → State → Plan :=
  if x.type == 5 then fun c s =>
    let f := fun (a : Dword) (b k : Word) => a + (if unsBit x then b.zeroExtend 64 else b.signExtend 64) <<< (k.toNat % 32)
    let g := (sigOf 0x01 0x1E x).getD { segs := [] }
    widePlan x [c.tag64 x.a x.apat.toNat, (c.towards x.b c.immB (c.shapeB g x)).tag, (c.towards x.c c.immC (c.shapeC x)).tag]
      (f (c.wideBase x.a x.apat.toNat) (c.shapeB g x).base (c.shapeC x).base)
      (fun l => f (c.wideA x l) (c.opB g x l) (c.opC x l)) c s
  else intPlan 0x1E .lea opLea x

/-- MOV; with type 101 each half of D takes the tag of the matching half of A (R65, R183). DEDUCED, log entry 31. -/
def planMov (x : XF) : Ctx → State → Plan :=
  if x.type == 5 then fun c s =>
    let exec := c.exec x.mask.toNat
    let half := fun (k : Byte) => if clsOf x.a == .vz then ({ tag := .u } : Shape) else c.shapeOp k x.apat.toNat .zero 0
    let lo := half x.a
    let hi := half (succCode x.a)
    { shape := (shapeFault x.d lo.tag c.path.mask).orElse (fun _ => shapeFault (succCode x.d) hi.tag c.path.mask)
      partialMask := c.partialFault x.d x.wmode.toNat exec
      effect := c.advance (c.writePair s x.d (c.wideA x) lo hi exec (x.wmode == 2)) }
  else intPlan 0x1F .mov opMov x

/-- LDI: the literal with tag U (R163). DEDUCED, log entry 31. -/
def planLdi (x : XF) (c : Ctx) (s : State) : Plan :=
  let v := x.lit.getD 0
  if x.type == 5 then widePlan x [] v (fun _ => v) c s
  else computePlan 0x01 0x20 .none false (fun _ _ _ _ _ => (loWord v, 0)) x c s

/-! ## Meanings -/

def execIaddX (x : XF) (s : State) : Out := runX 0x01 0x00 x (planIadd x) s
def execIsubX (x : XF) (s : State) : Out := runX 0x01 0x01 x (planIsub x) s
def execIaddc (x : XF) (s : State) : Out := runX 0x01 0x02 x (intPlan 0x02 .none (opIaddc x) x) s
def execIsubb (x : XF) (s : State) : Out := runX 0x01 0x03 x (intPlan 0x03 .none (opIsubb x) x) s
def execImulX (x : XF) (s : State) : Out := runX 0x01 0x04 x (intPlan 0x04 .mul (opImul x) x) s
def execImulhS (x : XF) (s : State) : Out := runX 0x01 0x05 x (intPlan 0x05 .none (opImulhS x) x) s
def execImulhU (x : XF) (s : State) : Out := runX 0x01 0x06 x (intPlan 0x06 .none (opImulhU x) x) s
def execImadX (x : XF) (s : State) : Out := runX 0x01 0x07 x (intPlan 0x07 .none (opImad x) x) s
def execIminX (x : XF) (s : State) : Out := runX 0x01 0x08 x (intPlan 0x08 .none (opImin x) x) s
def execImaxX (x : XF) (s : State) : Out := runX 0x01 0x09 x (intPlan 0x09 .none (opImax x) x) s
def execIabs (x : XF) (s : State) : Out := runX 0x01 0x0A x (intPlan 0x0A .none (opIabs x) x) s
def execIneg (x : XF) (s : State) : Out := runX 0x01 0x0B x (intPlan 0x0B .none (opIneg x) x) s
def execAndX (x : XF) (s : State) : Out := runX 0x01 0x0C x (intPlan 0x0C .none opAnd x) s
def execOrX (x : XF) (s : State) : Out := runX 0x01 0x0D x (intPlan 0x0D .none opOr x) s
def execXorX (x : XF) (s : State) : Out := runX 0x01 0x0E x (intPlan 0x0E .none opXor x) s
def execAndn (x : XF) (s : State) : Out := runX 0x01 0x0F x (intPlan 0x0F .none opAndn x) s
def execNot (x : XF) (s : State) : Out := runX 0x01 0x10 x (intPlan 0x10 .none opNot x) s
def execShlX (x : XF) (s : State) : Out := runX 0x01 0x11 x (intPlan 0x11 .shl (opShl x) x) s
def execShrX (x : XF) (s : State) : Out := runX 0x01 0x12 x (intPlan 0x12 .none (opShr x) x) s
def execSarX (x : XF) (s : State) : Out := runX 0x01 0x13 x (intPlan 0x13 .none (opSar x) x) s
def execRotl (x : XF) (s : State) : Out := runX 0x01 0x14 x (intPlan 0x14 .none opRotl x) s
def execRotr (x : XF) (s : State) : Out := runX 0x01 0x15 x (intPlan 0x15 .none opRotr x) s
def execPopc (x : XF) (s : State) : Out := runX 0x01 0x16 x (intPlan 0x16 .none opPopc x) s
def execClz (x : XF) (s : State) : Out := runX 0x01 0x17 x (intPlan 0x17 .none opClz x) s
def execCtz (x : XF) (s : State) : Out := runX 0x01 0x18 x (intPlan 0x18 .none opCtz x) s
def execBrev (x : XF) (s : State) : Out := runX 0x01 0x19 x (intPlan 0x19 .none opBrev x) s
def execBfx (x : XF) (s : State) : Out := runX 0x01 0x1A x (intPlan 0x1A .none (opBfx x) x) s
def execBfi (x : XF) (s : State) : Out := runX 0x01 0x1B x (intPlan 0x1B .none opBfi x) s
def execIcmp (x : XF) (s : State) : Out := runX 0x01 0x1C x (intPlan 0x1C .none (opIcmp x) x) s
def execIsel (x : XF) (s : State) : Out := runX 0x01 0x1D x (intPlan 0x1D .none opIsel x) s
def execLea (x : XF) (s : State) : Out := runX 0x01 0x1E x (planLea x) s
def execMovX (x : XF) (s : State) : Out := runX 0x01 0x1F x (planMov x) s
def execLdi (x : XF) (s : State) : Out := runX 0x01 0x20 x (planLdi x) s

end Sys2Proof.Machine
end

