-- ==== Sys2Proof/Machine/Flt.lean ====
section
/-! DEFINITION. The FLT family (08 R184 to R186, Table 8.3). -/

namespace Sys2Proof.Machine

/-! ## Formats of an instruction -/

/-- The element format of an FLT type: a standard format, or the record of the format register with type 110 (R184). -/
def Ctx.fltFmt (c : Ctx) (x : XF) : Fp.Fmt :=
  match x.type.toNat with
  | 1 => Fp.fp16
  | 2 => Fp.bf16
  | 6 => Fp.recordFmt (c.group.fmt.getD (bits x.f.toNat 4 3) 0)
  | _ => Fp.fp32

/-- The width of the place an element has in the lane word: its own, or its container's (R93). -/
def slotWidth (f : Fp.Fmt) : Nat := if f.wid == 32 then 32 else if f.wid == 16 then 16 else if f.wid ≤ 4 then 4 else 8

/-- FORMAT_ILLFORMED of a format register that an instruction uses (R71, R90). -/
def Ctx.formatFault (c : Ctx) (i : Nat) : Option FaultInfo :=
  let r := c.group.fmt.getD i 0
  if Fp.wellFormed r then none
  else some { code := 0x0F, inner := i, address := r.zeroExtend 64, lanes := c.path.mask }

/-- A format register holds a record that is not native (R95). DEDUCED, log entry 15. -/
def Ctx.emulates (c : Ctx) (i : Nat) : Bool := !Fp.native (c.group.fmt.getD i 0)

/-! ## Elements -/

/-- Applies a function of element encodings to every element of three lane words, with the flags of all of them. -/
def fltElems (w : Nat) (f : Nat → Nat → Nat → Nat × Flags) (a b c : Word) : Word × Flags :=
  let rs := (List.range (32 / w)).map (fun e => f (bits a.toNat (e * w) w) (bits b.toNat (e * w) w) (bits c.toNat (e * w) w))
  (packElems w (rs.map (·.1)), orFlags (rs.map (·.2)))

/-- A function of element encodings in a format, with the rounding mode. -/
abbrev ElemFn := Fp.Fmt → Nat → Nat → Nat → Nat → Nat × Flags

/-- The low WID bits of a container (R93). -/
def elemBits (f : Fp.Fmt) (n : Nat) : Nat := n % 2 ^ f.wid

def elFadd (f : Fp.Fmt) (mode a b _c : Nat) : Nat × Flags := Fp.roundSum f mode [Fp.decode f a, Fp.decode f b]
def elFsub (f : Fp.Fmt) (mode a b _c : Nat) : Nat × Flags := Fp.roundSum f mode [Fp.decode f a, (Fp.decode f b).negate]
def elFmul (f : Fp.Fmt) (mode a b _c : Nat) : Nat × Flags := Fp.roundVal f mode 0 (Fp.mul (Fp.decode f a) (Fp.decode f b))
def elFfma (f : Fp.Fmt) (mode a b c : Nat) : Nat × Flags :=
  Fp.roundSum f mode [Fp.mul (Fp.decode f a) (Fp.decode f b), Fp.decode f c]

/-- The operand that FMIN or FMAX selects, in its format's own encoding (R185). -/
def selected (f : Fp.Fmt) (n : Nat) : Nat :=
  if (Fp.decode f n).isNan then f.nan
  else if f.wid ≤ 8 then (Fp.roundVal f 0 0 (Fp.decode f n)).1
  else n

def elFmin (f : Fp.Fmt) (_mode a b _c : Nat) : Nat × Flags :=
  (selected f (if Fp.minFirst (Fp.decode f a) (Fp.decode f b) then a else b), 0)
def elFmax (f : Fp.Fmt) (_mode a b _c : Nat) : Nat × Flags :=
  (selected f (if Fp.maxFirst (Fp.decode f a) (Fp.decode f b) then a else b), 0)

/-- The magnitude of a value. -/
def absVal (v : Fp.Val) : Fp.Val := if v.neg then v.negate else v

def elFabs (f : Fp.Fmt) (_mode a _b _c : Nat) : Nat × Flags := Fp.roundVal f 0 0 (absVal (Fp.decode f a))
def elFneg (f : Fp.Fmt) (_mode a _b _c : Nat) : Nat × Flags := Fp.roundVal f 0 0 (Fp.decode f a).negate

/-- A condition of Table 8.5. -/
def fcmp (cond : Nat) (a b : Fp.Val) : Bool :=
  let un := a.isNan || b.isNan
  match cond with
  | 0 => Fp.eq a b
  | 1 => !Fp.eq a b
  | 2 => !un && Fp.lt a b
  | 3 => !un && !Fp.lt b a
  | 4 => !un && Fp.lt b a
  | 5 => !un && !Fp.lt a b
  | 6 => un
  | _ => !un

def elFcmp (cond : Nat) (f : Fp.Fmt) (_mode a b _c : Nat) : Nat × Flags :=
  (if fcmp cond (Fp.decode f a) (Fp.decode f b) then 2 ^ f.wid - 1 else 0, 0)
def elFsel (f : Fp.Fmt) (_mode a b c : Nat) : Nat × Flags := (elemBits f (if elemBits f c != 0 then a else b), 0)

/-- The class bit of Table 8.4. -/
def elFclass (f : Fp.Fmt) (_mode a _b _c : Nat) : Nat × Flags :=
  let sub := bits a f.man f.exp == 0
  let n := match Fp.decode f a with
    | .nan _ => 8
    | .inf true => 0
    | .inf false => 7
    | .fin s m _ => if m == 0 then (if s then 3 else 4) else if sub then (if s then 2 else 5) else (if s then 1 else 6)
  (2 ^ n, 0)

/-- 1. -/
def one : Fp.Val := .fin false 1 0

/-- A value scaled by a power of two; an amount past the range of every format acts as 1000 does. -/
def scaleVal (v : Fp.Val) (k : Int) : Fp.Val :=
  match v with
  | .fin n m e => .fin n m (e + max (-1000) (min 1000 k))
  | v => v

/-! ## Operations -/

/-- An FLT function of lane words in a format. -/
def fltOp (f : Fp.Fmt) (mode : Nat) (el : ElemFn) : LaneOp := fun a b c _ _ =>
  fltElems (slotWidth f) (el f mode) a b c

/-- A function of the FLT family: the format of its type, and for a narrow format the checks of R71 and R95. -/
def fltPlan (func : Nat) (el : ElemFn) (x : XF) (c : Ctx) (s : State) : Plan :=
  let p := computePlan 0x02 func .none false (fltOp (c.fltFmt x) x.round.toNat el) x c s
  if x.type == 6 then
    let i := bits x.f.toNat 4 3
    { p with format := c.formatFault i, emulated := c.emulates i }
  else p

/-- A function of one FP32 value. -/
def oneOp (h : Fp.Val → Nat × Flags) : LaneOp := fun a _ _ _ _ =>
  let r := h (Fp.val32 a)
  (BitVec.ofNat 32 r.1, r.2)

/-- A one-operand FP32 function of the family. -/
def onePlan (func : Nat) (h : Fp.Val → Nat × Flags) (x : XF) : Ctx → State → Plan := computePlan 0x02 func .none false (oneOp h) x

def planFadd (x : XF) : Ctx → State → Plan := fltPlan 0x00 elFadd x
def planFsub (x : XF) : Ctx → State → Plan := fltPlan 0x01 elFsub x
def planFmul (x : XF) : Ctx → State → Plan := fltPlan 0x02 elFmul x
def planFfma (x : XF) : Ctx → State → Plan := fltPlan 0x03 elFfma x
def planFmin (x : XF) : Ctx → State → Plan := fltPlan 0x04 elFmin x
def planFmax (x : XF) : Ctx → State → Plan := fltPlan 0x05 elFmax x
def planFabs (x : XF) : Ctx → State → Plan := fltPlan 0x06 elFabs x
def planFneg (x : XF) : Ctx → State → Plan := fltPlan 0x07 elFneg x
def planFcmp (x : XF) : Ctx → State → Plan := fltPlan 0x08 (elFcmp (bits x.f.toNat 0 3)) x
def planFsel (x : XF) : Ctx → State → Plan := fltPlan 0x09 elFsel x
def planFclass (x : XF) : Ctx → State → Plan := fltPlan 0x0A elFclass x
def planFdiv (x : XF) : Ctx → State → Plan := computePlan 0x02 0x0B .none false (fun a b _ _ _ =>
  let r := Fp.div Fp.fp32 x.round.toNat (Fp.val32 a) (Fp.val32 b); (BitVec.ofNat 32 r.1, r.2)) x
def planFsqrt (x : XF) : Ctx → State → Plan := onePlan 0x0C (Fp.sqrt Fp.fp32 x.round.toNat) x
def planFrcp (x : XF) : Ctx → State → Plan := onePlan 0x0D (Fp.div Fp.fp32 x.round.toNat one) x
def planFrsq (x : XF) : Ctx → State → Plan := onePlan 0x0E (Fp.rsqrt Fp.fp32 x.round.toNat) x
def planFexp2 (x : XF) : Ctx → State → Plan := onePlan 0x0F Fp.exp2 x
def planFlog2 (x : XF) : Ctx → State → Plan := onePlan 0x10 Fp.log2 x
def planFsinpi (x : XF) : Ctx → State → Plan := onePlan 0x11 Fp.sinpi x
def planFcospi (x : XF) : Ctx → State → Plan := onePlan 0x12 Fp.cospi x
def planFtanh (x : XF) : Ctx → State → Plan := onePlan 0x13 Fp.tanh x
def planFscale (x : XF) : Ctx → State → Plan := computePlan 0x02 0x14 .none false (fun a b _ _ _ =>
  let r := Fp.roundVal Fp.fp32 x.round.toNat 0 (scaleVal (Fp.val32 a) b.toInt); (BitVec.ofNat 32 r.1, r.2)) x

/-! ## Meanings. `resumed` is set when the firmware has emulated the instruction (R95). -/

def runFaddX (resumed : Bool) (x : XF) (s : State) : Out := runX 0x02 0x00 x (planFadd x) s resumed
def runFsubX (resumed : Bool) (x : XF) (s : State) : Out := runX 0x02 0x01 x (planFsub x) s resumed
def runFmulX (resumed : Bool) (x : XF) (s : State) : Out := runX 0x02 0x02 x (planFmul x) s resumed
def runFfmaX (resumed : Bool) (x : XF) (s : State) : Out := runX 0x02 0x03 x (planFfma x) s resumed
def runFminX (resumed : Bool) (x : XF) (s : State) : Out := runX 0x02 0x04 x (planFmin x) s resumed
def runFmaxX (resumed : Bool) (x : XF) (s : State) : Out := runX 0x02 0x05 x (planFmax x) s resumed
def runFabs (resumed : Bool) (x : XF) (s : State) : Out := runX 0x02 0x06 x (planFabs x) s resumed
def runFneg (resumed : Bool) (x : XF) (s : State) : Out := runX 0x02 0x07 x (planFneg x) s resumed
def runFcmp (resumed : Bool) (x : XF) (s : State) : Out := runX 0x02 0x08 x (planFcmp x) s resumed
def runFsel (resumed : Bool) (x : XF) (s : State) : Out := runX 0x02 0x09 x (planFsel x) s resumed

def execFaddX (x : XF) (s : State) : Out := runFaddX false x s
def execFsubX (x : XF) (s : State) : Out := runFsubX false x s
def execFmulX (x : XF) (s : State) : Out := runFmulX false x s
def execFfmaX (x : XF) (s : State) : Out := runFfmaX false x s
def execFminX (x : XF) (s : State) : Out := runFminX false x s
def execFmaxX (x : XF) (s : State) : Out := runFmaxX false x s
def execFabs (x : XF) (s : State) : Out := runFabs false x s
def execFneg (x : XF) (s : State) : Out := runFneg false x s
def execFcmp (x : XF) (s : State) : Out := runFcmp false x s
def execFsel (x : XF) (s : State) : Out := runFsel false x s
def execFclass (x : XF) (s : State) : Out := runX 0x02 0x0A x (planFclass x) s
def execFdiv (x : XF) (s : State) : Out := runX 0x02 0x0B x (planFdiv x) s
def execFsqrt (x : XF) (s : State) : Out := runX 0x02 0x0C x (planFsqrt x) s
def execFrcp (x : XF) (s : State) : Out := runX 0x02 0x0D x (planFrcp x) s
def execFrsq (x : XF) (s : State) : Out := runX 0x02 0x0E x (planFrsq x) s
def execFexp2 (x : XF) (s : State) : Out := runX 0x02 0x0F x (planFexp2 x) s
def execFlog2 (x : XF) (s : State) : Out := runX 0x02 0x10 x (planFlog2 x) s
def execFsinpi (x : XF) (s : State) : Out := runX 0x02 0x11 x (planFsinpi x) s
def execFcospi (x : XF) (s : State) : Out := runX 0x02 0x12 x (planFcospi x) s
def execFtanh (x : XF) (s : State) : Out := runX 0x02 0x13 x (planFtanh x) s
def execFscale (x : XF) (s : State) : Out := runX 0x02 0x14 x (planFscale x) s

end Sys2Proof.Machine
end

