-- ==== Sys2Proof/Machine/Forms.lean ====
section
/-! DEFINITION. Which constructor each form, family and function code stands for (Tables 7.3, 7.5 and 7.12), both ways. -/

namespace Sys2Proof.Machine

/-- The X-form instruction of a family and function code (Table 7.12). -/
def xInstr (family func : Nat) (x : XF) : Option Instr :=
  match family, func with
  | 0x01, 0x00 => some (.iaddX x)
  | 0x01, 0x01 => some (.isubX x)
  | 0x01, 0x02 => some (.iaddc x)
  | 0x01, 0x03 => some (.isubb x)
  | 0x01, 0x04 => some (.imulX x)
  | 0x01, 0x05 => some (.imulhS x)
  | 0x01, 0x06 => some (.imulhU x)
  | 0x01, 0x07 => some (.imadX x)
  | 0x01, 0x08 => some (.iminX x)
  | 0x01, 0x09 => some (.imaxX x)
  | 0x01, 0x0A => some (.iabs x)
  | 0x01, 0x0B => some (.ineg x)
  | 0x01, 0x0C => some (.andX x)
  | 0x01, 0x0D => some (.orX x)
  | 0x01, 0x0E => some (.xorX x)
  | 0x01, 0x0F => some (.andn x)
  | 0x01, 0x10 => some (.not x)
  | 0x01, 0x11 => some (.shlX x)
  | 0x01, 0x12 => some (.shrX x)
  | 0x01, 0x13 => some (.sarX x)
  | 0x01, 0x14 => some (.rotl x)
  | 0x01, 0x15 => some (.rotr x)
  | 0x01, 0x16 => some (.popc x)
  | 0x01, 0x17 => some (.clz x)
  | 0x01, 0x18 => some (.ctz x)
  | 0x01, 0x19 => some (.brev x)
  | 0x01, 0x1A => some (.bfx x)
  | 0x01, 0x1B => some (.bfi x)
  | 0x01, 0x1C => some (.icmp x)
  | 0x01, 0x1D => some (.isel x)
  | 0x01, 0x1E => some (.lea x)
  | 0x01, 0x1F => some (.movX x)
  | 0x01, 0x20 => some (.ldi x)
  | 0x02, 0x00 => some (.faddX x)
  | 0x02, 0x01 => some (.fsubX x)
  | 0x02, 0x02 => some (.fmulX x)
  | 0x02, 0x03 => some (.ffmaX x)
  | 0x02, 0x04 => some (.fminX x)
  | 0x02, 0x05 => some (.fmaxX x)
  | 0x02, 0x06 => some (.fabs x)
  | 0x02, 0x07 => some (.fneg x)
  | 0x02, 0x08 => some (.fcmp x)
  | 0x02, 0x09 => some (.fsel x)
  | 0x02, 0x0A => some (.fclass x)
  | 0x02, 0x0B => some (.fdiv x)
  | 0x02, 0x0C => some (.fsqrt x)
  | 0x02, 0x0D => some (.frcp x)
  | 0x02, 0x0E => some (.frsq x)
  | 0x02, 0x0F => some (.fexp2 x)
  | 0x02, 0x10 => some (.flog2 x)
  | 0x02, 0x11 => some (.fsinpi x)
  | 0x02, 0x12 => some (.fcospi x)
  | 0x02, 0x13 => some (.ftanh x)
  | 0x02, 0x14 => some (.fscale x)
  | 0x03, 0x00 => some (.cvt x)
  | 0x03, 0x01 => some (.cvtn x)
  | 0x03, 0x02 => some (.packn x)
  | 0x03, 0x03 => some (.unpackn x)
  | 0x03, 0x04 => some (.scaleb x)
  | 0x04, 0x00 => some (.idp2 x)
  | 0x04, 0x01 => some (.idp4X x)
  | 0x04, 0x02 => some (.idp8X x)
  | 0x04, 0x03 => some (.fdp2 x)
  | 0x05, 0x00 => some (.perm x)
  | 0x05, 0x01 => some (.redux x)
  | 0x05, 0x02 => some (.scan x)
  | 0x05, 0x03 => some (.vote x)
  | 0x05, 0x04 => some (.matchLanes x)
  | 0x06, 0x00 => some (.kand x)
  | 0x06, 0x01 => some (.kor x)
  | 0x06, 0x02 => some (.kxor x)
  | 0x06, 0x03 => some (.knot x)
  | 0x06, 0x04 => some (.kmov x)
  | 0x06, 0x05 => some (.kpop x)
  | 0x06, 0x06 => some (.kffs x)
  | 0x06, 0x07 => some (.kset x)
  | 0x07, 0x00 => some (.braX x)
  | 0x07, 0x01 => some (.brd x)
  | 0x07, 0x02 => some (.jmpi x)
  | 0x07, 0x03 => some (.callX x)
  | 0x07, 0x04 => some (.calli x)
  | 0x07, 0x05 => some (.retX x)
  | 0x07, 0x06 => some (.splitX x)
  | 0x07, 0x07 => some (.joinX x)
  | 0x07, 0x08 => some (.exitX x)
  | 0x07, 0x09 => some (.trap x)
  | 0x07, 0x0A => some (.brk x)
  | 0x07, 0x0B => some (.nop x)
  | 0x08, 0x00 => some (.xferX x)
  | 0x08, 0x01 => some (.xfera x)
  | 0x08, 0x02 => some (.belay x)
  | 0x08, 0x03 => some (.park x)
  | 0x08, 0x04 => some (.waitX x)
  | 0x09, 0x00 => some (.ld x)
  | 0x09, 0x01 => some (.st x)
  | 0x09, 0x02 => some (.lds x)
  | 0x09, 0x03 => some (.sts x)
  | 0x09, 0x04 => some (.stm x)
  | 0x09, 0x05 => some (.pref x)
  | 0x09, 0x06 => some (.spill x)
  | 0x09, 0x07 => some (.fill x)
  | 0x0A, 0x00 => some (.atom x)
  | 0x0A, 0x01 => some (.xadd x)
  | 0x0A, 0x02 => some (.xrd x)
  | 0x0A, 0x03 => some (.xclr x)
  | 0x0B, 0x00 => some (.bind x)
  | 0x0B, 0x01 => some (.unbind x)
  | 0x0B, 0x02 => some (.acq x)
  | 0x0B, 0x03 => some (.tryacq x)
  | 0x0B, 0x04 => some (.rel x)
  | 0x0B, 0x05 => some (.fence x)
  | 0x0B, 0x06 => some (.barinit x)
  | 0x0B, 0x07 => some (.barrive x)
  | 0x0B, 0x08 => some (.bardrop x)
  | 0x0B, 0x09 => some (.barwait x)
  | 0x0B, 0x0A => some (.syncset x)
  | 0x0B, 0x0B => some (.syncw x)
  | 0x0C, 0x00 => some (.bcopy x)
  | 0x0C, 0x01 => some (.gather x)
  | 0x0C, 0x02 => some (.scatter x)
  | 0x0C, 0x03 => some (.qfence x)
  | 0x0D, 0x00 => some (.mlease x)
  | 0x0D, 0x01 => some (.mrel x)
  | 0x0D, 0x02 => some (.mma x)
  | 0x0D, 0x03 => some (.mzero x)
  | 0x0D, 0x04 => some (.mld x)
  | 0x0D, 0x05 => some (.mst x)
  | 0x0D, 0x06 => some (.mcol x)
  | 0x0D, 0x07 => some (.mput x)
  | 0x0D, 0x08 => some (.mlink x)
  | 0x0E, 0x00 => some (.qinit x)
  | 0x0E, 0x01 => some (.qacc x)
  | 0x0E, 0x02 => some (.qapl x)
  | 0x0E, 0x03 => some (.qapr x)
  | 0x0E, 0x04 => some (.qfold x)
  | 0x0E, 0x05 => some (.qstat x)
  | 0x0E, 0x06 => some (.qclr x)
  | 0x0E, 0x07 => some (.hhgen x)
  | 0x0F, 0x00 => some (.recruit x)
  | 0x0F, 0x01 => some (.ropeend x)
  | 0x0F, 0x02 => some (.ropered x)
  | 0x10, 0x00 => some (.rand x)
  | 0x11, 0x00 => some (.fmtset x)
  | 0x11, 0x01 => some (.fmtget x)
  | 0x12, 0x00 => some (.tfetchX x)
  | 0x12, 0x01 => some (.launch x)
  | 0x13, 0x00 => some (.svc x)
  | 0x13, 0x01 => some (.ckpt x)
  | 0x13, 0x02 => some (.rdcnt x)
  | _, _ => none

/-- The family, function code and fields of an X-form instruction (Table 7.12). -/
def Instr.xParts (i : Instr) : Option (Nat × Nat × XF) :=
  match i with
  | .iaddX x => some (0x01, 0x00, x)
  | .isubX x => some (0x01, 0x01, x)
  | .iaddc x => some (0x01, 0x02, x)
  | .isubb x => some (0x01, 0x03, x)
  | .imulX x => some (0x01, 0x04, x)
  | .imulhS x => some (0x01, 0x05, x)
  | .imulhU x => some (0x01, 0x06, x)
  | .imadX x => some (0x01, 0x07, x)
  | .iminX x => some (0x01, 0x08, x)
  | .imaxX x => some (0x01, 0x09, x)
  | .iabs x => some (0x01, 0x0A, x)
  | .ineg x => some (0x01, 0x0B, x)
  | .andX x => some (0x01, 0x0C, x)
  | .orX x => some (0x01, 0x0D, x)
  | .xorX x => some (0x01, 0x0E, x)
  | .andn x => some (0x01, 0x0F, x)
  | .not x => some (0x01, 0x10, x)
  | .shlX x => some (0x01, 0x11, x)
  | .shrX x => some (0x01, 0x12, x)
  | .sarX x => some (0x01, 0x13, x)
  | .rotl x => some (0x01, 0x14, x)
  | .rotr x => some (0x01, 0x15, x)
  | .popc x => some (0x01, 0x16, x)
  | .clz x => some (0x01, 0x17, x)
  | .ctz x => some (0x01, 0x18, x)
  | .brev x => some (0x01, 0x19, x)
  | .bfx x => some (0x01, 0x1A, x)
  | .bfi x => some (0x01, 0x1B, x)
  | .icmp x => some (0x01, 0x1C, x)
  | .isel x => some (0x01, 0x1D, x)
  | .lea x => some (0x01, 0x1E, x)
  | .movX x => some (0x01, 0x1F, x)
  | .ldi x => some (0x01, 0x20, x)
  | .faddX x => some (0x02, 0x00, x)
  | .fsubX x => some (0x02, 0x01, x)
  | .fmulX x => some (0x02, 0x02, x)
  | .ffmaX x => some (0x02, 0x03, x)
  | .fminX x => some (0x02, 0x04, x)
  | .fmaxX x => some (0x02, 0x05, x)
  | .fabs x => some (0x02, 0x06, x)
  | .fneg x => some (0x02, 0x07, x)
  | .fcmp x => some (0x02, 0x08, x)
  | .fsel x => some (0x02, 0x09, x)
  | .fclass x => some (0x02, 0x0A, x)
  | .fdiv x => some (0x02, 0x0B, x)
  | .fsqrt x => some (0x02, 0x0C, x)
  | .frcp x => some (0x02, 0x0D, x)
  | .frsq x => some (0x02, 0x0E, x)
  | .fexp2 x => some (0x02, 0x0F, x)
  | .flog2 x => some (0x02, 0x10, x)
  | .fsinpi x => some (0x02, 0x11, x)
  | .fcospi x => some (0x02, 0x12, x)
  | .ftanh x => some (0x02, 0x13, x)
  | .fscale x => some (0x02, 0x14, x)
  | .cvt x => some (0x03, 0x00, x)
  | .cvtn x => some (0x03, 0x01, x)
  | .packn x => some (0x03, 0x02, x)
  | .unpackn x => some (0x03, 0x03, x)
  | .scaleb x => some (0x03, 0x04, x)
  | .idp2 x => some (0x04, 0x00, x)
  | .idp4X x => some (0x04, 0x01, x)
  | .idp8X x => some (0x04, 0x02, x)
  | .fdp2 x => some (0x04, 0x03, x)
  | .perm x => some (0x05, 0x00, x)
  | .redux x => some (0x05, 0x01, x)
  | .scan x => some (0x05, 0x02, x)
  | .vote x => some (0x05, 0x03, x)
  | .matchLanes x => some (0x05, 0x04, x)
  | .kand x => some (0x06, 0x00, x)
  | .kor x => some (0x06, 0x01, x)
  | .kxor x => some (0x06, 0x02, x)
  | .knot x => some (0x06, 0x03, x)
  | .kmov x => some (0x06, 0x04, x)
  | .kpop x => some (0x06, 0x05, x)
  | .kffs x => some (0x06, 0x06, x)
  | .kset x => some (0x06, 0x07, x)
  | .braX x => some (0x07, 0x00, x)
  | .brd x => some (0x07, 0x01, x)
  | .jmpi x => some (0x07, 0x02, x)
  | .callX x => some (0x07, 0x03, x)
  | .calli x => some (0x07, 0x04, x)
  | .retX x => some (0x07, 0x05, x)
  | .splitX x => some (0x07, 0x06, x)
  | .joinX x => some (0x07, 0x07, x)
  | .exitX x => some (0x07, 0x08, x)
  | .trap x => some (0x07, 0x09, x)
  | .brk x => some (0x07, 0x0A, x)
  | .nop x => some (0x07, 0x0B, x)
  | .xferX x => some (0x08, 0x00, x)
  | .xfera x => some (0x08, 0x01, x)
  | .belay x => some (0x08, 0x02, x)
  | .park x => some (0x08, 0x03, x)
  | .waitX x => some (0x08, 0x04, x)
  | .ld x => some (0x09, 0x00, x)
  | .st x => some (0x09, 0x01, x)
  | .lds x => some (0x09, 0x02, x)
  | .sts x => some (0x09, 0x03, x)
  | .stm x => some (0x09, 0x04, x)
  | .pref x => some (0x09, 0x05, x)
  | .spill x => some (0x09, 0x06, x)
  | .fill x => some (0x09, 0x07, x)
  | .atom x => some (0x0A, 0x00, x)
  | .xadd x => some (0x0A, 0x01, x)
  | .xrd x => some (0x0A, 0x02, x)
  | .xclr x => some (0x0A, 0x03, x)
  | .bind x => some (0x0B, 0x00, x)
  | .unbind x => some (0x0B, 0x01, x)
  | .acq x => some (0x0B, 0x02, x)
  | .tryacq x => some (0x0B, 0x03, x)
  | .rel x => some (0x0B, 0x04, x)
  | .fence x => some (0x0B, 0x05, x)
  | .barinit x => some (0x0B, 0x06, x)
  | .barrive x => some (0x0B, 0x07, x)
  | .bardrop x => some (0x0B, 0x08, x)
  | .barwait x => some (0x0B, 0x09, x)
  | .syncset x => some (0x0B, 0x0A, x)
  | .syncw x => some (0x0B, 0x0B, x)
  | .bcopy x => some (0x0C, 0x00, x)
  | .gather x => some (0x0C, 0x01, x)
  | .scatter x => some (0x0C, 0x02, x)
  | .qfence x => some (0x0C, 0x03, x)
  | .mlease x => some (0x0D, 0x00, x)
  | .mrel x => some (0x0D, 0x01, x)
  | .mma x => some (0x0D, 0x02, x)
  | .mzero x => some (0x0D, 0x03, x)
  | .mld x => some (0x0D, 0x04, x)
  | .mst x => some (0x0D, 0x05, x)
  | .mcol x => some (0x0D, 0x06, x)
  | .mput x => some (0x0D, 0x07, x)
  | .mlink x => some (0x0D, 0x08, x)
  | .qinit x => some (0x0E, 0x00, x)
  | .qacc x => some (0x0E, 0x01, x)
  | .qapl x => some (0x0E, 0x02, x)
  | .qapr x => some (0x0E, 0x03, x)
  | .qfold x => some (0x0E, 0x04, x)
  | .qstat x => some (0x0E, 0x05, x)
  | .qclr x => some (0x0E, 0x06, x)
  | .hhgen x => some (0x0E, 0x07, x)
  | .recruit x => some (0x0F, 0x00, x)
  | .ropeend x => some (0x0F, 0x01, x)
  | .ropered x => some (0x0F, 0x02, x)
  | .rand x => some (0x10, 0x00, x)
  | .fmtset x => some (0x11, 0x00, x)
  | .fmtget x => some (0x11, 0x01, x)
  | .tfetchX x => some (0x12, 0x00, x)
  | .launch x => some (0x12, 0x01, x)
  | .svc x => some (0x13, 0x00, x)
  | .ckpt x => some (0x13, 0x01, x)
  | .rdcnt x => some (0x13, 0x02, x)
  | _ => none

/-- A B-form word of a major and its fields A, B and C (Table 7.2). -/
def wordB (major : Nat) (a b c : Byte) : Word := (0 : BitVec 2) ++ BitVec.ofNat 6 major ++ a ++ b ++ c

/-- The B-form instruction of a major and its fields (Tables 7.3 and 7.4). -/
def bInstr (major : Nat) (a b c : Byte) : Option Instr :=
  match major with
  | 0x01 => some (.iadd a b c)
  | 0x02 => some (.isub a b c)
  | 0x03 => some (.imul a b c)
  | 0x04 => some (.imad a b c)
  | 0x05 => some (.and a b c)
  | 0x06 => some (.or a b c)
  | 0x07 => some (.xor a b c)
  | 0x08 => some (.shl a b c)
  | 0x09 => some (.shr a b c)
  | 0x0A => some (.sar a b c)
  | 0x0B => some (.imin a b c)
  | 0x0C => some (.imax a b c)
  | 0x0D => some (.iaddi a b c)
  | 0x0E => some (.shli a b (c.extractLsb' 0 5))
  | 0x0F => some (.shri a b (c.extractLsb' 0 5))
  | 0x10 => some (.sari a b (c.extractLsb' 0 5))
  | 0x11 => some (.andi a b c)
  | 0x12 => some (.movi a (b ++ c))
  | 0x13 => some (.mov a b)
  | 0x14 => some (.fadd a b c)
  | 0x15 => some (.fsub a b c)
  | 0x16 => some (.fmul a b c)
  | 0x17 => some (.ffma a b c)
  | 0x18 => some (.fmin a b c)
  | 0x19 => some (.fmax a b c)
  | 0x1A => some (.hadd2 a b c)
  | 0x1B => some (.hmul2 a b c)
  | 0x1C => some (.hfma2 a b c)
  | 0x1D => some (.bfma2 a b c)
  | 0x1E => some (.idp4 a b c)
  | 0x1F => some (.idp8 a b c)
  | 0x20 => some (.sfu a b (c.extractLsb' 0 3))
  | 0x21 => some (.ld32 a b c)
  | 0x22 => some (.st32 a b c)
  | 0x23 => some (.lds32 a b c)
  | 0x24 => some (.sts32 a b c)
  | 0x25 => some (.bra (a ++ b ++ c))
  | 0x26 => some (.call (a ++ b ++ c))
  | 0x27 => some .ret
  | 0x28 => some .exit
  | 0x29 => some (.xfer a b c)
  | 0x2A => some (.wait (a.extractLsb' 4 4) (a.extractLsb' 0 4) (b.extractLsb' 4 4) (b.extractLsb' 0 4) c)
  | 0x2B => some (.join (a.extractLsb' 0 4) c)
  | 0x2C => some (.split (a.extractLsb' 0 4))
  | 0x2D => some (.tfetch a)
  | _ => none

/-- The word of a B-form instruction. -/
def Instr.bWord (i : Instr) : Option Word :=
  match i with
  | .iadd a b c => some (wordB 0x01 a b c)
  | .isub a b c => some (wordB 0x02 a b c)
  | .imul a b c => some (wordB 0x03 a b c)
  | .imad a b c => some (wordB 0x04 a b c)
  | .and a b c => some (wordB 0x05 a b c)
  | .or a b c => some (wordB 0x06 a b c)
  | .xor a b c => some (wordB 0x07 a b c)
  | .shl a b c => some (wordB 0x08 a b c)
  | .shr a b c => some (wordB 0x09 a b c)
  | .sar a b c => some (wordB 0x0A a b c)
  | .imin a b c => some (wordB 0x0B a b c)
  | .imax a b c => some (wordB 0x0C a b c)
  | .iaddi a b c => some (wordB 0x0D a b c)
  | .shli d a s => some (wordB 0x0E d a ((0 : BitVec 3) ++ s))
  | .shri d a s => some (wordB 0x0F d a ((0 : BitVec 3) ++ s))
  | .sari d a s => some (wordB 0x10 d a ((0 : BitVec 3) ++ s))
  | .andi a b c => some (wordB 0x11 a b c)
  | .movi d i => some (wordB 0x12 d (i.extractLsb' 8 8) (i.extractLsb' 0 8))
  | .mov d a => some (wordB 0x13 d a 0)
  | .fadd a b c => some (wordB 0x14 a b c)
  | .fsub a b c => some (wordB 0x15 a b c)
  | .fmul a b c => some (wordB 0x16 a b c)
  | .ffma a b c => some (wordB 0x17 a b c)
  | .fmin a b c => some (wordB 0x18 a b c)
  | .fmax a b c => some (wordB 0x19 a b c)
  | .hadd2 a b c => some (wordB 0x1A a b c)
  | .hmul2 a b c => some (wordB 0x1B a b c)
  | .hfma2 a b c => some (wordB 0x1C a b c)
  | .bfma2 a b c => some (wordB 0x1D a b c)
  | .idp4 a b c => some (wordB 0x1E a b c)
  | .idp8 a b c => some (wordB 0x1F a b c)
  | .sfu d a f => some (wordB 0x20 d a ((0 : BitVec 5) ++ f))
  | .ld32 a b c => some (wordB 0x21 a b c)
  | .st32 a b c => some (wordB 0x22 a b c)
  | .lds32 a b c => some (wordB 0x23 a b c)
  | .sts32 a b c => some (wordB 0x24 a b c)
  | .bra o => some (wordB 0x25 (o.extractLsb' 16 8) (o.extractLsb' 8 8) (o.extractLsb' 0 8))
  | .call o => some (wordB 0x26 (o.extractLsb' 16 8) (o.extractLsb' 8 8) (o.extractLsb' 0 8))
  | .ret => some (wordB 0x27 0 0 0)
  | .exit => some (wordB 0x28 0 0 0)
  | .xfer a b c => some (wordB 0x29 a b c)
  | .wait l s c t u => some (wordB 0x2A (l ++ s) (c ++ t) u)
  | .join k s => some (wordB 0x2B ((0 : BitVec 4) ++ k) 0 s)
  | .split k => some (wordB 0x2C ((0 : BitVec 4) ++ k) 0 0)
  | .tfetch d => some (wordB 0x2D d 0 0)
  | _ => none

/-- The BL-form instruction of a major, its fields A and B, and its literal (Table 7.5). For IMAD and FFMA field B is the
first factor. -/
def blInstr (major : Nat) (a b : Byte) (lit : Dword) : Option Instr :=
  match major with
  | 0x01 => some (.iaddBl a b lit)
  | 0x02 => some (.isubBl a b lit)
  | 0x03 => some (.imulBl a b lit)
  | 0x04 => some (.imadBl a b lit)
  | 0x05 => some (.andBl a b lit)
  | 0x06 => some (.orBl a b lit)
  | 0x07 => some (.xorBl a b lit)
  | 0x08 => some (.shlBl a b lit)
  | 0x09 => some (.shrBl a b lit)
  | 0x0A => some (.sarBl a b lit)
  | 0x0B => some (.iminBl a b lit)
  | 0x0C => some (.imaxBl a b lit)
  | 0x13 => some (.movBl a lit)
  | 0x14 => some (.faddBl a b lit)
  | 0x15 => some (.fsubBl a b lit)
  | 0x16 => some (.fmulBl a b lit)
  | 0x17 => some (.ffmaBl a b lit)
  | 0x18 => some (.fminBl a b lit)
  | 0x19 => some (.fmaxBl a b lit)
  | 0x21 => some (.ld32Bl a b lit)
  | 0x22 => some (.st32Bl a b lit)
  | 0x23 => some (.lds32Bl a b lit)
  | 0x24 => some (.sts32Bl a b lit)
  | 0x25 => some (.braBl lit)
  | 0x26 => some (.callBl lit)
  | _ => none

/-- The major, fields A and B, and literal of a BL-form instruction. -/
def Instr.blParts (i : Instr) : Option (Nat × Byte × Byte × Dword) :=
  match i with
  | .iaddBl a b l => some (0x01, a, b, l)
  | .isubBl a b l => some (0x02, a, b, l)
  | .imulBl a b l => some (0x03, a, b, l)
  | .imadBl a b l => some (0x04, a, b, l)
  | .andBl a b l => some (0x05, a, b, l)
  | .orBl a b l => some (0x06, a, b, l)
  | .xorBl a b l => some (0x07, a, b, l)
  | .shlBl a b l => some (0x08, a, b, l)
  | .shrBl a b l => some (0x09, a, b, l)
  | .sarBl a b l => some (0x0A, a, b, l)
  | .iminBl a b l => some (0x0B, a, b, l)
  | .imaxBl a b l => some (0x0C, a, b, l)
  | .movBl d l => some (0x13, d, 0, l)
  | .faddBl a b l => some (0x14, a, b, l)
  | .fsubBl a b l => some (0x15, a, b, l)
  | .fmulBl a b l => some (0x16, a, b, l)
  | .ffmaBl a b l => some (0x17, a, b, l)
  | .fminBl a b l => some (0x18, a, b, l)
  | .fmaxBl a b l => some (0x19, a, b, l)
  | .ld32Bl a b l => some (0x21, a, b, l)
  | .st32Bl a b l => some (0x22, a, b, l)
  | .lds32Bl a b l => some (0x23, a, b, l)
  | .sts32Bl a b l => some (0x24, a, b, l)
  | .braBl l => some (0x25, 0, 0, l)
  | .callBl l => some (0x26, 0, 0, l)
  | _ => none

end Sys2Proof.Machine
end

