-- ==== Sys2Proof/Machine/Stores.lean ====
section
/-! DEFINITION. Performing stores (05 R112, R126), and the group's own loads and stores that no counter covers (03 R77). -/

namespace Sys2Proof.Machine

/-- Two stores touch one sector. -/
def StOp.meets (a b : StOp) : Bool :=
  a.bytes.any (fun x => b.bytes.any (fun y => x.space = y.space && x.addr / 32 == y.addr / 32))

/-- The unperformed stores that are performed with some others: an earlier store of the group to a sector goes first
(R125). `l` holds the stores from the newest down. DEDUCED, log entry 11. -/
def storesBefore (want : StOp → Bool) : List StOp → List StOp → List StOp
  | [], acc => acc
  | o :: t, acc => storesBefore want t (if !o.done && (want o || acc.any (fun a => o.meets a)) then o :: acc else acc)

/-- What holds a group once the response of one of its accesses has come. DEDUCED, log entry 13. -/
def Group.unlink (g : Group) (seq : Nat) : Option Hold :=
  match g.hold with
  | some (.link q _ _ _) => if q = seq then none else g.hold
  | h => h

/-- A store is performed: its bytes are written and its team takes the camp that an irrevocable one calls for (R133).
DEDUCED, log entry 11. The sectors of one store are performed in one step. DESIGN CHOICE, log entry 91. -/
def State.performOne (s : State) (r : GroupRef) (o : StOp) : State :=
  let s := s.performBytes (some (teamOf r)) o.bytes
  let s := o.marks.foldl (fun s m => s.markUnit m.1 m.2.1 (some m.2.2)) s
  let s := if o.irrevocable then s.irrevocable (teamOf r) else s
  s.modGroup r (fun g => { g with
    st := g.st.map (fun x => if x.seq = o.seq then { x with done := true } else x)
    hold := g.unlink o.seq })

/-- Performs the stores of a group that a test picks, and before each the earlier ones to its sectors.
DEDUCED, log entry 11. -/
def State.performStores (s : State) (r : GroupRef) (want : StOp → Bool) : State :=
  match s.group? r with
  | none => s
  | some g => (storesBefore want g.st.reverse []).foldl (fun s o => s.performOne r o) s

/-- Performs the group's earlier stores to the sectors of some places, so that an access that acts on memory at once
comes after them (R123, R128). DEDUCED, log entry 12. -/
def State.flushFor (s : State) (r : GroupRef) (ls : List Loc) : State :=
  s.performStores r (fun o => o.bytes.any (fun b => ls.any (fun l => b.space = l.space && b.addr / 32 == l.addr / 32)))

/-- Errors of the lanes of the path at one address that the whole group uses. -/
def Ctx.sharedErr (c : Ctx) (lanes : Mask) (addr : Nat) (e : LocErr) : List (Nat × Nat × LocErr) :=
  (lanesOf c.n lanes).map (fun l => (l, addr, e))

/-- The check of one address that the whole group uses. -/
def Ctx.sharedCheck {α : Type} (c : Ctx) (lanes : Mask) (addr : Nat) (r : Except LocErr α) : MemCheck :=
  match r with
  | .ok _ => .ok
  | .error e => memCheck (c.sharedErr lanes addr e)

/-- The mechanism of the storage at a place: register rows, the compact bank for w and s registers, the helper bank for h
registers, scratchpad, accumulator memory or LPDDR6 (Table 19.2). -/
def mechOf (p : Loc) : Nat :=
  match p.space with
  | .phys => 8
  | .scratch _ _ => 4
  | .tile _ _ => 5
  | .slots _ _ => 5
  | .reg _ => (match clsOf (BitVec.ofNat 8 (p.addr / 256)) with
    | .w | .s => 2
    | .h => 3
    | _ => 1)

/-- DATA_LOSS or POISON of an access that consumes a poisoned place (R380); `addr` is the location in the terms of its
level (R379). -/
def dataFaultAt (src : Nat) (p : Loc) (addr : Nat) (lanes : Mask) : FaultInfo :=
  if src == 0 then { code := 0x30, inner := mechOf p, address := BitVec.ofNat 64 addr, lanes := lanes }
  else { code := 0x31, inner := src, address := BitVec.ofNat 64 addr, lanes := lanes }

/-- The fault of an access from a core that consumes the first poisoned place of some, which stand at rising addresses from
`va` on (R379, R380). -/
def State.consumeBy (s : State) (mark : Loc → Option Nat) (core : Nat) (ls : List Loc) (va : Nat) (lanes : Mask) :
    Option FaultInfo :=
  ls.zipIdx.findSome? (fun (p, i) => (mark p).map (fun src => dataFaultAt src p (s.placeAddr core p (va + i)) lanes))

/-- What an access to performed memory consumes. -/
def State.consume (s : State) (core : Nat) (ls : List Loc) (va : Nat) (lanes : Mask) : Option FaultInfo :=
  s.consumeBy s.poisonAt core ls va lanes

/-- What a group's access consumes. -/
def State.consumeFor (s : State) (g : Group) (core : Nat) (ls : List Loc) (va : Nat) (lanes : Mask) : Option FaultInfo :=
  s.consumeBy (s.poisonFor g) core ls va lanes

end Sys2Proof.Machine
end

