-- ==== Sys2Proof/Machine/Ctrl.lean ====
section
/-! DEFINITION. The CTRL family: branches, calls, divergence, exits (09 R206 to R213; 02 R43 to R48; 03 R77). -/

namespace Sys2Proof.Machine

/-! ## Branches -/

/-- A branch target: the instruction's own address plus four times a signed offset. -/
def Ctx.target (c : Ctx) (off : Dword) : Dword := c.pc + off * 4

/-- BRA: the condition of one live lane; k0 is always true (R206). DEDUCED, log entry 45. -/
def Ctx.condAt (c : Ctx) (code : Byte) (l : Nat) : Bool :=
  if code == 0xE0 then true
  else if clsOf code == .k then laneBit (kMask c.ks c.n (code.toNat - 0xE0)) l else c.read code l != 0

/-- The tag of a condition: a k register has none, so its bits are always checked. -/
def Ctx.condTag (c : Ctx) (code : Byte) : Tag := if clsOf code == .k then .g else (c.shapeOf code).tag

/-- BRA with a condition; k0 is always true. -/
def planBra (x : XF) (off : Dword) (c : Ctx) (s : State) : Plan :=
  let p := c.path.mask
  { uniform := uniformFault x.a (c.condTag x.a) c.n p (fun l => (c.condAt x.a l).toNat)
    effect := if c.condAt x.a (lowLane p) then c.goto (c.target off) s else c.advance s }

/-- BRD: the lanes whose bit is 1 go to the target, the others fall through (R43, R207). DEDUCED, log entry 36. -/
def planBrd (x : XF) (c : Ctx) (s : State) : Plan :=
  let m := kMask c.ks c.n (x.a.toNat - 0xE0)
  let take := c.path.mask &&& m
  let stay := c.path.mask &&& ~~~m
  let count := ((c.rope.map (·.paths)).getD c.group.paths).length
  { path := if take != 0 && stay != 0 && 16 ≤ count then some { code := 0x08, inner := 16, lanes := take } else none
    effect := c.setPaths (fun ps =>
      replacePath ps c.path [{ pc := c.target (x.lit.getD 0), mask := take }, { pc := c.next, mask := stay }]) s }

/-- The checks of a target in a register pair (R208): every live lane of the path agrees, then bits [1:0] are zero. -/
def Ctx.pairTarget (c : Ctx) (code : Byte) : Dword := c.read64 code 0 0 (lowLane c.path.mask)

def Ctx.pairUniform (c : Ctx) (code : Byte) (lanes : Mask) : Option FaultInfo :=
  uniformFault code (c.tag64 code 0) c.n lanes (fun l => (c.read64 code 0 0 l).toNat)

/-- ALIGN of a program counter. -/
def Ctx.pcAlign (c : Ctx) (pc : Dword) : MemCheck :=
  if pc.toNat % 4 == 0 then .ok
  else .fault { code := 0x22, inner := 4, address := pc, lanes := c.path.mask }

/-- JMPI (R208). -/
def planJmpi (x : XF) (c : Ctx) (s : State) : Plan :=
  let t := c.pairTarget x.a
  { uniform := c.pairUniform x.a c.path.mask, mem := c.pcAlign t, effect := c.goto t s }

/-! ## Calls and returns (R209, R77) -/

/-- STACK_DEPTH of an instruction that needs one live path with no lane parked at a JOIN. DEDUCED, log entry 36. -/
def Ctx.onePath (c : Ctx) : Option FaultInfo :=
  if c.group.paths.length == 1 && c.group.paths.all (fun p => p.join.isNone) then none
  else some (c.pathFault 0x09 (c.group.depth % 256 + 256 * 0xFF))

/-- The address of return-stack entry `e` in the overflow area. -/
def Ctx.stackAddr (c : Ctx) (e : Nat) : Nat :=
  let d := c.launch.desc
  (d.callArea.toNat + (groupIndex d c.ref * d.calls + e - 16) * 8) % 2 ^ 64

/-- CALL and CALLI with a target. A return address that goes to memory of type system, or to another group's register, is an
irrevocable store (R77, R112, R133). DEDUCED, log entry 36. -/
def planCall (t : Dword) (uniform : Option FaultInfo) (align : MemCheck) (c : Ctx) (s : State) : Plan :=
  let d := c.group.depth
  let top := 16 + c.launch.desc.calls
  let deep := if d == top then some (c.pathFault 0x09 (d % 256 + 256 * (top - 1))) else none
  let a := c.stackAddr d
  let loc := s.vaLoc c.launch a 8 2
  let push := fun (s : State) =>
    c.goto t (s.modGroup c.ref (fun g => { g with
      depth := d + 1, stack := if d < 16 then g.stack.take d ++ [c.next] else g.stack }))
  { uniform := uniform
    path := c.onePath.orElse (fun _ => deep)
    mem := match align with
      | .ok => if d < 16 then .ok else c.sharedCheck c.path.mask a loc
      | m => m
    hold := if d < 16 then none else match loc with
      | .ok l => s.chanHold (l.span 8)
      | .error _ => none
    effect := if d < 16 then push s
      else match loc with
      | .error _ => s
      | .ok l =>
        let ls := l.span 8
        let s1 := (s.flushFor c.ref ls).performBytes (some (teamOf c.ref)) (bytesAt ls (leBytes c.next.toNat 8))
        push (if ls.any (fun p => p.system || foreign c.ref p) then s1.irrevocable (teamOf c.ref) else s1) }

/-- RET. DEDUCED, log entry 36. -/
def planRet (c : Ctx) (s : State) : Plan :=
  let d := c.group.depth
  let a := c.stackAddr (d - 1)
  let loc := s.vaLoc c.launch a 8 1
  let held := d ≤ 16
  let ls := match loc with
    | .ok l => l.span 8
    | .error _ => []
  let pc : Dword := if held then c.group.stack.getD (d - 1) 0
    else BitVec.ofNat 64 (leNat (ls.map (fun l => s.readFor c.group l)))
  { path := c.onePath.orElse (fun _ => if d == 0 then some (c.pathFault 0x09 256) else none)
    mem := if held then c.pcAlign pc
      else match loc with
      | .error e => memCheck (c.sharedErr c.path.mask a e)
      | .ok _ => c.pcAlign pc
    data := if held then none else s.consumeFor c.group c.core ls a c.path.mask
    hold := if held then none else s.chanHold ls
    effect := c.goto pc (s.modGroup c.ref (fun g => { g with depth := d - 1, stack := g.stack.take (d - 1) })) }

/-! ## SPLIT and JOIN (R210, R43 to R46) -/

/-- Writes a k register of the group, or of its rope, with a rejoin depth. -/
def Ctx.putK (c : Ctx) (code : Byte) (m : Mask) (depth : Option Nat) (s : State) : State :=
  let k := code.toNat - 0xE0
  s.modGroup c.ref (fun g => if c.inRope then { g with rope := g.rope.map (fun r => { r with ks := kWrite r.ks c.n k m depth }) }
    else { g with ks := kWrite g.ks c.n k m depth })

/-- SPLIT. -/
def planSplit (x : XF) (c : Ctx) (s : State) : Plan :=
  { effect := c.advance (c.putK x.d c.path.mask (if c.inRope then none else some c.group.depth) s) }

/-- The lanes that count as arrived at any JOIN: dead lanes, or ended helpers. -/
def Ctx.gone (c : Ctx) : Mask := fullMask c.n &&& ~~~c.live

/-- The paths of the group, or of its rope. -/
def Ctx.paths (c : Ctx) : List Path := (c.rope.map (·.paths)).getD c.group.paths

/-- JOIN: the path parks; when every lane of the mask is parked here or gone the parked lanes fuse; a group with no other
path to run stops with the successor. `succAt` is the place of the successor field. -/
def planJoin (x : XF) (succAt : Nat × Nat) (c : Ctx) (s : State) : Plan :=
  let k := x.a.toNat - 0xE0
  let depth := (c.ks.getD k {}).depth
  let parked : List Path := replacePath c.paths c.path [{ c.path with join := some { k := k, succ := x.d, next := c.next } }]
  let ps := settlePaths parked c.gone (kMask c.ks c.n)
  let stuck := (runPath ps).isNone
  let stops := stuck && !c.inRope
  let s1 := c.setPaths (fun _ => ps) s
  { range := if stops then c.succOperand x.d succAt.1 succAt.2 else none
    path := match depth with
      | none => none
      | some r => if c.inRope || r == c.group.depth then none
        else some (c.pathFault 0x09 (c.group.depth % 256 + 256 * r))
    baton := if stops then c.succBaton x.d false else none
    rope := if stuck && c.inRope then some (c.pathFault 0x0C 7) else none
    effect := if stops then c.stopAt .join x.d s1 else s1 }

/-! ## EXIT (R211, R28) -/

/-- A group whose last live lane is dead: EXITED, its links ended (R275), its block record written, its unreported failures
recorded (R378), its baton delivered (R37). -/
def State.exitGroup (s : State) (r : GroupRef) : State :=
  match s.team? (teamOf r), s.group? r with
  | some t, some old =>
    let s := s.reportFails t r old.fails
    let s := s.modGroup r (fun g => { g with state := .exited, slot := none, stop := none, hold := none, fails := [], paths := [], links := [] })
    let s := s.putBlockRecord r 0
    s.dropBaton r old
  | _, _ => s

/-- The stop of a group left with nothing but parked lanes (R45). -/
def parkedStop (ps : List Path) : Option Byte :=
  if (runPath ps).isSome then none else (lowestParked ps).bind (fun p => p.join.map (·.succ))

/-- EXIT. -/
def planExit (x : XF) (c : Ctx) (s : State) : Plan :=
  let exec := c.exec x.mask.toNat
  let live := c.live &&& ~~~exec
  let left := replacePath c.paths c.path [{ c.path with pc := c.next, mask := c.path.mask &&& ~~~exec }]
  let ps := settlePaths left (fullMask c.n &&& ~~~live) (kMask c.ks c.n)
  let stop := if live == 0 then none else parkedStop ps
  let s1 := s.modGroup c.ref (fun g => { g with
    live := live, paths := ps, deadPc := g.deadPc ++ (lanesOf c.n exec).map (fun l => (l, c.pc)) })
  { range := stop.bind (fun d => c.succOperand d 0 16)
    baton := stop.bind (fun d => c.succBaton d false)
    effect := if live == 0 then s1.exitGroup c.ref
      else match stop with
      | some d => c.stopAt .join d s1
      | none => s1 }

/-! ## TRAP, BRK, NOP (R212, R213, R370) -/

/-- TRAP: always its fault. -/
def planTrap (x : XF) (c : Ctx) (s : State) : Plan := { data := some (c.pathFault 0x12 x.f.toNat), effect := s }

/-- BRK: the fault BREAK, or with a debug right a halt before the next instruction. -/
def planBrk (x : XF) (c : Ctx) (s : State) : Plan :=
  match s.right? c.ref.launch with
  | none => { data := some (c.pathFault 0x13 x.f.toNat), effect := s }
  | some r => { effect := (c.advance (s.modGroup c.ref (fun g => { g with halted := true }))).groupEvent r 3 c.ref }

/-- NOP. -/
def planNop (c : Ctx) (s : State) : Plan := { effect := c.advance s }

/-! ## Meanings -/

/-- The X terms of an instruction whose B form has other field places. -/
def opB (word : Word) (family func : Nat) (x : XF) (place : Nat × Nat → Nat × Nat := id) : Op :=
  { family := family, func := func, x := x, len := 1, bad := illegalB word, place := place
    prompt := family == 0x07 && func == 0x00 }

/-- A signed 24-bit word offset. -/
def off24 (o : BitVec 24) : Dword := o.signExtend 64

/-- A control word of the B form with an offset. -/
def wordOff (major : Nat) (o : BitVec 24) : Word := (0 : BitVec 2) ++ BitVec.ofNat 6 major ++ o

def execBra (o : BitVec 24) (s : State) : Out :=
  let x : XF := { a := 0xE0 }
  runOp (opB (wordOff 0x25 o) 0x07 0x00 x) (planBra x (off24 o)) s

def execBraBl (lit : Dword) (s : State) : Out :=
  let x : XF := { a := 0xE0 }
  runOp { family := 0x07, func := 0x00, x := x, len := 3, bad := illegalBL (wordBL 0x25 0 0) lit, prompt := true }
    (planBra x lit) s

def execBraX (x : XF) (s : State) : Out := runX 0x07 0x00 x (planBra x (x.lit.getD 0)) s
def execBrd (x : XF) (s : State) : Out := runX 0x07 0x01 x (planBrd x) s
def execJmpi (x : XF) (s : State) : Out := runX 0x07 0x02 x (planJmpi x) s

def execCall (o : BitVec 24) (s : State) : Out :=
  runOp (opB (wordOff 0x26 o) 0x07 0x03 {}) (fun c => planCall (c.target (off24 o)) none .ok c) s

def execCallBl (lit : Dword) (s : State) : Out :=
  runOp { family := 0x07, func := 0x03, x := {}, len := 3, bad := illegalBL (wordBL 0x26 0 0) lit }
    (fun c => planCall (c.target lit) none .ok c) s

def execCallX (x : XF) (s : State) : Out := runX 0x07 0x03 x (fun c => planCall (c.target (x.lit.getD 0)) none .ok c) s

def execCalli (x : XF) (s : State) : Out :=
  runX 0x07 0x04 x (fun c =>
    let t := c.pairTarget x.a
    planCall t (c.pairUniform x.a c.path.mask) (c.pcAlign t) c) s

def execRet (s : State) : Out := runOp (opB (wordB 0x27 0 0 0) 0x07 0x05 {}) planRet s
def execRetX (x : XF) (s : State) : Out := runX 0x07 0x05 x planRet s

/-- The k register of a B-form field. -/
def kCode (k : BitVec 4) : Byte := 0xE0 + k.zeroExtend 8

def execSplit (k : BitVec 4) (s : State) : Out :=
  let x : XF := { d := kCode k }
  runOp (opB (wordB 0x2C (k.zeroExtend 8) 0 0) 0x07 0x06 x) (planSplit x) s

def execSplitX (x : XF) (s : State) : Out := runX 0x07 0x06 x (planSplit x) s

/-- The B form of JOIN has k in field A and the successor in field C. -/
def execJoin (k : BitVec 4) (succ : Byte) (s : State) : Out :=
  let x : XF := { d := succ, a := kCode k }
  runOp (opB (wordB 0x2B (k.zeroExtend 8) 0 succ) 0x07 0x07 x
    (fun e => if e = (0, 8) then (0, 16) else if e = (0, 16) then (0, 0) else e)) (planJoin x (0, 0)) s

def execJoinX (x : XF) (s : State) : Out := runX 0x07 0x07 x (planJoin x (0, 16)) s

def execExit (s : State) : Out := runOp (opB (wordB 0x28 0 0 0) 0x07 0x08 {}) (planExit {}) s
def execExitX (x : XF) (s : State) : Out := runX 0x07 0x08 x (planExit x) s
def execTrap (x : XF) (s : State) : Out := runX 0x07 0x09 x (planTrap x) s
def execBrk (x : XF) (s : State) : Out := runX 0x07 0x0A x (planBrk x) s
def execNop (x : XF) (s : State) : Out := runX 0x07 0x0B x planNop s

end Sys2Proof.Machine
end

