-- ==== Sys2Proof/Machine/Baton.lean ====
section
/-! DEFINITION. The BATON family (09 R214 to R218; 02 R33 to R42). -/

namespace Sys2Proof.Machine

/-! ## Mail (R33, R214) -/

/-- Writes a mail operand to a mailbox of a group of the partition: lane for lane, with its shape tag. vz writes nothing.
Poison marks travel with their words. DEDUCED, log entry 37. -/
def Ctx.mailTo (c : Ctx) (target : Nat) (box code : Byte) (s : State) : State :=
  if clsOf code == .vz then s
  else
    let g : GroupRef := { c.ref with grp := target }
    match s.group? g with
    | none => s
    | some _ =>
      let sh := c.shapeOf code
      let marks := (List.range c.n).filterMap (fun l => (c.markAt code 0 0 l).map (fun m => (l, m)))
      s.modTeam (teamOf g) (fun t =>
        (t.modGroup g.part g.grp (fun r =>
          let old := r.reg box
          let new : Reg := { old with
            tag := sh.tag, base := sh.base, stride := sh.stride, lanes := (List.range c.n).map (c.read code)
            poison := 0, sources := [] }
          let r := r.setReg box (new.marked marks)
          r.putMail box.toNat (BitVec.ofNat 8 c.ref.grp))).addLog
          (regRows g.part g.grp box c.n (fullMask c.n)))

/-- Both mail operands, unless the receiver is FAULTED or EXITED (R33, R366). -/
def Ctx.sendMail (c : Ctx) (target : Nat) (a b : Byte) (s : State) : State :=
  match c.part.groups[target]? with
  | none => s
  | some g => if g.state == .faulted || g.state == .exited then s else c.mailTo target 0xC1 b (c.mailTo target 0xC0 a s)

/-- OPERAND of XFER's successor and mail: the square takes no mail. -/
def Ctx.xferOperand (c : Ctx) (x : XF) : Option FaultInfo :=
  match c.successor x.d with
  | none => some (c.pathFault 0x02 16)
  | some 0x21 =>
    if clsOf x.a != .vz then some (c.pathFault 0x02 8)
    else if clsOf x.b != .vz then some (c.pathFault 0x02 0) else none
  | some _ => none

/-- The sender gives up its baton and is READY (R33). -/
def Ctx.sendBaton (c : Ctx) (target : Nat) (s : State) : State :=
  c.passBaton target true
    (s.modGroup c.ref (fun g => if g.slot.isSome then { g with state := .ready, slot := none } else g))

/-- XFER (R214). -/
def planXfer (x : XF) (c : Ctx) (s : State) : Plan :=
  let t := (c.successor x.d).getD 0x21
  { operand := if x.d.toNat < 0x40 then c.xferOperand x else none
    range := c.xferOperand x
    baton := c.succBaton x.d false
    effect := c.sendBaton t (c.sendMail t x.a x.b (c.advance s)) }

/-- XFERA: the baton goes to the alternate when the receiver of the mail is WAITING (R34, R215). -/
def planXfera (x : XF) (c : Ctx) (s : State) : Plan :=
  let t := (c.successor x.d).getD 0x21
  let waiting := ((c.part.groups[t]?).map (fun g => g.state == .waiting)).getD false
  let to_ := if waiting then (c.successor x.c).getD 0x21 else t
  { operand := if x.d.toNat < 0x40 then c.xferOperand x else none
    range := (c.xferOperand x).orElse (fun _ => if waiting then c.succOperand x.c 1 24 else none)
    baton := (c.succBaton x.d false).orElse (fun _ => if waiting then c.succBaton x.c true else none)
    effect := c.sendBaton to_ (c.sendMail t x.a x.b (c.advance s)) }

/-- BELAY (R216). -/
def planBelay (x : XF) (c : Ctx) (s : State) : Plan :=
  let code := x.d.toNat
  let v := if code < 0x40 then code else bits (c.read (x.d + 0x60) 0).toNat 0 8
  let bad := if v == 0x21 || v < c.launch.desc.groups then none else some (c.pathFault 0x02 16)
  { operand := if code < 0x40 then bad else none
    range := bad
    effect := c.advance (s.modGroup c.ref (fun g => { g with belay := BitVec.ofNat 8 v })) }

/-- PARK (R217). -/
def planPark (x : XF) (c : Ctx) (s : State) : Plan :=
  { range := c.succOperand x.d 0 16
    baton := c.succBaton x.d false
    effect := c.stopAt .park x.d s }

/-! ## WAIT (R218) -/

/-- The counts that a WAIT tests: 63 places no condition. -/
structure Counts where
  ld : Nat
  st : Nat
  cp : Nat
  tl : Nat
  deriving DecidableEq, Repr

/-- The count of a class. -/
def Counts.of (k : Counts) (cls : CreditClass) : Nat :=
  match cls with
  | .ld => k.ld
  | .st => k.st
  | .cp => k.cp
  | .tl => k.tl

/-- The condition of a WAIT. -/
def Group.waitMet (g : Group) (k : Counts) : Bool :=
  g.ld.length ≤ k.ld && g.st.length ≤ k.st && g.cp.length ≤ k.cp && g.tl.length ≤ k.tl

/-- The failures that a WAIT covers, and those that it does not. DEDUCED, log entry 38. -/
def Group.covered (g : Group) (k : Counts) : List RetiredFail × List RetiredFail :=
  (g.fails.filter (fun f => k.of f.cls < 63), g.fails.filter (fun f => !(k.of f.cls < 63)))

/-- The oldest failure of some. DEDUCED, log entry 38. -/
def oldestFail (fs : List RetiredFail) : Option RetiredFail :=
  fs.foldl (fun r f => match r with
    | none => some f
    | some b => if f.seq < b.seq then some f else some b) none

/-- Surfaces a failure at a WAIT at a PC: the group faults with the oldest one, the others are dropped (R218, R364).
DEDUCED, log entry 38. -/
def State.surface (s : State) (r : GroupRef) (k : Counts) (pc : Dword) : Option State :=
  match s.team? (teamOf r), s.group? r with
  | some t, some g =>
    let (hit, rest) := g.covered k
    (oldestFail hit).map (fun f =>
      (s.modGroup r (fun g => { g with fails := rest })).faultGroup r
        { recordOf t r f.pc f.info with flags := (if 1 < hit.length then 9 else 1), secPc := pc, unit := failUnit f.cls } pc)
  | _, _ => none

/-- The counts of a WAIT's fields: A, B, C and F. -/
def countsOf (x : XF) : Counts :=
  { ld := bits x.a.toNat 0 6, st := bits x.b.toNat 0 6, cp := bits x.c.toNat 0 6, tl := bits x.f.toNat 0 6 }

/-- WAIT: it surfaces failures or goes on when its condition holds, else the group stops. `succAt` is the place of the
successor field. DEDUCED, log entry 38. -/
def planWait (k : Counts) (succ : Byte) (succAt : Nat × Nat) (c : Ctx) (s : State) : Plan :=
  let met := c.group.waitMet k
  { range := if met then none else c.succOperand succ succAt.1 succAt.2
    baton := if met then none else c.succBaton succ false
    effect := if met then (s.surface c.ref k c.pc).getD (c.advance s)
      else c.stopAt (.wait k.ld k.st k.cp k.tl) succ s }

/-! ## Meanings -/

def execXfer (succ a b : Byte) (s : State) : Out :=
  let x : XF := { d := succ, a := a, b := b }
  runOp (opB (wordB 0x29 succ a b) 0x08 0x00 x) (planXfer x) s

def execXferX (x : XF) (s : State) : Out := runX 0x08 0x00 x (planXfer x) s
def execXfera (x : XF) (s : State) : Out := runX 0x08 0x01 x (planXfera x) s
def execBelay (x : XF) (s : State) : Out := runX 0x08 0x02 x (planBelay x) s
def execPark (x : XF) (s : State) : Out := runX 0x08 0x03 x (planPark x) s

/-- A count of the B form: 15 stands for 63 (R155). -/
def count4 (n : BitVec 4) : Nat := if n == 15 then 63 else n.toNat

/-- The B form of WAIT has its successor in field C. -/
def execWait (l st c t : BitVec 4) (succ : Byte) (s : State) : Out :=
  let k : Counts := { ld := count4 l, st := count4 st, cp := count4 c, tl := count4 t }
  let x : XF := { d := succ }
  runOp (opB (wordB 0x2A (l ++ st) (c ++ t) succ) 0x08 0x04 x (fun e => if e = (0, 16) then (0, 0) else e))
    (planWait k succ (0, 0)) s

def execWaitX (x : XF) (s : State) : Out := runX 0x08 0x04 x (planWait (countsOf x) x.d (0, 16)) s

end Sys2Proof.Machine
end

