-- ==== Sys2Proof/Machine/Memory.lean ====
section
/-! DEFINITION. The MEM family (10 R230 to R240, R397; 03 R80). -/

namespace Sys2Proof.Machine

/-! ## Addresses (R232, R233) -/

/-- A 32-bit word as a signed 64-bit value. -/
def sext32 (w : Word) : Dword := w.signExtend 64

/-- The displacement of a lane: a literal or an immediate whole, or field C. -/
def Ctx.disp (c : Ctx) (x : XF) (l : Nat) : Dword :=
  match c.immC with
  | some i => i
  | none => sext32 (c.read x.c l)

/-- The effective address of a lane (R233). -/
def Ctx.ea (c : Ctx) (x : XF) (l : Nat) : Dword := c.read64 x.a 0 0 l + sext32 (c.read x.b l) + c.disp x l

/-- The sum of OFFSET, index and displacement of a scratch address. -/
def Ctx.scratchSum (c : Ctx) (x : XF) (l : Nat) : Int :=
  let d : Int := match c.immC with
    | some i => (lowWord i).toInt
    | none => (c.read x.c l).toInt
  bits (c.read x.a l).toNat 0 20 + (c.read x.b l).toInt + d

/-- UNIFORM_MISMATCH of the operands that the whole group reads once (R232): each with its code, whether it is a pair,
over the lanes that are checked. -/
def Ctx.uniformOps (c : Ctx) (lanes : Mask) (ops : List (Byte × Bool)) : Option FaultInfo :=
  ops.findSome? (fun o =>
    if o.2 then uniformFault o.1 (c.tag64 o.1 0) c.n lanes (fun l => (c.read64 o.1 0 0 l).toNat)
    else uniformFault o.1 (c.shapeOf o.1).tag c.n lanes (fun l => (c.read o.1 l).toNat))

/-- ALIGN with the alignment that an address needs. -/
def alignErr (n : Nat) : LocErr := { code := 0x22, inner := n }

/-- The places of an access of `n` bytes of a lane through translated memory or a window, with the rights it needs. -/
def Ctx.place (c : Ctx) (s : State) (va : Dword) (n need : Nat) : Except LocErr (List Loc) :=
  if va.toNat % n != 0 then .error (alignErr n)
  else match s.vaLoc c.launch va.toNat n need with
    | .error e => .error e
    | .ok l => .ok (l.span n)

/-- The places of an access of `n` bytes of a lane to scratchpad (R237). -/
def Ctx.scratchPlace (c : Ctx) (s : State) (x : XF) (l n : Nat) : Except LocErr (List Loc) :=
  let sum := c.scratchSum x l
  if sum % n != 0 then .error (alignErr n)
  else if sum < 0 || 2 ^ 20 ≤ sum then .error { code := 0x23, inner := 4 }
  else s.scratchLocs c.launch c.core ((c.read x.a l).toNat - bits (c.read x.a l).toNat 0 20 + sum.toNat) n

/-- The address that a fault names: the effective address, or the scratch address. -/
def Ctx.named_ (c : Ctx) (scratch : Bool) (x : XF) (l : Nat) : Nat :=
  if scratch then
    let a := (c.read x.a l).toNat
    let sum := c.scratchSum x l
    if sum < 0 || 2 ^ 20 ≤ sum then a else a - bits a 0 20 + sum.toNat
  else (c.ea x l).toNat

/-- One lane's access: the lane, the address that a fault names, and its places. -/
structure LaneAcc where
  lane : Nat
  addr : Nat
  locs : Except LocErr (List Loc)

/-- The errors of the accesses of lanes. -/
def accErrs (as : List LaneAcc) : List (Nat × Nat × LocErr) :=
  as.filterMap (fun a => match a.locs with
    | .error e => some (a.lane, a.addr, e)
    | .ok _ => none)

/-- The places of an access that has none to report. -/
def LaneAcc.get (a : LaneAcc) : List Loc :=
  match a.locs with
  | .ok l => l
  | .error _ => []

/-- DATA_LOSS or POISON of the lanes whose places are poisoned as the group sees them: DATA_LOSS first, with the lanes that
raise it (R363, R380). -/
def State.consumeLanes (s : State) (c : Ctx) (as : List LaneAcc) : Option FaultInfo :=
  let hit := as.filterMap (fun a => s.consumeFor c.group c.core a.get a.addr (1#64 <<< a.lane))
  let loss := hit.filter (fun f => f.code == 0x30)
  let first := if loss.isEmpty then hit else loss
  first.head?.map (fun f => { f with lanes := first.foldl (fun m f => m ||| f.lanes) 0 })

/-- The accesses that wait for the response of a link: the address of the lowest lane and the lanes (chapter 19, Links).
DEDUCED, log entry 13. -/
def anyRemote (as : List LaneAcc) : Option (Dword × Mask) :=
  match as.filter (fun a => a.get.any Loc.remote) with
  | [] => none
  | a :: r => some (BitVec.ofNat 64 a.addr, maskOf 64 (fun l => (a :: r).any (fun b => b.lane == l)))

/-- The same of one access that the whole group makes. DEDUCED, log entry 13. -/
def Ctx.runRemote (c : Ctx) (va : Dword) (ls : List Loc) : Option (Dword × Mask) :=
  if ls.any Loc.remote then some (va, c.path.mask) else none

/-! ## Loads (R235, R397) -/

/-- Bytes of SIZE. -/
def sizeBytes (f : Byte) : Nat := 2 ^ bits f.toNat 0 3

/-- The registers that an access of SIZE names: one, a pair, or four (Table 10.3). -/
def sizeCodes (d : Byte) (size : Nat) : List Byte :=
  if clsOf d == .vz then []
  else match size with
  | 3 => [d, d + 1]
  | 4 => [d, d + 1, d + 2, d + 3]
  | _ => [d]

/-- A loaded value's word `j`, extended (Table 10.3). -/
def loadWord (bs : List Byte) (n j : Nat) (signed : Bool) : Word :=
  if n < 4 then BitVec.ofInt 32 (rd (!signed) (8 * n) (leNat (bs.take n)))
  else BitVec.ofNat 32 (leNat ((bs.drop (4 * j)).take 4))

/-- The poison of word `j` of an access of a group. -/
def State.wordPoison (s : State) (g : Group) (ls : List Loc) (n j : Nat) : Option Nat :=
  (if n < 4 then ls else (ls.drop (4 * j)).take 4).findSome? (s.poisonFor g)

/-- The delivery of a lane result to a register, a helper register among them. -/
def deliverTo (code : Byte) (vals : List (Nat × Word × Option Nat)) : Deliver :=
  if clsOf code == .h then .helper (codeNum code) vals else .lanes code vals

/-- A load of SIZE from the accesses of the executing lanes; `zero` are the lanes that zero mode clears. -/
def Ctx.loadDelivers (c : Ctx) (s : State) (x : XF) (as : List LaneAcc) (zero : List Nat) : List Deliver :=
  let n := sizeBytes x.f
  let signed := bit x.f.toNat 3
  ((sizeCodes x.d (bits x.f.toNat 0 3)).zipIdx).map (fun (code, j) =>
    deliverTo code (as.map (fun a =>
        let ls := a.get
        (a.lane, loadWord (ls.map (s.readFor c.group)) n j signed, s.wordPoison c.group ls n j))
      ++ zero.map (fun l => (l, 0, none))))

/-- Where the words of a result come from: word `j` of each lane's access goes to register `j`. -/
def wordSrcs (codes : List Byte) (as : List LaneAcc) : List (Byte × Nat × Loc) :=
  codes.zipIdx.flatMap (fun (code, j) => as.filterMap (fun a => (a.get[4 * j]?).map (fun p => (code, a.lane, p))))

/-- A uniform load: one access, tag U. -/
def Ctx.uniformDelivers (c : Ctx) (s : State) (x : XF) (a : LaneAcc) : List Deliver :=
  let n := sizeBytes x.f
  let signed := bit x.f.toNat 3
  let ls := a.get
  ((sizeCodes x.d (bits x.f.toNat 0 3)).zipIdx).map (fun (code, j) =>
    let r : Reg := { tag := .u, base := loadWord (ls.map (s.readFor c.group)) n j signed }
    .whole code (r.marked ((s.wordPoison c.group ls n j).toList.map (fun m => (0, m)))))

/-- LD and LDS. DEDUCED, log entry 10. -/
def planLoad (scratch : Bool) (x : XF) (c : Ctx) (s : State) : Plan :=
  let exec := c.exec x.mask.toNat
  let n := sizeBytes x.f
  let uni := clsOf x.d == .s
  let lanes := lanesOf c.n exec
  let acc := fun (l : Nat) => ({ lane := l, addr := c.named_ scratch x l
                                 locs := if scratch then c.scratchPlace s x l n else c.place s (c.ea x l) n 1 } : LaneAcc)
  let as := if uni then (lanes.take 1).map acc else lanes.map acc
  let zero := if x.wmode == 2 then lanesOf c.n (c.path.mask &&& ~~~exec) else []
  let errs := accErrs as
  let errs := if uni then errs.flatMap (fun e => lanes.map (fun l => (l, e.2.1, e.2.2))) else errs
  -- one access supplies every executing lane of a uniform result
  let srcs := wordSrcs (sizeCodes x.d (bits x.f.toNat 0 3))
    (if uni then as.flatMap (fun a => lanes.map (fun l => { a with lane := l })) else as)
  { shape := if clsOf x.d == .w then some { code := 0x05, inner := x.d.toNat + 512, lanes := c.path.mask } else none
    uniform := if uni && exec != 0 then
      c.uniformOps exec ([(x.a, !scratch), (x.b, false)] ++ (if c.immC.isSome then [] else [(x.c, false)])) else none
    partialMask := c.partialFault x.d x.wmode.toNat exec
    mem := memCheck errs
    data := if scratch then (s.consumeLanes c as).map (fun f => if uni then { f with lanes := exec } else f) else none
    hold := if uni && exec == 0 then none else c.counterHold .ld
    effect :=
      if uni then
        match as with
        | [] => c.advance s
        | a :: _ => c.advance (c.addLd (c.uniformDelivers s x a) s (anyRemote as) (srcs := srcs) (lds := scratch))
      else c.advance (c.addLd (c.loadDelivers s x as zero) s (anyRemote as) (srcs := srcs) (lds := scratch)) }

/-! ## Stores (R235, R236) -/

/-- A store is irrevocable: system scope, or a foreign write (R112, R133). -/
def Ctx.storeIrrevocable (c : Ctx) (scope : Nat) (ls : List Loc) : Bool :=
  scope == 4 || ls.any (fun l => l.system || foreign c.ref l)

/-- The bytes that a lane stores: the low bytes of D. -/
def Ctx.storeBytes (c : Ctx) (x : XF) (l : Nat) : List Byte :=
  let size := bits x.f.toNat 0 3
  if clsOf x.d == .vz then List.replicate (2 ^ size) 0
  else match size with
  | 3 => leBytes (c.read x.d l).toNat 4 ++ leBytes (c.read (x.d + 1) l).toNat 4
  | 4 => ((List.range 4).map (fun j => leBytes (c.read (x.d + BitVec.ofNat 8 j) l).toNat 4)).flatten
  | n => leBytes (c.read x.d l).toNat (2 ^ n)

/-- ST and STS. -/
def planStore (scratch : Bool) (x : XF) (c : Ctx) (s : State) : Plan :=
  let exec := c.exec x.mask.toNat
  let n := sizeBytes x.f
  let scope := bits x.f.toNat 4 3
  let as := (lanesOf c.n exec).map (fun l =>
    ({ lane := l, addr := c.named_ scratch x l
       locs := if scratch then c.scratchPlace s x l n else c.place s (c.ea x l) n 2 } : LaneAcc))
  let bs := (as.map (fun a => bytesAt a.get (c.storeBytes x a.lane))).flatten
  { mem := memCheck (accErrs as)
    hold := c.counterHold .st
    effect := c.advance (c.addSt scope bs (c.storeIrrevocable scope (as.flatMap LaneAcc.get)) s (anyRemote as)) }

/-! ## STM (R238) -/

/-- STM: one masked sector for each octet with an executing lane, at the address of its lowest one. -/
def planStm (x : XF) (c : Ctx) (s : State) : Plan :=
  let exec := c.exec x.mask.toNat
  let scope := bits x.f.toNat 4 3
  let octs := (List.range ((c.n + 7) / 8)).filterMap (fun i =>
    match (List.range 8).filter (fun k => laneBit exec (8 * i + k)) with
    | [] => none
    | k :: ks => some (i, k :: ks, ({ lane := 8 * i + k, addr := (c.read64 x.a 0 0 (8 * i + k)).toNat
                                      locs := c.place s (c.read64 x.a 0 0 (8 * i + k)) 32 2 } : LaneAcc)))
  let as := octs.map (fun o => o.2.2)
  let bs := octs.flatMap (fun o =>
    let ls := o.2.2.get
    o.2.1.flatMap (fun k =>
      let en := (c.read x.b (8 * o.1 + k)).toNat
      let w := c.read x.d (8 * o.1 + k)
      (List.range 4).filterMap (fun b =>
        if bit en b then (ls[4 * k + b]?).map (fun p => ({ space := p.space, addr := p.addr, val := wordByte w b } : StoreByte))
        else none)))
  { mem := memCheck (accErrs as)
    hold := c.counterHold .st
    effect := c.advance (c.addSt scope bs (c.storeIrrevocable scope (as.flatMap LaneAcc.get)) s (anyRemote as)) }

/-- PREF: no architectural effect, no fault (R239). -/
def planPref (c : Ctx) (s : State) : Plan := { effect := c.advance s }

/-! ## SPILL and FILL (R240, R80) -/

/-- Every lane fits a sign-extended value of `n` bits. -/
def fitsAll (n : Nat) (ws : List Word) : Bool := ws.all (fun w => (w.extractLsb' 0 n).signExtend 32 == w)

/-- The packing of a register (Table 3.10). -/
def Reg.packing (r : Reg) (w : Nat) : Packing :=
  match r.tag with
  | .u => .u
  | .a => .a
  | .g =>
    let ws := (List.range w).map (fun l => r.lanes.getD l 0)
    if fitsAll 8 ws then .g8 else if fitsAll 16 ws then .g16 else .g32

/-- Bytes of a packing. -/
def Packing.size (p : Packing) (w : Nat) : Nat :=
  match p with
  | .u => 4
  | .a => 8
  | .g8 => w
  | .g16 => 2 * w
  | .g32 => 4 * w

/-- The bytes of a register under a packing; a U register's value is that of every lane. -/
def Reg.packed (r : Reg) (p : Packing) (w : Nat) : List Byte :=
  let lane := fun (l : Nat) => (r.lanes.getD l 0).toNat
  match p with
  | .u => leBytes r.base.toNat 4
  | .a => leBytes r.base.toNat 4 ++ leBytes r.stride.toNat 4
  | .g8 => ((List.range w).map (fun l => leBytes (lane l) 1)).flatten
  | .g16 => ((List.range w).map (fun l => leBytes (lane l) 2)).flatten
  | .g32 => ((List.range w).map (fun l => leBytes (lane l) 4)).flatten

/-- The lanes whose words a byte of a packing holds. -/
def Packing.lanesAt (p : Packing) (w i : Nat) : List Nat :=
  match p with
  | .u | .a => List.range w
  | .g8 => [i]
  | .g16 => [i / 2]
  | .g32 => [i / 4]

/-- The register that bytes of a packing restore, with its tag (FILL); it keeps its spill tag. -/
def Reg.unpacked (p : Packing) (w : Nat) (cls : Cls) (bs : List Byte) : Reg :=
  let le := fun (i n : Nat) => leNat ((bs.drop i).take n)
  match p with
  | .u =>
    let v : Word := BitVec.ofNat 32 (le 0 4)
    { tag := .u, base := v, lanes := if cls == .v || cls == .m then List.replicate w v else [], spill := p }
  | .a =>
    let b : Word := BitVec.ofNat 32 (le 0 4)
    let d : Word := BitVec.ofNat 32 (le 4 4)
    { tag := .a, base := b, stride := d, spill := p
      lanes := if cls == .v || cls == .m then (List.range w).map (fun l => b + d * BitVec.ofNat 32 l) else [] }
  | .g8 => { tag := .g, lanes := (List.range w).map (fun l => BitVec.ofInt 32 (sx 8 (le l 1))), spill := p }
  | .g16 => { tag := .g, lanes := (List.range w).map (fun l => BitVec.ofInt 32 (sx 16 (le (2 * l) 2))), spill := p }
  | .g32 => { tag := .g, lanes := (List.range w).map (fun l => BitVec.ofNat 32 (le (4 * l) 4)), spill := p }

/-- The address of SPILL and FILL, read once for the group. -/
def Ctx.spillAddr (c : Ctx) (x : XF) : Dword :=
  let l := lowLane c.path.mask
  c.read64 x.a 0 0 l + c.disp x l

/-- The places of `n` bytes from a multiple of 4 on, word by word. -/
def Ctx.runPlaces (c : Ctx) (s : State) (va : Dword) (n need : Nat) : Except (Nat × LocErr) (List Loc) :=
  if va.toNat % 4 != 0 then .error (va.toNat, alignErr 4)
  else (List.range ((n + 3) / 4)).foldl (fun r i =>
    match r with
    | .error e => .error e
    | .ok ls =>
      let a := (va + BitVec.ofNat 64 (4 * i)).toNat
      match s.vaLoc c.launch a 4 need with
      | .error e => .error (a, e)
      | .ok l => .ok (ls ++ l.span (min 4 (n - 4 * i)))) (.ok [])

/-- The checks of a run of places that the whole group uses. -/
def Ctx.runCheck (c : Ctx) (r : Except (Nat × LocErr) (List Loc)) : MemCheck :=
  match r with
  | .ok _ => .ok
  | .error e => memCheck (c.sharedErr c.path.mask e.1 e.2)

/-- The uniform operands of SPILL and FILL. -/
def Ctx.spillUniform (c : Ctx) (x : XF) : Option FaultInfo :=
  c.uniformOps c.path.mask ([(x.a, true)] ++ (if c.immC.isSome then [] else [(x.c, false)]))

/-- SPILL: the register's bytes in the packing of its tag; marks travel with the words. -/
def planSpill (x : XF) (c : Ctx) (s : State) : Plan :=
  let r := c.group.reg x.d
  let p := r.packing c.n
  let run := c.runPlaces s (c.spillAddr x) (p.size c.n) 2
  let ls := match run with
    | .ok l => l
    | .error _ => []
  let marks := ls.zipIdx.filterMap (fun e => ((p.lanesAt c.n e.2).findSome? (c.markAt x.d 0 0)).map (fun m =>
    (e.1.space, e.1.addr, m)))
  { uniform := c.spillUniform x
    mem := c.runCheck run
    hold := c.counterHold .st
    effect := c.advance (
      let s := c.addSt 0 (bytesAt ls (r.packed p c.n)) (c.storeIrrevocable 0 ls) s (c.runRemote (c.spillAddr x) ls)
      s.modGroup c.ref (fun g => { g.setReg x.d { r with spill := p } with
        st := g.st.map (fun o => if o.seq + 1 = g.nextSeq then { o with marks := marks } else o) })) }

/-- FILL: the bytes that D's spill tag gives. -/
def planFill (x : XF) (c : Ctx) (s : State) : Plan :=
  let p := (c.group.reg x.d).spill
  let run := c.runPlaces s (c.spillAddr x) (p.size c.n) 1
  let ls := match run with
    | .ok l => l
    | .error _ => []
  let bytes := fun (l : Nat) => (ls.zipIdx.filter (fun e => (p.lanesAt c.n e.2).contains l)).map (·.1)
  let marks := (List.range c.n).filterMap (fun l => ((bytes l).findSome? (s.poisonFor c.group)).map (fun m => (l, m)))
  let r := Reg.unpacked p c.n (clsOf x.d) (ls.map (s.readFor c.group))
  let srcs := ls.zipIdx.flatMap (fun e => (p.lanesAt c.n e.2).map (fun l => (x.d, l, e.1)))
  { uniform := c.spillUniform x
    mem := c.runCheck run
    hold := c.counterHold .ld
    effect := c.advance (c.addLd [.whole x.d (r.marked marks)] s
      (c.runRemote (c.spillAddr x) ls) (srcs := srcs)) }

/-! ## Meanings -/

def execLd (x : XF) (s : State) : Out := runX 0x09 0x00 x (planLoad false x) s
def execSt (x : XF) (s : State) : Out := runX 0x09 0x01 x (planStore false x) s
def execLds (x : XF) (s : State) : Out := runX 0x09 0x02 x (planLoad true x) s
def execSts (x : XF) (s : State) : Out := runX 0x09 0x03 x (planStore true x) s
def execStm (x : XF) (s : State) : Out := runX 0x09 0x04 x (planStm x) s
def execPref (x : XF) (s : State) : Out := runX 0x09 0x05 x planPref s
def execSpill (x : XF) (s : State) : Out := runX 0x09 0x06 x (planSpill x) s
def execFill (x : XF) (s : State) : Out := runX 0x09 0x07 x (planFill x) s

/-- The X terms of a B-form load or store: SIZE 2, scope grp, no index (R234). -/
def memB (d a : Byte) (load : Bool) : XF :=
  { d := d, a := a, b := 0xFF, c := 0xFF, f := 2, wmode := if load then bMode d else 0 }

/-- Runs a B-form load or store: the displacement is simm8 times 4. -/
def runMemB (major func : Nat) (d a i : Byte) (load : Bool) (plan : XF → Ctx → State → Plan) (s : State) : Out :=
  let x := memB d a load
  runOp { family := 0x09, func := func, x := x, len := 1, bad := illegalB (wordB major d a i),
          immC := some (simm 8 i.toNat * 4), prompt := major == 0x24 } (plan x) s

/-- Runs a BL-form load or store: the literal is the displacement. -/
def runMemBL (major func : Nat) (d a : Byte) (lit : Dword) (load : Bool) (plan : XF → Ctx → State → Plan) (s : State) : Out :=
  let x := memB d a load
  runOp { family := 0x09, func := func, x := x, len := 3, bad := illegalBL (wordBL major d a) lit, immC := some lit } (plan x) s

def execLd32 (d a i : Byte) (s : State) : Out := runMemB 0x21 0x00 d a i true (planLoad false) s
def execSt32 (d a i : Byte) (s : State) : Out := runMemB 0x22 0x01 d a i false (planStore false) s
def execLds32 (d a i : Byte) (s : State) : Out := runMemB 0x23 0x02 d a i true (planLoad true) s
def execSts32 (d a i : Byte) (s : State) : Out := runMemB 0x24 0x03 d a i false (planStore true) s
def execLd32Bl (d a : Byte) (lit : Dword) (s : State) : Out := runMemBL 0x21 0x00 d a lit true (planLoad false) s
def execSt32Bl (d a : Byte) (lit : Dword) (s : State) : Out := runMemBL 0x22 0x01 d a lit false (planStore false) s
def execLds32Bl (d a : Byte) (lit : Dword) (s : State) : Out := runMemBL 0x23 0x02 d a lit true (planLoad true) s
def execSts32Bl (d a : Byte) (lit : Dword) (s : State) : Out := runMemBL 0x24 0x03 d a lit false (planStore true) s

end Sys2Proof.Machine
end

