-- ==== Sys2Proof/Machine/Atom.lean ====
section
/-! DEFINITION. The ATOM family: atomics and exact cells (10 R241 to R243; 04 R101 to R103; 17 R336). -/

namespace Sys2Proof.Machine

/-! ## Where an atomic acts -/

/-- Host memory: type system and bit 51 of the physical address clear (Table 17.1). -/
def hostKey (key : Nat) : Bool := keyType key == 2 && key % 2 ^ 52 < 2 ^ 51

/-- The place of an atomic step of `n` bytes: aligned, in translated memory, not host memory unless `onHost`, with RD
and W (R128, R336, R339). -/
def Ctx.atomPlace (c : Ctx) (s : State) (va : Dword) (n : Nat) (onHost : Bool) : Except LocErr (List Loc) :=
  if va.toNat % n != 0 then .error (alignErr n)
  else if isWindow va.toNat then .error { code := 0x2A, inner := 0 }
  else match s.xlate (s.spaceOfVdev (vkeyOfQ c.launch.queue)) va.toNat with
    | .error e => .error e.toLoc
    | .ok x =>
      if hostKey x.key && !onHost then .error { code := 0x2A, inner := 1 }
      else
        match x.toLoc 3 with
        | .error e => .error e
        | .ok p => .ok (p.span n)

/-- One atomic step of a team: the bytes at some places are replaced. DEDUCED, log entry 12. -/
def State.atomStep (s : State) (t : TeamRef) (ls : List Loc) (bs : List Byte) : State := s.performBytes (some t) (bytesAt ls bs)

/-- A step of each executing lane in ascending order: the old value's bytes give the new ones; the old values come back
by lane (R242). -/
def atomLanes (t : TeamRef) (f : Nat → List Byte → List Byte) : List LaneAcc → State → List (Nat × List Byte) →
    State × List (Nat × List Byte)
  | [], s, acc => (s, acc)
  | a :: rest, s, acc =>
    let old := a.get.map s.readLoc
    atomLanes t f rest (s.atomStep t a.get (f a.lane old)) (acc ++ [(a.lane, old)])

/-! ## ATOM (R241, Table 10.4) -/

/-- The new value of an ATOM operation of width `w`. -/
def atomOp (op w m b k : Nat) : Nat :=
  match op with
  | 0 => (m + b) % 2 ^ w
  | 1 => (m + 2 ^ w - b) % 2 ^ w
  | 2 => if sx w b < sx w m then b else m
  | 3 => if sx w m < sx w b then b else m
  | 4 => min m b
  | 5 => max m b
  | 6 => m &&& b
  | 7 => m ||| b
  | 8 => m ^^^ b
  | 9 => b
  | 10 => if m == k then b else m
  | _ => (Fp.roundSum Fp.fp32 0 [Fp.decode Fp.fp32 m, Fp.decode Fp.fp32 b]).1

/-- The operations that host memory accepts (R336). -/
def hostOp (op : Nat) : Bool := op == 0 || op == 1 || op == 9 || op == 10

/-- SHAPE of an atomic or XRD: its result has tag G (R397). -/
def Ctx.atomShape (c : Ctx) (d : Byte) : Option FaultInfo :=
  if clsOf d == .vz then none else shapeFault d .g c.path.mask

/-- An ST-class operation without bytes: its step is made at issue. DEDUCED, log entry 43. -/
def Ctx.addStep (c : Ctx) (scope : Nat) (link : Option (Dword × Mask)) (s : State) : State := c.addSt scope [] false s link

/-- ATOM. DEDUCED, log entry 12; DEDUCED, log entry 43. -/
def planAtom (x : XF) (c : Ctx) (s : State) : Plan :=
  let exec := c.exec x.mask.toNat
  let op := bits x.f.toNat 0 4
  let scope := bits x.f.toNat 4 3
  let wide := bit x.f.toNat 7
  let n := if wide then 8 else 4
  let keep := clsOf x.d != .vz
  let as := (lanesOf c.n exec).map (fun l =>
    ({ lane := l, addr := (c.read64 x.a 0 0 l).toNat, locs := c.atomPlace s (c.read64 x.a 0 0 l) n (hostOp op) } : LaneAcc))
  let val := fun (k : Byte) (l : Nat) => if wide then (c.read64 k 0 0 l).toNat else (c.read k l).toNat
  let cmp := fun (l : Nat) => match c.immC with
    | some i => if wide then i.toNat else (lowWord i).toNat
    | none => val x.c l
  let ls := as.flatMap LaneAcc.get
  let flushed := s.flushFor c.ref ls
  let (s1, olds) := atomLanes (teamOf c.ref) (fun l old => leBytes (atomOp op (8 * n) (leNat old) (val x.b l) (cmp l)) n) as
    flushed []
  let marks := as.map (fun a => (a.lane, a.get.findSome? (s.poisonFor c.group)))
  let words := fun (j : Nat) => olds.map (fun o =>
    (o.1, BitVec.ofNat 32 (leNat ((o.2.drop (4 * j)).take 4)), (lookupD marks o.1 none)))
  let zero := if x.wmode == 2 then (lanesOf c.n (c.path.mask &&& ~~~exec)).map (fun l => (l, (0 : Word), (none : Option Nat))) else []
  let ds := if wide then [Deliver.lanes x.d (words 0 ++ zero), .lanes (x.d + 1) (words 1 ++ zero)]
    else [.lanes x.d (words 0 ++ zero)]
  let codes := if wide then [x.d, x.d + 1] else [x.d]
  let s2 := if keep then c.addLd ds s1 (anyRemote as) (srcs := wordSrcs codes as) else c.addStep scope (anyRemote as) s1
  { shape := c.atomShape x.d
    partialMask := c.partialFault x.d x.wmode.toNat exec
    mem := memCheck (accErrs as)
    hold := (c.counterHold (if keep then .ld else .st)).orElse (fun _ => s.chanHold ls)
    effect := c.advance (s2.irrevocable (teamOf c.ref)) }

/-! ## Exact cells (R101 to R103) -/

/-- The 256 bits of an exact cell. -/
structure Cell where
  wrap : Nat
  nan : Bool
  ninf : Bool
  pinf : Bool
  ovf : Bool
  value : Nat
  deriving DecidableEq, Repr

/-- The cell that a number holds. -/
def Cell.ofNat (n : Nat) : Cell :=
  { wrap := bits n 252 4, nan := bit n 251, ninf := bit n 250, pinf := bit n 249, ovf := bit n 248, value := bits n 0 248 }

/-- The number that a cell is. -/
def Cell.toNat (c : Cell) : Nat :=
  c.wrap * 2 ^ 252 + c.nan.toNat * 2 ^ 251 + c.ninf.toNat * 2 ^ 250 + c.pinf.toNat * 2 ^ 249 + c.ovf.toNat * 2 ^ 248 + c.value

/-- VALUE as a signed number. -/
def Cell.signed (c : Cell) : Int := sx 248 c.value

/-- XADD of a value (R102). -/
def Cell.add (c : Cell) (x : Fp.Val) : Cell :=
  match x with
  | .nan _ => { c with nan := true }
  | .inf neg => if neg then { c with ninf := true } else { c with pinf := true }
  | .fin neg m e =>
    if m != 0 && 97 ≤ Fp.topExp m e then { c with ovf := true }
    else
      let u : Int := if m == 0 then 0 else (Fp.shiftNat m (e + 149) : Nat)
      let v := c.signed + (if neg then -u else u)
      { c with
        wrap := ((c.wrap + (v + 2 ^ 247) / 2 ^ 248) % 16).toNat
        value := Sys2Proof.Machine.wrap 248 v }

/-- XRD: the value and the flags (R103). -/
def Cell.read (c : Cell) (mode : Nat) : Word × Flags :=
  if c.nan then (0x7FC00000, 0)
  else if c.pinf && c.ninf then (0x7FC00000, Fp.fInvalid)
  else if c.pinf then (0x7F800000, 0)
  else if c.ninf then (0xFF800000, 0)
  else if c.ovf || c.wrap != 0 then (0x7FC00001, Fp.fInvalid)
  else if c.signed == 0 then (0, 0)
  else
    let v := c.signed
    let r := Fp.roundVal Fp.fp32 mode 0 (.fin (v < 0) v.natAbs (-149))
    (BitVec.ofNat 32 r.1, r.2)

/-- The accesses of the executing lanes to exact cells. -/
def Ctx.cellAccs (c : Ctx) (s : State) (x : XF) (exec : Mask) : List LaneAcc :=
  (lanesOf c.n exec).map (fun l =>
    ({ lane := l, addr := (c.read64 x.a 0 0 l).toNat, locs := c.atomPlace s (c.read64 x.a 0 0 l) 32 false } : LaneAcc))

/-- The value that XADD adds: FP32, or element 0 of B after BSUB in FP16 or BF16 (R243). -/
def Ctx.cellInput (c : Ctx) (x : XF) (l : Nat) : Fp.Val :=
  let g := (sigOf 0x0A 0x01 x).getD { segs := [] }
  let w := (c.opB g x l).toNat
  match bits x.f.toNat 0 2 with
  | 0 => Fp.decode Fp.fp32 w
  | 1 => Fp.decode Fp.fp16 (bits w 0 16)
  | _ => Fp.decode Fp.bf16 (bits w 0 16)

/-- XADD and XCLR: one step on each lane's cell. -/
def cellPlan (x : XF) (f : Ctx → Nat → Nat → Nat) (c : Ctx) (s : State) : Plan :=
  let exec := c.exec x.mask.toNat
  let as := c.cellAccs s x exec
  let (s1, _) := atomLanes (teamOf c.ref) (fun l old => leBytes (f c l (leNat old)) 32) as
    (s.flushFor c.ref (as.flatMap LaneAcc.get)) []
  { mem := memCheck (accErrs as)
    hold := (c.counterHold .st).orElse (fun _ => s.chanHold (as.flatMap LaneAcc.get))
    effect := c.advance ((c.addStep (bits x.f.toNat 4 3) (anyRemote as) s1).irrevocable (teamOf c.ref)) }

def planXadd (x : XF) : Ctx → State → Plan := cellPlan x (fun c l old => ((Cell.ofNat old).add (c.cellInput x l)).toNat)
def planXclr (x : XF) : Ctx → State → Plan := cellPlan x (fun _ _ _ => 0)

/-- XRD. -/
def planXrd (x : XF) (c : Ctx) (s : State) : Plan :=
  let exec := c.exec x.mask.toNat
  let as := c.cellAccs s x exec
  let s1 := s.flushFor c.ref (as.flatMap LaneAcc.get)
  let vals := as.map (fun a => (a.lane, (Cell.ofNat (leNat (a.get.map s1.readLoc))).read x.round.toNat,
    a.get.findSome? (s.poisonFor c.group)))
  let zero := if x.wmode == 2 then (lanesOf c.n (c.path.mask &&& ~~~exec)).map (fun l => (l, (0 : Word), (none : Option Nat))) else []
  let ds := if clsOf x.d == .vz then [] else [Deliver.lanes x.d (vals.map (fun v => (v.1, v.2.1.1, v.2.2)) ++ zero)]
  { shape := c.atomShape x.d
    partialMask := c.partialFault x.d x.wmode.toNat exec
    mem := memCheck (accErrs as)
    hold := (c.counterHold .ld).orElse (fun _ => s.chanHold (as.flatMap LaneAcc.get))
    effect := c.advance (((c.addLd ds s1 (anyRemote as) (srcs := wordSrcs [x.d] as)).addFlags c.ref (orFlags (vals.map (fun v => v.2.1.2)))).irrevocable
      (teamOf c.ref)) }

/-! ## Meanings -/

def execAtom (x : XF) (s : State) : Out := runX 0x0A 0x00 x (planAtom x) s
def execXadd (x : XF) (s : State) : Out := runX 0x0A 0x01 x (planXadd x) s
def execXrd (x : XF) (s : State) : Out := runX 0x0A 0x02 x (planXrd x) s
def execXclr (x : XF) (s : State) : Out := runX 0x0A 0x03 x (planXclr x) s

end Sys2Proof.Machine
end

