-- ==== Sys2Proof/Machine/Sync.lean ====
section
/-! DEFINITION. The SYNC family (10 R244 to R249; 05 R117 to R121, R139; 21 R388). -/

namespace Sys2Proof.Machine

/-! ## Objects as operands -/

/-- A SYNC step on an object: its key and what it holds, with the checks of the address (R119, R232, R336). -/
structure ObjAcc where
  addr : Dword
  locs : Except LocErr (List Loc)
  obj : SyncObj

/-- The object that a pair names, read once for the group over some lanes; the issuing group's own earlier stores to its
sector come first. -/
def Ctx.objAcc (c : Ctx) (s : State) (code : Byte) (lanes : Mask) : ObjAcc :=
  let va := c.read64 code 0 0 (lowLane lanes)
  let locs := c.atomPlace s va 32 false
  let obj := match locs with
    | .ok ls => SyncObj.read (fun off n => leNat (((ls.drop off).take n).map (s.readFor c.group)))
    | .error _ => SyncObj.read (fun _ _ => 0)
  { addr := va, locs := locs, obj := obj }

/-- A fault of a SYNC step: it names the live lanes of the path and the object (Table 19.1). -/
def Ctx.syncFault (c : Ctx) (a : ObjAcc) (code inner : Nat) : FaultInfo :=
  { code := code, inner := inner, address := a.addr, lanes := c.path.mask }

/-- SYNC_KIND with the KIND field found. -/
def Ctx.kindFault (c : Ctx) (a : ObjAcc) : FaultInfo := c.syncFault a 0x25 a.obj.kind

/-- The checks of an object's address, then of the step. -/
def Ctx.objCheck (c : Ctx) (a : ObjAcc) (step : Option FaultInfo) : MemCheck :=
  match a.locs with
  | .error e => memCheck (c.sharedErr c.path.mask a.addr.toNat e)
  | .ok _ => match step with
    | some f => .fault f
    | none => .ok

/-- A step on an object whose channel is not ready waits (R347). -/
def ObjAcc.hold (a : ObjAcc) (s : State) : Option Hold :=
  match a.locs with
  | .ok ls => s.chanHold ls
  | .error _ => none

/-- Replaces an object in one step, after the group's earlier stores to its sector, and re-tests the groups stopped on it
(R244). DEDUCED, log entry 12. -/
def Ctx.putObj (c : Ctx) (a : ObjAcc) (o : SyncObj) (s : State) : State :=
  match a.locs with
  | .error _ => s
  | .ok ls => (s.flushFor c.ref ls).atomStep (teamOf c.ref) ls o.bytes

/-- *self* of R245. -/
def Ctx.self (c : Ctx) : Nat := ownerWord c.core c.ref.part c.ref.grp

/-- Writes a status or token, tag U. -/
def State.putS (s : State) (g : GroupRef) (code : Byte) (v : Word) : State :=
  s.modGroup g (fun x => x.setReg code ((x.reg code).writeWhole { tag := .u, base := v }))

/-- A lock or an event. -/
def SyncObj.lockOrEvent (o : SyncObj) : Bool := o.clean && (o.type == 1 || o.type == 2)
/-- A barrier. -/
def SyncObj.barrier (o : SyncObj) : Bool := o.clean && o.type == 3

/-! ## Owned locks (R388) -/

/-- A lock is taken: it joins the team's list while there is room. -/
def Team.addLock (t : Team) (o : Dword) : Team :=
  t.modCur (fun c => if c.locks.length < 20 then { c with locks := c.locks ++ [o] } else { c with unlisted := c.unlisted + 1 })

/-- A lock is released. -/
def Team.dropLock (t : Team) (o : Dword) : Team :=
  t.modCur (fun c => if c.locks.contains o then { c with locks := c.locks.erase o } else { c with unlisted := c.unlisted - 1 })

/-! ## BIND and UNBIND -/

/-- BIND and UNBIND refuse a held lock and a barrier in mid-phase, and reserved bits. -/
def SyncObj.busy (o : SyncObj) : Bool := !o.clean || (o.type == 1 && o.owned) || (o.type == 3 && o.arrived != 0)

/-- BIND. -/
def planBind (x : XF) (c : Ctx) (s : State) : Plan :=
  let p := c.path.mask
  let l := lowLane p
  let a := c.objAcc s x.a p
  let base := c.read64 x.b 0 0 l
  let len := (c.opC x l).toNat
  let o := { a.obj with
    base := base.toNat, len := len, kind := bits x.f.toNat 0 2, owner := 0, expected := 0, arrived := 0, droppend := 0 }
  { uniform := c.uniformOps p ([(x.a, true), (x.b, true)] ++ (if c.immC.isSome then [] else [(x.c, false)]))
    mem := if base.toNat % 32 != 0 && (match a.locs with
        | .error e => e.code != 0x22
        | .ok _ => true) then
        .fault { code := 0x22, inner := 32, address := base, lanes := p }
      else c.objCheck a (if a.obj.busy then some (c.kindFault a) else none)
    hold := a.hold s
    effect := c.advance ((c.putObj a o s).irrevocable (teamOf c.ref)) }

/-- UNBIND. -/
def planUnbind (x : XF) (c : Ctx) (s : State) : Plan :=
  let p := c.path.mask
  let a := c.objAcc s x.a p
  let o := { a.obj with base := 0, len := 0, kind := 0, owner := 0, expected := 0, arrived := 0, droppend := 0 }
  { uniform := c.uniformOps p [(x.a, true)]
    mem := c.objCheck a (if a.obj.busy then some (c.kindFault a) else none)
    hold := a.hold s
    effect := c.advance ((c.putObj a o s).irrevocable (teamOf c.ref)) }

/-! ## ACQ, TRYACQ, REL, FENCE -/

/-- The outcome of an acquire on an object: a status, or none where it would stop; the second says that ownership is
taken. DEDUCED, log entry 40. -/
def acqOutcome (o : SyncObj) (self : Nat) (g : Word) : Option Nat × Bool :=
  if o.type == 1 then
    if o.owner == self then (some 3, false)
    else if !o.owned then (some 0, true)
    else if o.parkedOwner then (some 1, false)
    else (none, false)
  else if genReached o.gen g then (some 0, false) else (none, false)

/-- ACQ. DEDUCED, log entry 40. -/
def planAcq (x : XF) (c : Ctx) (s : State) : Plan :=
  let p := c.path.mask
  let a := c.objAcc s x.a p
  let g := c.read x.b (lowLane p)
  let (status, take) := acqOutcome a.obj c.self g
  let stops := status.isNone
  let s1 := if take then (c.putObj a { a.obj with owner := c.self } s).modTeam (teamOf c.ref) (fun t => t.addLock a.addr) else s
  { range := if stops && a.obj.lockOrEvent then c.succOperand x.d 0 16 else none
    uniform := c.uniformOps p [(x.a, true), (x.b, false)]
    baton := if stops && a.obj.lockOrEvent then c.succBaton x.d false else none
    mem := c.objCheck a (if a.obj.lockOrEvent then none else some (c.kindFault a))
    hold := a.hold s
    effect := match status with
      | some v => c.advance ((s1.putS c.ref x.c (BitVec.ofNat 32 v)).irrevocable (teamOf c.ref))
      | none => c.stopAt (.acq a.addr g x.c) x.d s }

/-- TRYACQ: status 4 where ACQ would stop. DEDUCED, log entry 40. -/
def planTryacq (x : XF) (c : Ctx) (s : State) : Plan :=
  let p := c.path.mask
  let a := c.objAcc s x.a p
  let (status, take) := acqOutcome a.obj c.self (c.read x.b (lowLane p))
  let s1 := if take then (c.putObj a { a.obj with owner := c.self } s).modTeam (teamOf c.ref) (fun t => t.addLock a.addr) else s
  let s2 := c.advance (s1.putS c.ref x.d (BitVec.ofNat 32 (status.getD 4)))
  { uniform := c.uniformOps p [(x.a, true), (x.b, false)]
    mem := c.objCheck a (if a.obj.lockOrEvent then none else some (c.kindFault a))
    hold := a.hold s
    effect := if status == some 0 then s2.irrevocable (teamOf c.ref) else s2 }

/-- A release waits until the group's earlier accesses are performed (R139). DEDUCED, log entry 14. -/
def Ctx.relHold (c : Ctx) (k : ReleaseKind) (x : XF) : Option Hold := if c.group.quiet then none else some (.release k x)

/-- REL. Its step, with its faults, comes when the earlier accesses are performed. -/
def planRel (x : XF) (c : Ctx) (s : State) : Plan :=
  let p := c.path.mask
  let a := c.objAcc s x.a p
  let lock := a.obj.type == 1
  let bad := if !a.obj.lockOrEvent then some (c.kindFault a)
    else if lock && a.obj.owner != c.self then some (c.syncFault a 0x26 (if a.obj.owned then 1 else 0)) else none
  let o := { a.obj with
    gen := a.obj.gen + 1
    owner := if lock then 0 else a.obj.owner
    kind := if lock then a.obj.kind - (if a.obj.parkedOwner then 8 else 0) else a.obj.kind }
  let s1 := c.putObj a o s
  let s2 := if lock then s1.modTeam (teamOf c.ref) (fun t => t.dropLock a.addr) else s1
  { uniform := c.uniformOps p [(x.a, true)]
    mem := c.objCheck a (if c.group.quiet then bad else none)
    hold := (c.relHold .rel x).orElse (fun _ => a.hold s)
    effect := c.advance (s2.irrevocable (teamOf c.ref)) }

/-- FENCE (R246). -/
def planFence (x : XF) (c : Ctx) (s : State) : Plan :=
  { hold := c.relHold .fence x, effect := c.advance (s.irrevocable (teamOf c.ref)) }

/-! ## Barriers (R247, R248) -/

/-- BARINIT. -/
def planBarinit (x : XF) (c : Ctx) (s : State) : Plan :=
  let p := c.path.mask
  let a := c.objAcc s x.a p
  let b := (c.read x.b (lowLane p)).toNat
  let o := { a.obj with expected := b, arrived := 0, droppend := 0, kind := a.obj.kind - (if a.obj.broken then 4 else 0) }
  { uniform := c.uniformOps p [(x.a, true), (x.b, false)]
    range := if b == 0 || 65535 < b then some (c.pathFault 0x02 0) else none
    mem := c.objCheck a (if !a.obj.barrier || a.obj.arrived != 0 then some (c.kindFault a) else none)
    hold := a.hold s
    effect := c.advance ((c.putObj a o s).irrevocable (teamOf c.ref)) }

/-- `arrive` of R247: the new object, and whether the arrival overruns it. EXPECTED and DROPPEND are 16-bit fields. -/
def arrive (o : SyncObj) (n : Nat) (drop : Bool) : SyncObj × Bool :=
  if n == 0 || o.broken then (o, false)
  else if o.expected < o.arrived + n then
    ({ o with kind := o.kind + 4, gen := o.gen + 1, arrived := 0, droppend := 0 }, true)
  else
    let o := { o with arrived := o.arrived + n, droppend := if drop then (o.droppend + n) % 2 ^ 16 else o.droppend }
    if o.arrived == o.expected then
      ({ o with gen := o.gen + 1, arrived := 0, expected := (o.expected + 2 ^ 16 - o.droppend) % 2 ^ 16, droppend := 0 }, false)
    else (o, false)

/-- The group has operations in flight on a tile that it has linked to an object (R130, R275). -/
def Group.linkBusy (g : Group) (o : Dword) : Bool :=
  g.links.any (fun l => l.2 == o && g.tl.any (fun op => !op.done && op.tiles.contains l.1))

/-- BARRIVE and BARDROP. An overrun breaks the object and faults. Where no lane executes the address is read at the lowest
live lane. DEDUCED, log entry 39. -/
def planArrive (kind : ReleaseKind) (drop : Bool) (x : XF) (c : Ctx) (s : State) : Plan :=
  let exec := c.exec x.mask.toNat
  let lanes := if exec == 0 then c.path.mask else exec
  let a := c.objAcc s x.a lanes
  let (o, bad) := arrive a.obj (popMask exec) drop
  let busy := c.group.linkBusy a.addr
  let s1 := c.putObj a o s
  { uniform := c.uniformOps lanes [(x.a, true)]
    mem := c.objCheck a (if (c.group.quiet && !busy) && !a.obj.barrier then some (c.kindFault a) else none)
    hold := if busy then some .retry else (c.relHold kind x).orElse (fun _ => a.hold s)
    effect := if bad then takeFault c { code := 0x27, inner := a.obj.arrived, address := a.addr, lanes := exec } s1
      else c.advance ((s1.putS c.ref x.d a.obj.gen).irrevocable (teamOf c.ref)) }

/-- The status of a BARWAIT that does not stop. -/
def barwaitStatus (o : SyncObj) (token : Word) : Option Nat :=
  if o.broken then some 2 else if phaseDone o.gen token then some 0 else none

/-- BARWAIT. -/
def planBarwait (x : XF) (c : Ctx) (s : State) : Plan :=
  let p := c.path.mask
  let a := c.objAcc s x.a p
  let tok := c.read x.b (lowLane p)
  let status := barwaitStatus a.obj tok
  { range := if status.isNone && a.obj.barrier then c.succOperand x.d 0 16 else none
    uniform := c.uniformOps p [(x.a, true), (x.b, false)]
    baton := if status.isNone && a.obj.barrier then c.succBaton x.d false else none
    mem := c.objCheck a (if a.obj.barrier then none else some (c.kindFault a))
    hold := a.hold s
    effect := match status with
      | some v => c.advance ((s.putS c.ref x.c (BitVec.ofNat 32 v)).irrevocable (teamOf c.ref))
      | none => c.stopAt (.barwait a.addr tok x.c) x.d s }

/-! ## Sync words (R249) -/

/-- The places of a sync word, with the checks of its scratch address. -/
def Ctx.wordPlace (c : Ctx) (s : State) (a : Word) : Except LocErr (List Loc) :=
  if a.toNat % 16 != 0 then .error (alignErr 16) else s.scratchLocs c.launch c.core a.toNat 16

/-- OPERAND of a sync word's address: SKEW must be 0. -/
def Ctx.skewFault (c : Ctx) (a : Word) : Option FaultInfo := if bit a.toNat 20 then some (c.pathFault 0x02 8) else none

/-- SYNCSET. -/
def planSyncset (x : XF) (c : Ctx) (s : State) : Plan :=
  let p := c.path.mask
  let l := lowLane p
  let a := c.read x.a l
  let locs := c.wordPlace s a
  let ls := match locs with
    | .ok k => k
    | .error _ => []
  let bs := leBytes (c.read x.b l).toNat 4 ++ leBytes 0 4 ++ leBytes (c.opC x l).toNat 4 ++ leBytes 0 4
  let uni := c.uniformOps p ([(x.a, false), (x.b, false)] ++ (if c.immC.isSome then [] else [(x.c, false)]))
  { uniform := uni
    range := c.skewFault a
    mem := c.sharedCheck p a.toNat locs
    effect := c.advance ((s.flushFor c.ref ls).atomStep (teamOf c.ref) ls bs) }

/-- SYNCW. -/
def planSyncw (x : XF) (c : Ctx) (s : State) : Plan :=
  let p := c.path.mask
  let a := c.read x.a (lowLane p)
  let g := c.read x.b (lowLane p)
  let locs := c.wordPlace s a
  let ls := match locs with
    | .ok k => k
    | .error _ => []
  let gen : Word := BitVec.ofNat 32 (leNat (((ls.drop 8).take 4).map (s.readFor c.group)))
  let met := genReached gen g
  let uni := c.uniformOps p [(x.a, false), (x.b, false)]
  { uniform := uni
    range := (c.skewFault a).orElse (fun _ => if met then none else c.succOperand x.d 0 16)
    baton := if met then none else c.succBaton x.d false
    mem := c.sharedCheck p a.toNat locs
    data := s.consumeFor c.group c.core ((ls.drop 8).take 4) (a.toNat + 8) p
    effect := if met then c.advance s else c.stopAt (.syncw a g) x.d (s.flushFor c.ref ls) }

/-! ## Meanings -/

def execBind (x : XF) (s : State) : Out := runX 0x0B 0x00 x (planBind x) s
def execUnbind (x : XF) (s : State) : Out := runX 0x0B 0x01 x (planUnbind x) s
def execAcq (x : XF) (s : State) : Out := runX 0x0B 0x02 x (planAcq x) s
def execTryacq (x : XF) (s : State) : Out := runX 0x0B 0x03 x (planTryacq x) s
def execRel (x : XF) (s : State) : Out := runX 0x0B 0x04 x (planRel x) s
def execFence (x : XF) (s : State) : Out := runX 0x0B 0x05 x (planFence x) s
def execBarinit (x : XF) (s : State) : Out := runX 0x0B 0x06 x (planBarinit x) s
def execBarrive (x : XF) (s : State) : Out := runX 0x0B 0x07 x (planArrive .barrive false x) s
def execBardrop (x : XF) (s : State) : Out := runX 0x0B 0x08 x (planArrive .bardrop true x) s
def execBarwait (x : XF) (s : State) : Out := runX 0x0B 0x09 x (planBarwait x) s
def execSyncset (x : XF) (s : State) : Out := runX 0x0B 0x0A x (planSyncset x) s
def execSyncw (x : XF) (s : State) : Out := runX 0x0B 0x0B x (planSyncw x) s

end Sys2Proof.Machine
end

