-- ==== Sys2Proof/Machine/Async.lean ====
section
/-! DEFINITION. The ASYNC family and the copies it starts (10 R250 to R255; 05 R118, R127, R135; 13 R289). -/

namespace Sys2Proof.Machine

/-! ## Endpoints (R250) -/

/-- A copy endpoint that names scratchpad. -/
def isScratchEp (ep : Dword) : Bool := bits ep.toNat 56 8 == 0xFF

/-- A scratch endpoint whose bits [55:32] or [31:28] are not zero is OPERAND. -/
def badEp (ep : Dword) : Bool := isScratchEp ep && (bits ep.toNat 32 24 != 0 || bits ep.toNat 28 4 != 0)

/-- The address `off` bytes beyond an endpoint: modulo 2^64, or on OFFSET with the other fields kept; none when the sum
leaves OFFSET. -/
def epAt (ep : Dword) (off : Nat) : Option Nat :=
  if isScratchEp ep then
    let a := bits ep.toNat 0 32
    let o := bits a 0 20 + off
    if 2 ^ 20 ≤ o then none else some (a - bits a 0 20 + o)
  else some ((ep.toNat + off) % 2 ^ 64)

/-- The address that a fault names of a byte of an endpoint; one beyond OFFSET has that of the endpoint. -/
def epAddr (ep : Dword) (off : Nat) : Nat := (epAt ep off).getD (bits ep.toNat 0 32)

/-- The places of `n` bytes from an endpoint on, with the rights they need. -/
def State.epLocs (s : State) (l : Launch) (core : Nat) (ep : Dword) (off n need : Nat) : Except LocErr (List Loc) :=
  match epAt ep off with
  | none => .error { code := 0x23, inner := 4 }
  | some a =>
    if isScratchEp ep then s.scratchLocs l core a n
    else (List.range n).foldl (fun r i =>
      match r with
      | .error e => .error e
      | .ok ls => match s.vaLoc l ((a + i) % 2 ^ 64) 1 need with
        | .error e => .error e
        | .ok p => .ok (ls ++ [p])) (.ok [])

/-- The error of `n` bytes from an endpoint on, with the address that it names: of translated memory that of the first
byte that meets it (Table 19.1). -/
def State.epErr (s : State) (l : Launch) (core : Nat) (ep : Dword) (off n need : Nat) : Option (Nat × LocErr) :=
  match s.epLocs l core ep off n need with
  | .ok _ => none
  | .error e =>
    let i := if isScratchEp ep then 0
      else ((List.range n).find? (fun i => match s.epLocs l core ep (off + i) 1 need with
        | .error _ => true
        | .ok _ => false)).getD 0
    some (epAddr ep (off + i), e)

/-- The places of an endpoint, none when it has an error. -/
def State.epPlaces (s : State) (l : Launch) (core : Nat) (ep : Dword) (off n need : Nat) : List Loc :=
  match s.epLocs l core ep off n need with
  | .ok ls => ls
  | .error _ => []

/-! ## Runs and units (R251, R118) -/

/-- Bytes of an element of GATHER and SCATTER. -/
def Copy.elem (k : Copy) : Nat := 2 ^ bits k.f.toNat 5 2

def Copy.twoD (k : Copy) : Bool := k.func == 0 && bit k.f.toNat 4
def Copy.multi (k : Copy) : Bool := k.func == 0 && bit k.f.toNat 2
def Copy.queue (k : Copy) : Nat := bits k.f.toNat 0 2

/-- The number of runs of a copy. -/
def Copy.runs (k : Copy) : Nat :=
  if k.func == 0 then (if k.twoD then bits k.lit.toNat 0 16 else 1) else popMask k.set

/-- Bytes of a run. -/
def Copy.runLen (k : Copy) : Nat := if k.func == 0 then k.bytes else k.elem

/-- Bytes of a copy; a multicast to no core moves none (R252). -/
def Copy.total (k : Copy) : Nat := if k.multi && k.set == 0 then 0 else k.runs * k.runLen

/-- The offsets of run `i` from the source and from the destination (Table 10.8). -/
def Copy.runAt (k : Copy) (i : Nat) : Nat × Nat :=
  if k.func == 0 then (if k.twoD then (i * bits k.lit.toNat 16 24, i * bits k.lit.toNat 40 24) else (0, 0))
  else
    let l := (lanesOf 64 k.set).getD i 0
    let ix := k.idx.getD l 0 * k.elem
    if k.func == 1 then (ix, l * k.elem) else (l * k.elem, ix)

/-- The offsets of byte `n` of a copy from its source and its destination. -/
def Copy.byteAt (k : Copy) (n : Nat) : Nat × Nat :=
  let r := k.runAt (n / k.runLen)
  (r.1 + n % k.runLen, r.2 + n % k.runLen)

/-- The length of the unit at byte `n`: within its run, and within one 32-byte sector of the destination address.
DEDUCED, log entry 17. -/
def Copy.unitLen (k : Copy) (n : Nat) : Nat :=
  let a := (epAt k.dst (k.byteAt n).2).getD 0
  min (k.runLen - n % k.runLen) (32 - a % 32)

/-- The destination endpoints of a copy, one for each core of a multicast. -/
def Copy.dests (k : Copy) : List Dword :=
  if k.multi then (lanesOf 64 k.set).map (fun i => k.dst ||| BitVec.ofNat 64 (2 ^ 27 + i * 2 ^ 21)) else [k.dst]

/-- The sync words that a unit's bytes count in, one for each destination: a multicast takes only the offset of the word,
with SKEW, and counts in each core of its set (R252). -/
def Copy.words (k : Copy) : List Word :=
  match k.sync with
  | none => []
  | some w =>
    if k.multi then (lanesOf 64 k.set).map (fun i => BitVec.ofNat 32 (bits w.toNat 28 4 * 2 ^ 28 + 2 ^ 27 + i * 2 ^ 21 + bits w.toNat 0 21))
    else [w]

/-- The core of a copy's issuer. -/
def Team.copyCore (t : Team) (k : Copy) : Nat := t.coreOf k.part

/-- The group that issued a copy. -/
def Team.copyGroup (t : Team) (k : Copy) : GroupRef :=
  { launch := t.ref.launch, team := t.ref.team, part := k.part, grp := k.grp }

/-- Destination places of `count` bytes of a copy from byte `n` on, as far as they have one. -/
def State.destsIn (s : State) (l : Launch) (t : Team) (k : Copy) (n count : Nat) : List Loc :=
  (List.range count).flatMap (fun i => k.dests.flatMap (fun ep => s.epPlaces l (t.copyCore k) ep (k.byteAt (n + i)).2 1 2))

/-- Destination places of the bytes of a copy from byte `n` on. -/
def State.destsFrom (s : State) (l : Launch) (t : Team) (k : Copy) (n : Nat) : List Loc := s.destsIn l t k n (k.total - n)

/-- The places of the sync words of a copy, as far as they have one. -/
def State.syncLocs (s : State) (l : Launch) (t : Team) (k : Copy) : List Loc :=
  k.words.flatMap (fun w => match s.scratchLocs l (t.copyCore k) w.toNat 16 with
    | .ok ls => ls
    | .error _ => [])

/-- The other teams in which `count` bytes of a copy from byte `n` on are written or counted (R136). -/
def State.reaches (s : State) (l : Launch) (t : Team) (k : Copy) (n count : Nat) : List TeamRef :=
  if count == 0 then []
  else dedup ((s.destsIn l t k n count ++ s.syncLocs l t k).filterMap (fun p => p.space.owner.filter (fun o => o != t.ref)))

/-- A multicast set names a core that is not the team's (R252). -/
def Team.setOut (t : Team) (k : Copy) : Bool :=
  k.multi && (lanesOf 64 k.set).any (fun i =>
    let c := 64 * clusterOf t.core + i
    !(c == t.core || (t.pair && c == t.core + 1)))

/-- A place makes a copy outbound: another team's state, or memory of type system (R135). -/
def Loc.outward (p : Loc) (t : TeamRef) : Bool :=
  p.system || (match p.space.owner with
    | some o => o ≠ t
    | none => false)

/-- A copy is outbound by a destination byte, by its sync word or by its core set (R135, R252). DEDUCED, log entry 57. -/
def State.copyOutbound (s : State) (l : Launch) (t : Team) (k : Copy) : Bool :=
  t.setOut k || (s.destsFrom l t k 0).any (fun p => p.outward t.ref) || (s.syncLocs l t k).any (fun p => p.outward t.ref)

/-! ## Issue (R251 to R254) -/

/-- The copies that a fence puts before a new entry of a queue. -/
def TeamState.fenced (c : TeamState) (q : Nat) : List Nat :=
  (lookupD c.fences q []).filter (fun i => c.copies.any (fun k => k.id == i))

/-- A copy joins its queue and takes a CP credit; one of no bytes completes at once, and the camp of an outbound one falls due
(R135, R252). -/
def Ctx.addCopy (c : Ctx) (k : Copy) (s : State) : State :=
  let id := c.team.cur.nextCopy
  let seq := c.group.nextSeq
  let k := { k with
    id := id, seq := seq, outbound := s.copyOutbound c.launch c.team k, after := c.team.cur.fenced k.queue, since := s.hostClk }
  let s := s.modGroup c.ref (fun g => { g with
    cp := g.cp ++ [{ seq := seq, pc := c.pc, copy := id, done := k.total == 0 }], nextSeq := seq + 1 })
  let s := s.modTeam (teamOf c.ref) (fun t => t.modCur (fun u => { u with
    nextCopy := id + 1, copies := if k.total == 0 then u.copies else u.copies ++ [k] }))
  if k.total == 0 && k.outbound then s.irrevocable (teamOf c.ref) else s

/-- The sync word of a copy: ALIGN and OPERAND at issue. -/
def Ctx.swAlign (c : Ctx) (sw : Option Word) : MemCheck :=
  match sw with
  | some w => if w.toNat % 16 != 0 then memCheck (c.sharedErr c.path.mask w.toNat (alignErr 16)) else .ok
  | none => .ok

/-- OPERAND of the endpoints and the sync word (R250). -/
def Ctx.copyRange (c : Ctx) (dst src : Dword) (sw : Option Word) : Option FaultInfo :=
  if (sw.map (fun w => bit w.toNat 20)).getD false then some (c.pathFault 0x02 16)
  else if badEp dst then some (c.pathFault 0x02 8)
  else if badEp src then some (c.pathFault 0x02 0) else none

/-- The core-set pair of a multicast. -/
def mcCode (x : XF) : Byte := 0xA0 + BitVec.ofNat 8 (2 * x.mask.toNat)

/-- BCOPY. `x0` still holds the MASK field, which names the core-set pair. -/
def planBcopy (x0 x : XF) (c : Ctx) (s : State) : Plan :=
  let p := c.path.mask
  let l := lowLane p
  let f := x.f.toNat
  let mc := bit f 2
  let sw := if bit f 3 then some (c.read x.d l) else none
  let k : Copy :=
    { id := 0, seq := 0, pc := c.pc, func := 0, f := x.f, part := c.ref.part, grp := c.ref.grp, sync := sw
      dst := c.read64 x.a 0 0 l, src := c.read64 x.b 0 0 l, bytes := (c.opC x l).toNat
      lit := if bit f 4 then x.lit.getD 0 else 0, set := if mc then c.read64 (mcCode x0) 0 0 0 else 0, idx := [] }
  let mcBad := mc && (!isScratchEp k.dst || bits k.dst.toNat 21 7 != 0)
  { operand := if mc && c.launch.desc.ns < 2 * x0.mask.toNat + 2 then some (c.pathFault 0x02 (512 + 14)) else none
    codes := if mc then [mcCode x0, mcCode x0 + 1] else []
    uniform := c.uniformOps p ((if bit f 3 then [(x.d, false)] else []) ++ [(x.a, true), (x.b, true)]
      ++ (if c.immC.isSome then [] else [(x.c, false)]))
    range := (c.copyRange k.dst k.src sw).orElse (fun _ => if mcBad then some (c.pathFault 0x02 8) else none)
    mem := c.swAlign sw
    data := if mc && (c.poisoned (mcCode x0) 0 0 0 || c.poisoned (mcCode x0 + 1) 0 0 0) then
      some (c.poisonFault (if c.poisoned (mcCode x0) 0 0 0 then mcCode x0 else mcCode x0 + 1) 0 p) else none
    hold := c.counterHold .cp
    effect := c.advance (c.addCopy k s) }

/-- GATHER (1) and SCATTER (2). -/
def planIndexed (func : Nat) (x : XF) (c : Ctx) (s : State) : Plan :=
  let exec := c.exec x.mask.toNat
  let p := if exec == 0 then c.path.mask else exec
  let l := lowLane p
  let sw := if bit x.f.toNat 3 then some (c.read x.d l) else none
  let k : Copy :=
    { id := 0, seq := 0, pc := c.pc, func := func, f := x.f, part := c.ref.part, grp := c.ref.grp, sync := sw
      dst := c.read64 x.a 0 0 l, src := c.read64 x.b 0 0 l, bytes := 0, lit := 0, set := exec
      idx := (List.range 64).map (fun i => if laneBit exec i then (c.opC x i).toNat else 0) }
  { uniform := c.uniformOps p ((if bit x.f.toNat 3 then [(x.d, false)] else []) ++ [(x.a, true), (x.b, true)])
    range := c.copyRange k.dst k.src sw
    mem := c.swAlign sw
    hold := c.counterHold .cp
    effect := c.advance (c.addCopy k s) }

/-- QFENCE: later entries of the named queues start after the earlier entries of them have completed (R127, R253). -/
def planQfence (x : XF) (c : Ctx) (s : State) : Plan :=
  let named := (List.range 4).filter (fun q => bit x.f.toNat q)
  { effect := c.advance (s.modTeam (teamOf c.ref) (fun t => t.modCur (fun u =>
      let ids := (u.copies.filter (fun k => named.contains k.queue)).map (·.id)
      { u with fences := named.foldl (fun fs q => insertKey fs q (dedup (lookupD fs q [] ++ ids))) u.fences }))) }

def execBcopy (x : XF) (s : State) : Out :=
  let x1 : XF := if bit x.f.toNat 2 then { x with mask := 0 } else x
  runOp { opX 0x0C 0x00 x with x := x1 } (planBcopy x x1) s

def execGather (x : XF) (s : State) : Out := runX 0x0C 0x01 x (planIndexed 1 x) s
def execScatter (x : XF) (s : State) : Out := runX 0x0C 0x02 x (planIndexed 2 x) s
def execQfence (x : XF) (s : State) : Out := runX 0x0C 0x03 x (planQfence x) s

/-! ## Delivering a unit -/

/-- Applies a function to one copy of a team. -/
def State.modCopy (s : State) (t : TeamRef) (id : Nat) (f : Copy → Copy) : State :=
  s.modTeam t (fun m => m.modCur (fun u => { u with copies := u.copies.map (fun k => if k.id = id then f k else k) }))

/-- A copy of a team. -/
def Team.copy? (t : Team) (id : Nat) : Option Copy := t.cur.copies.find? (fun k => k.id == id)

/-- The issuer's earlier stores are performed (R127). -/
def Team.storesDone (t : Team) (k : Copy) : Bool :=
  match t.group? k.part k.grp with
  | none => true
  | some g => g.st.all (fun o => o.done || k.seq < o.seq)

/-- A copy may start: the entries ahead of it in its queue have started, and those that a QFENCE puts before it are
complete (R127, R253). DEDUCED, log entry 17. -/
def Team.mayStart (t : Team) (k : Copy) : Bool :=
  t.cur.copies.all (fun e => !(e.queue == k.queue && e.id < k.id) || e.started)
    && k.after.all (fun i => !t.cur.copies.any (fun e => e.id == i)) && t.storesDone k

/-- A unit waits for an earlier entry of its queue that will still write one of its bytes (R127).
DEDUCED, log entry 17. -/
def State.unitBlocked (s : State) (l : Launch) (t : Team) (k : Copy) (ls : List Loc) : Bool :=
  t.cur.copies.any (fun e => e.queue == k.queue && e.id < k.id && e.fail.isNone
    && (s.destsFrom l t e e.delivered).any (fun p => ls.contains p))

/-- A launch has had a team on the core that an address names: those of its clusters (R26). -/
def Launch.hadTeam (l : Launch) (addr : Nat) : Bool :=
  !isWindow addr || (bits addr 32 20 < 512 && l.clu.getLsbD (clusterOf (bits addr 32 20)))

/-- The core that a window address, or a scratch address of a core, names. -/
def namedCore (core a : Nat) : Nat := if isWindow a then bits a 32 20 else scratchCore core a

/-- A reclaim of borrowed slots has saved the team of a launch that a core had (R320). -/
def State.reclaimedFrom (s : State) (l : Launch) (core : Nat) : Bool :=
  l.savedBy == 9 && s.teams.any (fun t => t.ref.launch == l.num && t.saved && (t.core == core || (t.pair && t.core + 1 == core)))

/-- The fault of a copy or engine operation of a core from the error of a place. `dest` is the endpoint of the unit or row of
an MST that names a team's state: a team of the launch that is not on its core has retired, or has been saved by a reclaim
(R376); one in a scratchpad is named as an endpoint (R250). DEDUCED, log entry 46. -/
def State.asyncInfo (s : State) (l : Launch) (core addr : Nat) (dest : Option Nat) (e : LocErr) : FaultInfo :=
  match dest with
  | some d =>
    if e.code == 0x23 && e.inner == 1 && l.hadTeam addr then
      { code := 0x29, inner := (s.reclaimedFrom l (namedCore core addr)).toNat
        address := BitVec.ofNat 64 (if isWindow d then d else 0xFF * 2 ^ 56 + d) }
    else { code := e.code, inner := e.inner, address := BitVec.ofNat 64 addr }
  | none => { code := e.code, inner := e.inner, address := BitVec.ofNat 64 addr }

/-- The first error of some, in the order of R373, with the endpoint that it concerns; a walk that waits for a channel comes
before them (R347). DEDUCED, log entry 46. -/
def firstErr (es : List (Nat × Option Nat × LocErr)) : Option (Nat × Option Nat × LocErr) :=
  es.foldl (fun r e => match r with
    | none => some e
    | some b => if !b.2.2.wait && (e.2.2.wait || decide (memRank e.2.2.code < memRank b.2.2.code)) then some e else some b) none

/-- `arrive` of R118: the new TARGET, COUNT and GEN of a sync word, and the INNER of SYNCWORD_OVERRUN. -/
def swArrive (target count : Nat) (gen : Word) (n : Nat) : (Nat × Word) × Option Nat :=
  if target == 0 then ((count, gen), some (2 ^ 15 + n))
  else if count + n < target then ((count + n, gen), none)
  else ((0, gen + 1), if target < count + n then some (count + n - target) else none)

/-- Counts a unit's bytes in a sync word: the bytes of the word to write and the overrun. -/
def State.swStep (s : State) (ls : List Loc) (n : Nat) : List StoreByte × Option Nat :=
  let le := fun (off : Nat) => leNat (((ls.drop off).take 4).map s.readLoc)
  let (r, over_) := swArrive (le 0) (le 4) (BitVec.ofNat 32 (le 8)) n
  (bytesAt ((ls.drop 4).take 8) (leBytes r.1 4 ++ leBytes r.2.toNat 4), over_)

/-- A copy stops with a failure (R254). The teams that it has written in without its last unit into them have received it
(R136). -/
def State.failCopy (s : State) (t : TeamRef) (id : Nat) (f : FaultInfo) : State :=
  let left := match s.team? t, s.launch? t.launch with
    | some m, some l => ((m.copy? id).map (fun k =>
        (s.reaches l m k 0 k.delivered).filter (s.reaches l m k k.delivered (k.total - k.delivered)).contains)).getD []
    | _, _ => []
  left.foldl State.received (s.modCopy t id (fun k => { k with started := true, fail := some f, replay := none }))

/-- A replayable translation failure of a copy writes its record once and waits (R374). DEDUCED, log entry 52. -/
def State.replayCopy (s : State) (t : Team) (k : Copy) (addr level : Nat) : State :=
  let info : FaultInfo := { code := 0x20, inner := level + 256, address := BitVec.ofNat 64 addr }
  (s.putRecord { recordOf t (t.copyGroup k) k.pc info with unit := .copy }).modCopy t.ref k.id (fun k => { k with
    started := true, replay := some { clk := s.clk (t.copyCore k), va := BitVec.ofNat 64 addr, level := level } })

/-- Whether an error cannot be corrected; the L1 data cache always refetches (Table 19.2).
DESIGN CHOICE, log entry 77. -/
def uncorrected (e : DataErr) : Bool := e.fatal && e.mech != 6

/-- Counts an error on its unit (R381): the channel of the physical address, a cluster, the core of a register, scratchpad or
tile, or the core whose access met it. -/
def State.countErr (s : State) (core : Nat) (e : DataErr) : State :=
  let f := uncorrected e
  if e.mech == 8 then
    let ch := chanOf e.loc.toNat
    let (s, q) := s.takeChanSeq ch
    s.countError 8 ch f e.loc (lookupD s.chanClk ch 0) q
  else if e.mech == 7 then
    let (s, q) := s.takeCluSeq e.unit
    s.countError 7 e.unit f e.loc (s.clocks.getD e.unit 0) q
  else s.coreError e.mech (if e.mech ≤ 5 then e.unit else core) f e.loc

/-- The error that an access of a team met is counted, and one that cannot be corrected poisons the place that it lies at
or spoils the team's undo log; poisoned data that a link brings is counted (R379, R380, R382).
DESIGN CHOICE, log entry 77. -/
def State.noteErr (s : State) (t : TeamRef) (core : Nat) (e : DataErr) : State :=
  let s := s.countErr core e
  if !uncorrected e || 16 ≤ e.mech then s
  else if e.mech == 9 then s.modTeam t (fun m => { m with logBad := true })
  else match s.errPlace t.launch e with
    | some p => s.markUnit p.space p.addr (some 0)
    | none => s

/-- The fault of an access from a core to places that stand at rising addresses from `va` on, when an error that cannot be
corrected lies at one of them (R380). DESIGN CHOICE, log entry 77. -/
def State.errFault (s : State) (launch core : Nat) (ls : List Loc) (va : Nat) (e : DataErr) : Option FaultInfo :=
  if !uncorrected e then none
  else match s.errPlace launch e with
    | none => none
    | some p =>
      if ls.any (fun l => l.sameUnit p) then
        some { code := (if 16 ≤ e.mech then 0x31 else 0x30), inner := e.mech, address := BitVec.ofNat 64 (s.errAddr launch core ls va e) }
      else none

/-- Writes a unit and counts it, in one step for each destination. A team receives an inbound copy with the last unit into it; a
window write to a register is foreign. -/
def State.putUnit (s : State) (l : Launch) (t : Team) (k : Copy) (n : Nat) (vs : List Byte) : State × Option FaultInfo :=
  let core := t.copyCore k
  let later := s.reaches l t k (k.delivered + n) (k.total - (k.delivered + n))
  let places := k.dests.map (fun ep => s.epPlaces l core ep (k.byteAt k.delivered).2 n 2)
  let swLocs := k.words.map (fun w => (w, match s.scratchLocs l core w.toNat 16 with
    | .ok ls => ls
    | .error _ => []))
  let one := fun (r : State × Option FaultInfo) (i : Nat) =>
    let s : State := r.1
    let ls : List Loc := places.getD i []
    let bs : List StoreByte := bytesAt ls vs
    let x : List StoreByte × Option FaultInfo := match swLocs[i]? with
      | none => ([], none)
      | some e =>
        -- the unit's bytes come first, so a word that the unit itself overwrites is counted as it then stands
        let s1 := bs.foldl State.writeLoc s
        let w := s1.swStep e.2 n
        (w.1, w.2.map (fun x => ({ code := 0x28, inner := x, address := e.1.zeroExtend 64 } : FaultInfo)))
    let sb : List StoreByte := x.1
    let f := x.2
    let all : List StoreByte := bs.filter (fun b => !sb.any (fun d => d.space = b.space && d.addr == b.addr)) ++ sb
    let regs := all.filter (fun (b : StoreByte) => match b.space with
      | .reg _ => true
      | _ => false)
    let s := s.applyBytes (some t.ref) all
    let s := ((receivers (some t.ref) all).filter (fun r =>
      !later.contains r || (receivers (some t.ref) regs).contains r)).foldl State.received s
    let s := if regs.any (fun (b : StoreByte) => match b.space with
      | .reg g => g ≠ t.copyGroup k
      | _ => false) then s.irrevocable t.ref else s
    (s, r.2.orElse (fun _ => f))
  (List.range places.length).foldl one (s, none)

/-- The fault of the sync words of a copy that hold a poisoned word (R380). -/
def State.syncPoison (s : State) (l : Launch) (core : Nat) (k : Copy) : Option FaultInfo :=
  k.words.findSome? (fun w => match s.scratchLocs l core w.toNat 16 with
    | .ok ls => s.consume core (ls.take 12) w.toNat 0
    | .error _ => none)

/-- The first error of the places of the next unit of a copy: its source, its destinations and its sync words. -/
def State.unitErr (s : State) (l : Launch) (core : Nat) (k : Copy) : Option (Nat × Option Nat × LocErr) :=
  let n := k.unitLen k.delivered
  let off := k.byteAt k.delivered
  firstErr ((s.epErr l core k.src off.1 n 1).toList.map (fun e => (e.1, some (epAddr k.src off.1), e.2))
    ++ k.dests.flatMap (fun ep => (s.epErr l core ep off.2 n 2).toList.map (fun e => (e.1, some (epAddr ep off.2), e.2)))
    ++ (k.words.zip k.dests).flatMap (fun (w, ep) => match s.scratchLocs l core w.toNat 16 with
      | .error e => [(w.toNat, some (epAddr ep off.2), e)]
      | .ok _ => []))

/-- The channels of the places of the next unit of a copy, and of the walks to them, are ready (R347). -/
def State.unitReady (s : State) (l : Launch) (core : Nat) (k : Copy) : Bool :=
  let n := k.unitLen k.delivered
  let off := k.byteAt k.delivered
  !(s.unitErr l core k).any (fun e => e.2.2.wait)
    && (s.epPlaces l core k.src off.1 n 1 ++ k.dests.flatMap (fun ep => s.epPlaces l core ep off.2 n 2)).all s.locReady

/-- COPY_UNIT_DELIVERY: the next unit of a copy (R118, R251, R254). A unit waits for its channels (R347) and for room in the
undo log (R322). DEDUCED, log entry 17. -/
def State.copyUnit (s : State) (r : TeamRef) (id : Nat) (err : Option DataErr) : State :=
  match s.team? r, s.launch? r.launch with
  | some t, some l =>
    match t.copy? id with
    | none => s
    | some k =>
      if t.saved || k.fail.isSome || k.replay.isSome || k.total ≤ k.delivered || !(k.started || t.mayStart k) then s
      else
        let core := t.copyCore k
        let n := k.unitLen k.delivered
        let off := k.byteAt k.delivered
        match s.unitErr l core k with
        | some (a, d, e) => if e.wait then s else if e.replay then s.replayCopy t k a e.inner else s.failCopy r id (s.asyncInfo l core a d e)
        | none =>
          let srcLs := s.epPlaces l core k.src off.1 n 1
          let dstLs := k.dests.flatMap (fun ep => s.epPlaces l core ep off.2 n 2)
          if s.unitBlocked l t k dstLs || !(srcLs ++ dstLs).all s.locReady then s
          else
            let s := match err with
              | some e => s.noteErr r core e
              | none => s
            match ((err.bind (s.errFault l.num core srcLs (epAddr k.src off.1))).orElse
                (fun _ => s.consume core srcLs (epAddr k.src off.1) 0)).orElse (fun _ => s.syncPoison l core k) with
            | some f => s.failCopy r id f
            | none =>
              let (s1, over_) := s.putUnit l t k n (srcLs.map s.readLoc)
              let out := dstLs.any (fun p => p.outward r)
              let s2 := s1.modCopy r id (fun k => { k with
                started := true, delivered := k.delivered + n, logWait := false, since := s.hostClk
                outbound := k.outbound || out, overrun := k.overrun.orElse (fun _ => over_) })
              if s2.logFits core then s2 else s.modCopy r id (fun k => { k with logWait := true })
  | _, _ => s

/-- COPY_COMPLETE: the last unit has been delivered, or the copy has failed. The camp of an outbound copy falls due
(R135, R254). DESIGN CHOICE, log entry 117. -/
def State.copyDone (s : State) (r : TeamRef) (id : Nat) : State :=
  match s.team? r with
  | none => s
  | some t =>
    match t.copy? id with
    | none => s
    | some k =>
      if k.fail.isSome || k.total ≤ k.delivered then
        let f := k.fail.orElse (fun _ => k.overrun)
        let s := s.modGroup (t.copyGroup k) (fun g => { g with
          cp := g.cp.map (fun o => if o.copy = id then { o with done := true, fail := f } else o) })
        let s := s.modTeam r (fun t => t.modCur (fun u => { u with copies := u.copies.filter (fun e => e.id != id) }))
        if k.outbound then s.irrevocable r else s
      else s

def execCopyUnitDelivery (t : TeamRef) (copy : Nat) (err : Option DataErr) (s : State) : Out := .next (s.onDie (fun s => s.copyUnit t copy err))
def execCopyComplete (t : TeamRef) (copy : Nat) (s : State) : Out := .next (s.onDie (fun s => s.copyDone t copy))

end Sys2Proof.Machine
end

