-- ==== Sys2Proof/Machine/Cvt.lean ====
section
/-! DEFINITION. The CVT family (08 R187 to R191) and the random words it rounds with (04 R104, R107). -/

namespace Sys2Proof.Machine

/-! ## Random words -/

/-- One round of R104. -/
def randRound (st : Word × Word × Word × Word) (r : Nat) : Word × Word × Word × Word :=
  let (x0, x1, x2, x3) := st
  let x0 := x0 + x1 + BitVec.ofNat 32 r
  let x3 := rotl (x3 ^^^ x0) 16
  let x2 := x2 + x3
  let x1 := rotl (x1 ^^^ x2) 12
  let x0 := x0 + x1
  let x3 := rotl (x3 ^^^ x0) 8
  let x2 := x2 + x3
  let x1 := rotl (x1 ^^^ x2) 7
  (x1, x2, x3, x0)

/-- The four words of `rand` (R104). -/
def rand4 (key0 key1 ctr0 ctr1 : Word) : List Word :=
  let (x0, x1, x2, x3) := [0, 1, 2, 3].foldl randRound (ctr0, ctr1, key0, key1 ^^^ 0x9E3779B9)
  [x0 + key0, x1 + key1, x2 + ctr0, x3 + ctr1]

/-- The random word of the registers sN to sN+3 from which SR takes its words (R107, R188). -/
def Ctx.srWord (c : Ctx) (code : Byte) : Word :=
  let k := fun (i : Nat) => c.read (code + BitVec.ofNat 8 i) 0
  (rand4 (k 0) (k 1) (k 2) (k 3)).getD 0 0

/-- The random word of element `e` of lane `l`. -/
def laneRand (rw : Word) (l e : Nat) : Nat := (rotl rw ((7 * l + 11 * e) % 32)).toNat

/-! ## CVT (R187 to R189) -/

/-- A CVT code is a floating-point format, and which. -/
def cvtFloat (code : Nat) : Option Fp.Fmt := if code ≤ 2 then some (Fp.stdFmt code) else none

/-- A CVT code is an unsigned integer format (Table 7.16). -/
def cvtUns (code : Nat) : Bool := code == 4 || code == 6 || code == 8 || code == 10

/-- The range of an integer format (R84). -/
def intRange (uns : Bool) (w : Nat) : Int × Int := if uns then (0, 2 ^ w - 1) else (-(2 ^ (w - 1)), 2 ^ (w - 1) - 1)

/-- Converts one element (Table 8.7). -/
def cvtElem (sc dc mode rnd n : Nat) : Nat × Flags :=
  let wd := cvtWidth dc
  match cvtFloat sc, cvtFloat dc with
  | some fs, some fd => Fp.roundVal fd mode rnd (Fp.decode fs n)
  | some fs, none =>
    let (lo, hi) := intRange (cvtUns dc) wd
    let r := Fp.toInt mode rnd (Fp.decode fs n) lo hi
    (wrap wd r.1, r.2)
  | none, some fd => Fp.roundVal fd mode rnd (Fp.ofInt (rd (cvtUns sc) (cvtWidth sc) n))
  | none, none =>
    let (lo, hi) := intRange (cvtUns dc) wd
    (wrap wd (max lo (min hi (rd (cvtUns sc) (cvtWidth sc) n))), 0)

/-- Converts elements of A, then of B when the destination is narrower, into destination elements; `el` gets the index of
the destination element and the source bits. -/
def convert (ws wd : Nat) (el : Nat → Nat → Nat × Flags) (a b : Word) : Word × Flags :=
  let src := if wd < ws then elems ws a ++ elems ws b else (elems ws a).take (32 / wd)
  let rs := src.zipIdx.map (fun (n, e) => el e n)
  (packElems wd (rs.map (·.1)), orFlags (rs.map (·.2)))

/-- CVT.UNIT (R106, R189). -/
def unitWord (a : Word) : Word := BitVec.ofNat 32 (Fp.roundVal Fp.fp32 0 0 (.fin false (a.toNat / 256) (-24))).1

/-- CVT. -/
def planCvt (x : XF) (c : Ctx) (s : State) : Plan :=
  let sc := bits x.f.toNat 4 4
  let dc := bits x.f.toNat 0 4
  let sr := x.round == 4
  let rw := if sr then c.srWord x.c else 0
  if sc == 11 then computePlan 0x03 0x00 .none false (fun a _ _ _ _ => (unitWord a, 0)) x c s
  else
    computePlan 0x03 0x00 .none sr (fun a b _ _ l =>
      convert (cvtWidth sc) (cvtWidth dc) (fun e n => cvtElem sc dc x.round.toNat (laneRand rw l e) n) a b) x c s

/-! ## Narrow formats (R190) -/

/-- The format register of a narrow conversion, and its standard format. -/
def narrowReg (x : XF) : Nat := bits x.f.toNat 0 3
def stdCode (x : XF) : Nat := bits x.f.toNat 5 2

/-- The record of a narrow conversion. -/
def Ctx.narrowRec (c : Ctx) (x : XF) : Word := c.group.fmt.getD (narrowReg x) 0

/-- Adds the checks of the format register (R71, R95). -/
def Ctx.withFormat (c : Ctx) (x : XF) (p : Plan) : Plan :=
  { p with format := c.formatFault (narrowReg x), emulated := c.emulates (narrowReg x) }

/-- CVTN, either way. -/
def planCvtn (x : XF) (c : Ctx) (s : State) : Plan :=
  let r := c.narrowRec x
  let fn := Fp.recordFmt r
  let wc := Fp.container r
  let std := Fp.stdFmt (stdCode x)
  let mode := x.round.toNat
  let sr := x.round == 4
  let rw := if sr then c.srWord x.c else 0
  c.withFormat x (computePlan 0x03 0x01 .none sr (fun a b _ _ l =>
    if bit x.f.toNat 7 then convert wc std.wid (fun e n => Fp.roundVal std mode (laneRand rw l e) (Fp.decode fn (elemBits fn n))) a 0
    else convert std.wid wc (fun e n => Fp.roundVal fn mode (laneRand rw l e) (Fp.decode std n)) a b) x c s)

/-- OPERAND of a container index that is out of range in an executing lane, or in the one value of a w or s result. -/
def Ctx.indexFault (c : Ctx) (x : XF) (limit : Nat) : Option FaultInfo :=
  let bad := maskOf c.n (fun l => laneBit (c.exec x.mask.toNat) l && limit ≤ (c.opC x l).toNat)
  if bad == 0 then none else some { code := 0x02, inner := 256 + 24, lanes := bad }

/-- PACKN: standard elements of A into containers of D (R190). -/
def planPackn (x : XF) (c : Ctx) (s : State) : Plan :=
  let r := c.narrowRec x
  let fn := Fp.recordFmt r
  let wc := Fp.container r
  let std := Fp.stdFmt (stdCode x)
  let k := 32 / std.wid
  let sr := x.round == 4
  let rw := if sr then c.srWord x.b else 0
  let p := computePlan 0x03 0x02 .none sr (fun a _ u d l =>
    let rs := (elems std.wid a).zipIdx.map (fun (n, e) =>
      Fp.roundVal fn x.round.toNat (laneRand rw l (k * u.toNat + e)) (Fp.decode std n))
    let old := elems wc d
    (packElems wc (old.zipIdx.map (fun (o, i) =>
      if k * u.toNat ≤ i && i < k * u.toNat + k then ((rs.map (·.1)).getD (i - k * u.toNat) 0) else o)),
     orFlags (rs.map (·.2)))) x c s
  c.withFormat x { p with range := c.indexFault x (32 / wc / k) }

/-- UNPACKN: containers of A into the standard elements of D (R190). -/
def planUnpackn (x : XF) (c : Ctx) (s : State) : Plan :=
  let r := c.narrowRec x
  let fn := Fp.recordFmt r
  let wc := Fp.container r
  let std := Fp.stdFmt (stdCode x)
  let k := 32 / std.wid
  let p := computePlan 0x03 0x03 .none false (fun a _ u _ _ =>
    let rs := (((elems wc a).drop (k * u.toNat)).take k).map (fun n =>
      Fp.roundVal std x.round.toNat 0 (Fp.decode fn (elemBits fn n)))
    (packElems std.wid (rs.map (·.1)), orFlags (rs.map (·.2)))) x c s
  c.withFormat x { p with range := c.indexFault x (32 / wc / k) }

/-! ## SCALEB (R191) -/

/-- A value times a block scale; code 255 gives NaN, with invalid unless the value is NaN. -/
def scaledBy (v : Fp.Val) (code : Nat) : Fp.Val :=
  if code == 255 then .nan (!v.isNan) else Fp.mul v (Fp.scale code)

def planScaleb (x : XF) (c : Ctx) (s : State) : Plan :=
  let std := Fp.stdFmt (bits x.f.toNat 0 2)
  computePlan 0x03 0x04 .none false (fun a b _ _ _ =>
    fltElems std.wid (fun n _ _ => Fp.roundVal std x.round.toNat 0 (scaledBy (Fp.decode std n) (bits b.toNat 0 8))) a 0 0) x c s

/-! ## Meanings -/

def runCvtn (resumed : Bool) (x : XF) (s : State) : Out := runX 0x03 0x01 x (planCvtn x) s resumed
def runPackn (resumed : Bool) (x : XF) (s : State) : Out := runX 0x03 0x02 x (planPackn x) s resumed
def runUnpackn (resumed : Bool) (x : XF) (s : State) : Out := runX 0x03 0x03 x (planUnpackn x) s resumed

def execCvt (x : XF) (s : State) : Out := runX 0x03 0x00 x (planCvt x) s
def execCvtn (x : XF) (s : State) : Out := runCvtn false x s
def execPackn (x : XF) (s : State) : Out := runPackn false x s
def execUnpackn (x : XF) (s : State) : Out := runUnpackn false x s
def execScaleb (x : XF) (s : State) : Out := runX 0x03 0x04 x (planScaleb x) s

end Sys2Proof.Machine
end

