-- ==== Sys2Proof/Machine/Lanes.lean ====
section
/-! DEFINITION. The DOT, XLANE, MASK, RAND and FMT families (08 R192 to R201). -/

namespace Sys2Proof.Machine

/-! ## DOT (R192, R193) -/

/-- The sum of the products of the elements of two words, and the accumulator (R192). -/
def dotSum (w : Nat) (f : Byte) (a b c : Word) : Int :=
  let ps := (elems w a).zip (elems w b)
  ps.foldl (fun t p => t + rd (bit f.toNat 0) w p.1 * rd (bit f.toNat 1) w p.2) (sx 32 c.toNat)

/-- IDP2, IDP4 and IDP8: the exact total clamped with SAT, else modulo 2^32 (R100). -/
def opIdp (w : Nat) (f : Byte) : LaneOp := fun a b c _ _ =>
  let t := dotSum w f a b c
  (BitVec.ofNat 32 (wrap 32 (if bit f.toNat 2 then clampW false 32 t else t)), 0)

def planIdp2 (x : XF) : Ctx → State → Plan := computePlan 0x04 0x00 .none false (opIdp 16 x.f) x
def planIdp4 (x : XF) : Ctx → State → Plan := computePlan 0x04 0x01 .none false (opIdp 8 x.f) x
def planIdp8 (x : XF) : Ctx → State → Plan := computePlan 0x04 0x02 .none false (opIdp 4 x.f) x

/-- FDP2 (R193). -/
def planFdp2 (x : XF) : Ctx → State → Plan := computePlan 0x04 0x03 .none false (fun a b c _ _ =>
  let f := if bit x.f.toNat 3 then Fp.bf16 else Fp.fp16
  let ps := ((elems 16 a).zip (elems 16 b)).map (fun p => Fp.mul (Fp.decode f p.1) (Fp.decode f p.2))
  let r := Fp.roundSum Fp.fp32 x.round.toNat (Fp.val32 c :: ps)
  (BitVec.ofNat 32 r.1, r.2)) x

/-! ## XLANE (R194 to R197) -/

/-- `identity(OP)` of R195. -/
def reduxIdentity (op : Nat) : Word :=
  match op with
  | 2 => 0x7FFFFFFF
  | 3 => 0x80000000
  | 4 | 8 => 0xFFFFFFFF
  | 6 => 0x7F800000
  | 7 => 0xFF800000
  | _ => 0

/-- `combine` of R195 for the functions that keep a word. -/
def reduxCombine (op : Nat) (a b : Word) : Word :=
  match op with
  | 0 => a + b
  | 2 => if b.slt a then b else a
  | 3 => if a.slt b then b else a
  | 4 => if b.ult a then b else a
  | 5 => if a.ult b then b else a
  | 6 => BitVec.ofNat 32 (elFmin Fp.fp32 0 a.toNat b.toNat 0).1
  | 7 => BitVec.ofNat 32 (elFmax Fp.fp32 0 a.toNat b.toNat 0).1
  | 8 => a &&& b
  | 9 => a ||| b
  | _ => a ^^^ b

/-- The total of a list of values: a float add is summed exactly and rounded once (R98, R195). -/
def reduxTotal (op mode : Nat) (vs : List Word) : Word × Flags :=
  if op == 1 then
    if vs.isEmpty then (0, 0)
    else
      let r := Fp.roundSum Fp.fp32 mode (vs.map Fp.val32)
      (BitVec.ofNat 32 r.1, r.2)
  else (vs.foldl (reduxCombine op) (reduxIdentity op), 0)

/-- A cross-lane function: the result of each lane from the values of the executing lanes; the tag is G (R176). -/
def crossPlan (func : Nat) (f : (lanes : List Nat) → (vals : Nat → Word) → (l : Nat) → Word × Flags) (x : XF) (c : Ctx)
    (s : State) : Plan :=
  let g := (sigOf 0x05 func x).getD { segs := [] }
  let exec := c.exec x.mask.toNat
  let lanes := lanesOf c.n exec
  let vals := fun (l : Nat) => c.opA g x l
  { shape := shapeFault x.d .g c.path.mask
    partialMask := c.partialFault x.d x.wmode.toNat exec
    effect := c.advance ((c.writeDst s x.d (fun l => (f lanes vals l).1) { tag := .g } exec (x.wmode == 2)).addFlags c.ref
      (orFlags (lanes.map (fun l => (f lanes vals l).2)))) }

/-- PERM: lane `l` gets the value of lane `b mod n` (R194). -/
def planPerm (x : XF) (c : Ctx) (s : State) : Plan :=
  let g := (sigOf 0x05 0x00 x).getD { segs := [] }
  crossPlan 0x00 (fun _ vals l => (vals ((c.opB g x l).toNat % c.n), 0)) x c s

def planRedux (x : XF) : Ctx → State → Plan :=
  crossPlan 0x01 (fun lanes vals _ => reduxTotal (bits x.f.toNat 0 4) x.round.toNat (lanes.map vals)) x

/-- SCAN: each executing lane's prefix; with EXCL its own value is left out (R195). -/
def planScan (x : XF) : Ctx → State → Plan :=
  crossPlan 0x02 (fun lanes vals l =>
    let own := !bit x.f.toNat 4
    reduxTotal (bits x.f.toNat 0 4) x.round.toNat ((lanes.filter (fun j => j < l || (j == l && own))).map vals)) x

/-- VOTE: all, any and uniform give a word, ballot a pair (R196). -/
def planVote (x : XF) (c : Ctx) (s : State) : Plan :=
  let mode := bits x.f.toNat 0 2
  let g := (sigOf 0x05 0x03 x).getD { segs := [] }
  let exec := c.exec x.mask.toNat
  let t := fun (l : Nat) => c.opA g x l != 0
  if mode == 2 then
    let m := maskOf c.n (fun l => laneBit exec l && t l)
    { shape := shapeFault x.d .g c.path.mask
      partialMask := c.partialFault x.d x.wmode.toNat exec
      effect := c.advance (c.writePair s x.d (fun _ => m) { tag := .g } { tag := .g } exec (x.wmode == 2)) }
  else
    crossPlan 0x03 (fun lanes vals _ =>
      let v := match mode with
        | 0 => lanes.all (fun l => vals l != 0)
        | 1 => lanes.any (fun l => vals l != 0)
        | _ => lanes.all (fun l => vals l == vals (lanes.headD 0))
      (if v then 1 else 0, 0)) x c s

/-- MATCH: the lowest executing lane with the same value (R197). -/
def planMatch (x : XF) : Ctx → State → Plan :=
  crossPlan 0x04 (fun lanes vals l => (BitVec.ofNat 32 ((lanes.find? (fun j => vals j == vals l)).getD l), 0)) x

/-! ## MASK (R198, R199) -/

/-- Writes a k register of the group, or of its rope; the rejoin depth becomes none (R46). -/
def Ctx.setK (c : Ctx) (k : Nat) (m : Mask) (depth : Option Nat) (s : State) : State :=
  s.modGroup c.ref (fun g =>
    if c.inRope then { g with rope := g.rope.map (fun r => { r with ks := kWrite r.ks c.n k m depth }) }
    else { g with ks := kWrite g.ks c.n k m depth })

/-- The k register number of a code. -/
def kNum (code : Byte) : Nat := code.toNat - 0xE0

/-- The mask that a k operand holds. DEDUCED, log entry 28. -/
def Ctx.kVal (c : Ctx) (code : Byte) : Mask := kMask c.ks c.n (kNum code)

/-- A function that writes a k register. -/
def kPlan (x : XF) (m : Mask) (c : Ctx) (s : State) : Plan := { effect := c.advance (c.setK (kNum x.d) m none s) }

def planKand (x : XF) (c : Ctx) (s : State) : Plan := kPlan x (c.kVal x.a &&& c.kVal x.b) c s
def planKor (x : XF) (c : Ctx) (s : State) : Plan := kPlan x (c.kVal x.a ||| c.kVal x.b) c s
def planKxor (x : XF) (c : Ctx) (s : State) : Plan := kPlan x (c.kVal x.a ^^^ c.kVal x.b) c s
def planKnot (x : XF) (c : Ctx) (s : State) : Plan := kPlan x (~~~(c.kVal x.a)) c s
def planKset (x : XF) (c : Ctx) (s : State) : Plan := kPlan x (x.lit.getD 0) c s

/-- KMOV between k registers and s pairs, or from the lanes of a register to a k register (R199).
DEDUCED, log entry 28. -/
def planKmov (x : XF) (c : Ctx) (s : State) : Plan :=
  let g := (sigOf 0x06 0x04 x).getD { segs := [] }
  let lanes := clsOf x.a != .k && clsOf x.a != .s && clsOf x.a != .vz
  let exec := c.exec x.mask.toNat
  let v : Mask :=
    if lanes then maskOf c.n (fun l => laneBit exec l && c.opA g x l != 0)
    else if clsOf x.a == .k then c.kVal x.a
    else c.read64 x.a 0 0 0
  { operand := if clsOf x.d == .s && (lanes || clsOf x.a == .s) then some (c.pathFault 0x02 16) else none
    effect := c.advance (match clsOf x.d with
      | .k => c.setK (kNum x.d) v none s
      | .s => c.writePair s x.d (fun _ => v) { tag := .u, base := loWord v } { tag := .u, base := hiWord v } exec false
      | _ => s) }

/-- KPOP and KFFS: one word with tag U, in whole mode. -/
def kWordPlan (func : Nat) (v : Word) (x : XF) : Ctx → State → Plan := computePlan 0x06 func .none false (fun _ _ _ _ _ => (v, 0)) x

/-- KPOP: the number of 1 bits of A. DEDUCED, log entry 29. -/
def planKpop (x : XF) (c : Ctx) (s : State) : Plan := kWordPlan 0x05 (BitVec.ofNat 32 (popMask (c.kVal x.a))) x c s
/-- KFFS: the lowest 1 bit of A, or all ones. DEDUCED, log entry 29. -/
def planKffs (x : XF) (c : Ctx) (s : State) : Plan :=
  kWordPlan 0x06 (if c.kVal x.a == 0 then 0xFFFFFFFF else BitVec.ofNat 32 (lowLane (c.kVal x.a))) x c s

/-! ## RAND (R200) -/

/-- RAND: four words into D to D+3. -/
def planRand (x : XF) (c : Ctx) (s : State) : Plan :=
  let exec := c.exec x.mask.toNat
  let add := bit x.f.toNat 0
  let words := fun (l : Nat) =>
    let key := c.wideA x l
    let ctr := c.wideB x l
    rand4 (loWord key) (hiWord key) (loWord ctr + if add then BitVec.ofNat 32 l else 0) (hiWord ctr)
  let key := c.wideBase x.a x.apat.toNat
  let base := c.wideBase x.b x.bpat.toNat
  let whole := rand4 (loWord key) (hiWord key) (loWord base) (hiWord base)
  let tag := if c.tag64 x.a x.apat.toNat == .u && c.tag64 x.b x.bpat.toNat == .u && !add then Tag.u else .g
  { partialMask := c.partialFault x.d x.wmode.toNat exec
    effect := c.advance ((List.range 4).foldl (fun s i =>
      c.writeDst s (x.d + BitVec.ofNat 8 i) (fun l => (words l).getD i 0) { tag := tag, base := whole.getD i 0 } exec (x.wmode == 2)) s) }

/-! ## FMT (R201) -/

/-- FMTSET: the record is checked and kept. DEDUCED, log entry 24. -/
def planFmtset (x : XF) (c : Ctx) (s : State) : Plan :=
  let i := bits x.f.toNat 0 3
  let sh := c.shapeC x
  let r := sh.base
  { shape := match sh.tag with
      | .u => none
      | .a => some { code := 0x05, inner := 256, lanes := c.path.mask }
      | .g => some { code := 0x05, inner := 512, lanes := c.path.mask }
    format := if Fp.wellFormed r then none
      else some { code := 0x0F, inner := i, address := r.zeroExtend 64, lanes := c.path.mask }
    effect := c.advance (s.modGroup c.ref (fun g => { g with fmt := setPad g.fmt i r 0 })) }

/-- FMTGET: the record with tag U. -/
def planFmtget (x : XF) (c : Ctx) (s : State) : Plan :=
  computePlan 0x11 0x01 .none false (fun _ _ _ _ _ => (c.group.fmt.getD (bits x.f.toNat 0 3) 0, 0)) x c s

/-! ## Meanings -/

def execIdp2 (x : XF) (s : State) : Out := runX 0x04 0x00 x (planIdp2 x) s
def execIdp4X (x : XF) (s : State) : Out := runX 0x04 0x01 x (planIdp4 x) s
def execIdp8X (x : XF) (s : State) : Out := runX 0x04 0x02 x (planIdp8 x) s
def execFdp2 (x : XF) (s : State) : Out := runX 0x04 0x03 x (planFdp2 x) s
def execPerm (x : XF) (s : State) : Out := runX 0x05 0x00 x (planPerm x) s
def execRedux (x : XF) (s : State) : Out := runX 0x05 0x01 x (planRedux x) s
def execScan (x : XF) (s : State) : Out := runX 0x05 0x02 x (planScan x) s
def execVote (x : XF) (s : State) : Out := runX 0x05 0x03 x (planVote x) s
def execMatchLanes (x : XF) (s : State) : Out := runX 0x05 0x04 x (planMatch x) s
def execKand (x : XF) (s : State) : Out := runX 0x06 0x00 x (planKand x) s
def execKor (x : XF) (s : State) : Out := runX 0x06 0x01 x (planKor x) s
def execKxor (x : XF) (s : State) : Out := runX 0x06 0x02 x (planKxor x) s
def execKnot (x : XF) (s : State) : Out := runX 0x06 0x03 x (planKnot x) s
def execKmov (x : XF) (s : State) : Out := runX 0x06 0x04 x (planKmov x) s
def execKpop (x : XF) (s : State) : Out := runX 0x06 0x05 x (planKpop x) s
def execKffs (x : XF) (s : State) : Out := runX 0x06 0x06 x (planKffs x) s
def execKset (x : XF) (s : State) : Out := runX 0x06 0x07 x (planKset x) s
def execRand (x : XF) (s : State) : Out := runX 0x10 0x00 x (planRand x) s
def execFmtset (x : XF) (s : State) : Out := runX 0x11 0x00 x (planFmtset x) s
def execFmtget (x : XF) (s : State) : Out := runX 0x11 0x01 x (planFmtget x) s

end Sys2Proof.Machine
end

