-- ==== Sys2Proof/Machine/BForms.lean ====
section
/-! DEFINITION. The compute majors of the B form, their BL forms, and PFX (07 R153 to R157; 08 R179, R180, Table 8.1). -/

namespace Sys2Proof.Machine

/-- The X function of SFU function `n` (R180). -/
def sfuFunc (n : Nat) : Nat :=
  match n with
  | 0 => 0x0D
  | 1 => 0x0E
  | 2 => 0x0C
  | 3 => 0x0F
  | 4 => 0x10
  | 5 => 0x11
  | 6 => 0x12
  | _ => 0x13

/-- The X terms of a compute major with fields A, B and C: family, function, fields, and an immediate in place of B. `add`
names the addend of an accumulate major (Table 8.1). -/
def bParts (major : Nat) (a b c add : Byte) : Nat × Nat × XF × Option Dword :=
  match major with
  | 0x01 => (0x01, 0x00, xB 0 a b c 0, none)
  | 0x02 => (0x01, 0x01, xB 0 a b c 0, none)
  | 0x03 => (0x01, 0x04, xB 0 a b c 0, none)
  | 0x04 => (0x01, 0x07, xB 0 a b c add, none)
  | 0x05 => (0x01, 0x0C, xB 0 a b c 0, none)
  | 0x06 => (0x01, 0x0D, xB 0 a b c 0, none)
  | 0x07 => (0x01, 0x0E, xB 0 a b c 0, none)
  | 0x08 => (0x01, 0x11, xB 0 a b c 0, none)
  | 0x09 => (0x01, 0x12, xB 0 a b c 0, none)
  | 0x0A => (0x01, 0x13, xB 0 a b c 0, none)
  | 0x0B => (0x01, 0x08, xB 0 a b c 0, none)
  | 0x0C => (0x01, 0x09, xB 0 a b c 0, none)
  | 0x14 => (0x02, 0x00, xB 0 a b c 0, none)
  | 0x15 => (0x02, 0x01, xB 0 a b c 0, none)
  | 0x16 => (0x02, 0x02, xB 0 a b c 0, none)
  | 0x17 => (0x02, 0x03, xB 0 a b c add, none)
  | 0x18 => (0x02, 0x04, xB 0 a b c 0, none)
  | 0x19 => (0x02, 0x05, xB 0 a b c 0, none)
  | 0x1A => (0x02, 0x00, xB 1 a b c 0, none)
  | 0x1B => (0x02, 0x02, xB 1 a b c 0, none)
  | 0x1C => (0x02, 0x03, xB 1 a b c add, none)
  | 0x1D => (0x02, 0x03, xB 2 a b c add, none)
  | 0x1E => (0x04, 0x01, xB 0 a b c add, none)
  | 0x1F => (0x04, 0x02, xB 0 a b c add, none)
  | 0x0D => (0x01, 0x00, xB 0 a b 0 0, some (simm 8 c.toNat))
  | 0x0E => (0x01, 0x11, xB 0 a b 0 0, some (c.zeroExtend 64))
  | 0x0F => (0x01, 0x12, xB 0 a b 0 0, some (c.zeroExtend 64))
  | 0x10 => (0x01, 0x13, xB 0 a b 0 0, some (c.zeroExtend 64))
  | 0x11 => (0x01, 0x0C, xB 0 a b 0 0, some (c.zeroExtend 64))
  | 0x12 => (0x01, 0x20, { xB 0 a 0 0 0 with lit := some (simm 16 (b.toNat * 256 + c.toNat)) }, none)
  | 0x13 => (0x01, 0x1F, xB 0 a b 0 0, none)
  | _ => (0x02, sfuFunc c.toNat, xB 0 a b 0 0, none)

/-- The checks and effect of a compute major in its X terms. -/
def bPlan (major sfu : Nat) (x : XF) : Ctx → State → Plan :=
  match major with
  | 0x01 => planIadd x
  | 0x02 => planIsub x
  | 0x03 => intPlan 0x04 .mul (opImul x) x
  | 0x04 => intPlan 0x07 .none (opImad x) x
  | 0x05 => intPlan 0x0C .none opAnd x
  | 0x06 => intPlan 0x0D .none opOr x
  | 0x07 => intPlan 0x0E .none opXor x
  | 0x08 => intPlan 0x11 .shl (opShl x) x
  | 0x09 => intPlan 0x12 .none (opShr x) x
  | 0x0A => intPlan 0x13 .none (opSar x) x
  | 0x0B => intPlan 0x08 .none (opImin x) x
  | 0x0C => intPlan 0x09 .none (opImax x) x
  | 0x14 => planFadd x
  | 0x15 => planFsub x
  | 0x16 => planFmul x
  | 0x17 => planFfma x
  | 0x18 => planFmin x
  | 0x19 => planFmax x
  | 0x1A => planFadd x
  | 0x1B => planFmul x
  | 0x1C => planFfma x
  | 0x1D => planFfma x
  | 0x1E => planIdp4 x
  | 0x1F => planIdp8 x
  | 0x0D => planIadd x
  | 0x0E => intPlan 0x11 .shl (opShl x) x
  | 0x0F => intPlan 0x12 .none (opShr x) x
  | 0x10 => intPlan 0x13 .none (opSar x) x
  | 0x11 => intPlan 0x0C .none opAnd x
  | 0x12 => planLdi x
  | 0x13 => planMov x
  | _ =>
    match sfu with
    | 0 => planFrcp x
    | 1 => planFrsq x
    | 2 => planFsqrt x
    | 3 => planFexp2 x
    | 4 => planFlog2 x
    | 5 => planFsinpi x
    | 6 => planFcospi x
    | _ => planFtanh x

/-- Runs a compute major without a prefix word: A is also the addend of an accumulate major (R154). -/
def runMajor (major : Nat) (a b c : Byte) (s : State) : Out :=
  let (family, func, x, imm) := bParts major a b c a
  runB (wordB major a b c) family func x imm (bPlan major c.toNat x) s

/-- Runs the BL form of a compute major: the literal replaces C, for IMAD and FFMA the second factor (R156). -/
def runMajorBL (major : Nat) (a b : Byte) (lit : Dword) (s : State) : Out :=
  let (family, func, x, _) := bParts major a b 0 a
  runBL major a b lit family func x (bPlan major 0 x) s

/-! ## Meanings of the B form -/

def execIadd (d a b : Byte) (s : State) : Out := runMajor 0x01 d a b s
def execIsub (d a b : Byte) (s : State) : Out := runMajor 0x02 d a b s
def execImul (d a b : Byte) (s : State) : Out := runMajor 0x03 d a b s
def execImad (d a b : Byte) (s : State) : Out := runMajor 0x04 d a b s
def execAnd (d a b : Byte) (s : State) : Out := runMajor 0x05 d a b s
def execOr (d a b : Byte) (s : State) : Out := runMajor 0x06 d a b s
def execXor (d a b : Byte) (s : State) : Out := runMajor 0x07 d a b s
def execShl (d a b : Byte) (s : State) : Out := runMajor 0x08 d a b s
def execShr (d a b : Byte) (s : State) : Out := runMajor 0x09 d a b s
def execSar (d a b : Byte) (s : State) : Out := runMajor 0x0A d a b s
def execImin (d a b : Byte) (s : State) : Out := runMajor 0x0B d a b s
def execImax (d a b : Byte) (s : State) : Out := runMajor 0x0C d a b s
def execIaddi (d a i : Byte) (s : State) : Out := runMajor 0x0D d a i s
def execShli (d a : Byte) (n : BitVec 5) (s : State) : Out := runMajor 0x0E d a (n.zeroExtend 8) s
def execShri (d a : Byte) (n : BitVec 5) (s : State) : Out := runMajor 0x0F d a (n.zeroExtend 8) s
def execSari (d a : Byte) (n : BitVec 5) (s : State) : Out := runMajor 0x10 d a (n.zeroExtend 8) s
def execAndi (d a i : Byte) (s : State) : Out := runMajor 0x11 d a i s
def execMovi (d : Byte) (i : BitVec 16) (s : State) : Out := runMajor 0x12 d (i.extractLsb' 8 8) (i.extractLsb' 0 8) s
def execMov (d a : Byte) (s : State) : Out := runMajor 0x13 d a 0 s
def execFadd (d a b : Byte) (s : State) : Out := runMajor 0x14 d a b s
def execFsub (d a b : Byte) (s : State) : Out := runMajor 0x15 d a b s
def execFmul (d a b : Byte) (s : State) : Out := runMajor 0x16 d a b s
def execFfma (d a b : Byte) (s : State) : Out := runMajor 0x17 d a b s
def execFmin (d a b : Byte) (s : State) : Out := runMajor 0x18 d a b s
def execFmax (d a b : Byte) (s : State) : Out := runMajor 0x19 d a b s
def execHadd2 (d a b : Byte) (s : State) : Out := runMajor 0x1A d a b s
def execHmul2 (d a b : Byte) (s : State) : Out := runMajor 0x1B d a b s
def execHfma2 (d a b : Byte) (s : State) : Out := runMajor 0x1C d a b s
def execBfma2 (d a b : Byte) (s : State) : Out := runMajor 0x1D d a b s
def execIdp4 (d a b : Byte) (s : State) : Out := runMajor 0x1E d a b s
def execIdp8 (d a b : Byte) (s : State) : Out := runMajor 0x1F d a b s
def execSfu (d a : Byte) (n : BitVec 3) (s : State) : Out := runMajor 0x20 d a (n.zeroExtend 8) s

/-! ## Meanings of the BL form -/

def execIaddBl (d a : Byte) (lit : Dword) (s : State) : Out := runMajorBL 0x01 d a lit s
def execIsubBl (d a : Byte) (lit : Dword) (s : State) : Out := runMajorBL 0x02 d a lit s
def execImulBl (d a : Byte) (lit : Dword) (s : State) : Out := runMajorBL 0x03 d a lit s
def execImadBl (d a : Byte) (lit : Dword) (s : State) : Out := runMajorBL 0x04 d a lit s
def execAndBl (d a : Byte) (lit : Dword) (s : State) : Out := runMajorBL 0x05 d a lit s
def execOrBl (d a : Byte) (lit : Dword) (s : State) : Out := runMajorBL 0x06 d a lit s
def execXorBl (d a : Byte) (lit : Dword) (s : State) : Out := runMajorBL 0x07 d a lit s
def execShlBl (d a : Byte) (lit : Dword) (s : State) : Out := runMajorBL 0x08 d a lit s
def execShrBl (d a : Byte) (lit : Dword) (s : State) : Out := runMajorBL 0x09 d a lit s
def execSarBl (d a : Byte) (lit : Dword) (s : State) : Out := runMajorBL 0x0A d a lit s
def execIminBl (d a : Byte) (lit : Dword) (s : State) : Out := runMajorBL 0x0B d a lit s
def execImaxBl (d a : Byte) (lit : Dword) (s : State) : Out := runMajorBL 0x0C d a lit s
def execFaddBl (d a : Byte) (lit : Dword) (s : State) : Out := runMajorBL 0x14 d a lit s
def execFsubBl (d a : Byte) (lit : Dword) (s : State) : Out := runMajorBL 0x15 d a lit s
def execFmulBl (d a : Byte) (lit : Dword) (s : State) : Out := runMajorBL 0x16 d a lit s
def execFfmaBl (d a : Byte) (lit : Dword) (s : State) : Out := runMajorBL 0x17 d a lit s
def execFminBl (d a : Byte) (lit : Dword) (s : State) : Out := runMajorBL 0x18 d a lit s
def execFmaxBl (d a : Byte) (lit : Dword) (s : State) : Out := runMajorBL 0x19 d a lit s

/-- MOV with a literal is LDI of it (Table 7.5). -/
def execMovBl (d : Byte) (lit : Dword) (s : State) : Out :=
  let x : XF := { d := d, wmode := bMode d, lit := some lit }
  runOp { family := 0x01, func := 0x20, x := x, len := 3, bad := illegalBL (wordBL 0x13 d 0) lit, prompt := true }
    (planLdi x) s

/-! ## PFX (R157) -/

/-- The B-form instruction after a PFX, with the prefix's mask, write mode, rounding and addend. -/
def pfxOp (m : BitVec 4) (w : BitVec 2) (r : BitVec 3) (f : Byte) (next : Word) : Op :=
  let major := bits next.toNat 24 6
  let a : Byte := next.extractLsb' 16 8
  let (family, func, x, imm) := bParts major a (next.extractLsb' 8 8) (next.extractLsb' 0 8) f
  { family := family, func := func, x := { x with mask := m, wmode := if w == 1 then 2 else bMode a, round := r }, len := 2,
    bad := illegalPfx m w r f 0 next, immB := imm, prompt := family == 0x01
    place := fun e => if e.1 == 0 then (1, e.2) else (0, 7) }

/-- PFX with its instruction; a word that it does not accept is the fault PREFIX. DEDUCED, log entry 23. -/
def execPfx (m : BitVec 4) (w : BitVec 2) (r : BitVec 3) (f : Byte) (next : Word) (s : State) : Out :=
  if pfxNextOk next then
    let o := pfxOp m w r f next
    runOp o (bPlan (bits next.toNat 24 6) (bits next.toNat 0 8) o.x) s
  else match ctxOf s with
    | none => .fault .noIssuer
    | some c => .next (takeFault c { code := 0x03, inner := 0, address := c.pc + 4, lanes := c.path.mask } s)

end Sys2Proof.Machine
end

