-- ==== Sys2Proof/Machine/MatMath.lean ====
section
/-! DEFINITION. The arithmetic of the quad engine: passes (11 R257, R268; 04 R96 to R100) and the orthogonal accumulators
(11 R277 to R284). -/

namespace Sys2Proof.Machine

/-- A matrix of lane words by rows. -/
abbrev Mat := List (List Word)

/-- The 64 rows of a tile's 4,096 words. -/
def tileRows (ws : List Word) : Mat := (List.range 64).map (fun r => (List.range 64).map (fun c => ws.getD (64 * r + c) 0))

/-- The element of a matrix. -/
def Mat.at (m : Mat) (i j : Nat) : Word := (m.getD i []).getD j 0

/-- The transpose of a matrix of `n` columns. -/
def Mat.transpose (m : Mat) (n : Nat) : Mat := (List.range n).map (fun j => m.map (fun r => r.getD j 0))

/-- The identity. -/
def Mat.identity : Mat := (List.range 64).map (fun i => (List.range 64).map (fun j => if i == j then 0x3F800000 else 0))

/-- A matrix whose every entry is a rounded result, with the flags of all of them. -/
def Mat.collect (m : List (List (Nat × Flags))) : Mat × Flags :=
  (m.map (fun r => r.map (fun e => BitVec.ofNat 32 e.1)), orFlags (m.flatten.map (·.2)))

/-- The values of a row. -/
def rowVals (r : List Word) : List Fp.Val := r.map Fp.val32

/-- `rnd(A B)` for A by rows and B by columns (R98, R99). -/
def Mat.mulRnd (mode : Nat) (a bt : Mat) : Mat × Flags :=
  let cols := bt.map rowVals
  Mat.collect (a.map (fun r =>
    let r := rowVals r
    cols.map (fun c => Fp.roundSum Fp.fp32 mode (List.zipWith Fp.mul r c))))

/-- `rnd(E - A B)` for A by rows and B by columns. -/
def Mat.subRnd (mode : Nat) (e a bt : Mat) : Mat × Flags :=
  let cols := bt.map rowVals
  Mat.collect ((e.zip a).map (fun (er, r) =>
    let r := rowVals r
    (er.zip cols).map (fun (x, c) => Fp.roundSum Fp.fp32 mode (Fp.val32 x :: (List.zipWith Fp.mul r c).map Fp.Val.negate))))

/-! ## Passes -/

/-- Element width of a format (Table 11.1). -/
def ElemFmt.width : ElemFmt → Nat
  | .std c => if c == 0 then 32 else if c ≤ 2 then 16 else if c ≤ 4 then 8 else 4
  | .record r => Fp.container r

/-- An integer format: whether it is unsigned. -/
def ElemFmt.int : ElemFmt → Option Bool
  | .std c => if c == 3 || c == 5 then some false else if c == 4 || c == 6 then some true else none
  | .record _ => none

/-- The floating-point layout of a format. -/
def ElemFmt.float : ElemFmt → Fp.Fmt
  | .std c => Fp.stdFmt c
  | .record r => Fp.recordFmt r

/-- A format is FP32, whose words move unchanged. -/
def ElemFmt.isFp32 (f : ElemFmt) : Bool := f = .std 0

/-- The elements of a row of bytes. -/
def ElemFmt.raw (f : ElemFmt) (bs : List Byte) : List Nat :=
  let n := leNat bs
  (List.range (8 * bs.length / f.width)).map (fun k => bits n (f.width * k) f.width)

/-- The integers of a slab row. -/
def ElemFmt.ints (f : ElemFmt) (bs : List Byte) : List Int := (f.raw bs).map (rd (f.int.getD false) f.width)

/-- The value of an element (R91, R268). -/
def ElemFmt.value (f : ElemFmt) (n : Nat) : Fp.Val := Fp.decode f.float (elemBits f.float n)

/-- The values of a slab row, each times the scale of its block (R96, R97). -/
def ElemFmt.vals (f : ElemFmt) (bs : List Byte) (scale : Option Word) (sel : Nat) : List Fp.Val :=
  (f.raw bs).zipIdx.map (fun (n, k) =>
    let v := f.value n
    match scale with
    | none => v
    | some w => Fp.mul v (Fp.scale (bits w.toNat (8 * (sel + k / 32)) 8)))

/-- `sat32` (R100). -/
def sat32 (x : Int) : Word := BitVec.ofInt 32 (max (-(2 ^ 31)) (min (2 ^ 31 - 1) x))

/-- An integer pass: every element exact, saturated once. -/
def intPass (d : Mat) (a bt : List (List Int)) : Mat :=
  (d.zip a).map (fun (dr, ar) => (dr.zip bt).map (fun (x, bc) =>
    sat32 (x.toInt + (List.zipWith (· * ·) ar bc).foldl (· + ·) 0)))

/-- A float pass: every element one exact sum rounded once. -/
def floatPass (mode : Nat) (d : Mat) (a bt : List (List Fp.Val)) : Mat × Flags :=
  Mat.collect ((d.zip a).map (fun (dr, ar) => (dr.zip bt).map (fun (x, bc) =>
    Fp.roundSum Fp.fp32 mode (Fp.val32 x :: List.zipWith Fp.mul ar bc))))

/-- A pass (R268): D, the rows of A and the rows of the transpose of B as bytes. -/
def pass (mode : Nat) (fa fb : ElemFmt) (sel : Nat) (scales : Option (List Word × List Word)) (d : Mat)
    (a bt : List (List Byte)) : Mat × Flags :=
  if fa.int.isSome then (intPass d (a.map fa.ints) (bt.map fb.ints), 0)
  else
    let row := fun (f : ElemFmt) (side : (List Word × List Word) → List Word) (r : List Byte × Nat) =>
      f.vals r.1 (scales.map (fun p => (side p).getD r.2 0)) sel
    floatPass mode d (a.zipIdx.map (row fa (·.1))) (bt.zipIdx.map (row fb (·.2)))

/-! ## Moving tiles (R271, R272) -/

/-- A row of memory-side elements as FP32 words: unchanged from FP32, else converted exactly. -/
def ElemFmt.loadRow (f : ElemFmt) (bs : List Byte) : List Word :=
  (f.raw bs).map (fun n => if f.isFp32 then BitVec.ofNat 32 n else BitVec.ofNat 32 (Fp.roundVal Fp.fp32 0 0 (f.value n)).1)

/-- A tile row as memory-side bytes, with the flags of its roundings; `rw` is the random word of the row. -/
def ElemFmt.storeRow (f : ElemFmt) (mode : Nat) (rw : Word) (ws : List Word) : List Byte × Flags :=
  let es := ws.zipIdx.map (fun (x, c) =>
    if f.isFp32 then (x.toNat, 0) else Fp.roundVal f.float mode (rotl rw (7 * c % 32)).toNat (Fp.val32 x))
  let n := es.zipIdx.foldl (fun acc (e, c) => acc + e.1 % 2 ^ f.width * 2 ^ (f.width * c)) 0
  (leBytes n (8 * f.width), orFlags (es.map (·.2)))

/-- The random word of tile row `i` under SR; `p` holds the key, the origin row and the origin column. -/
def rowRand (p : List Word) (i : Nat) : Word :=
  (rand4 (p.getD 0 0) (p.getD 1 0) (p.getD 2 0 + BitVec.ofNat 32 i) (p.getD 3 0)).getD 0 0

/-! ## Orthogonal accumulators -/

/-- The fields of a state word (Table 11.7). -/
structure OrthWord where
  word : Word
  deriving DecidableEq, Repr

def OrthWord.count (w : OrthWord) : Nat := bits w.word.toNat 0 6
def OrthWord.cap (w : OrthWord) : Nat := bits w.word.toNat 8 6
def OrthWord.folded (w : OrthWord) : Bool := bit w.word.toNat 16
def OrthWord.policy (w : OrthWord) : Nat := bits w.word.toNat 17 2

/-- A state word of its fields. -/
def orthWord (policy : Nat) (folded : Bool) (cap count : Nat) : Word :=
  BitVec.ofNat 32 (policy * 2 ^ 17 + folded.toNat * 2 ^ 16 + cap * 2 ^ 8 + count)

/-- Every field of a state word is in its range, with or without a tile tB (R278). -/
def OrthWord.valid (w : OrthWord) (hasB : Bool) : Bool :=
  let n := w.word.toNat
  bits n 19 13 == 0 && bits n 14 2 == 0 && bits n 6 2 == 0 && 1 ≤ w.cap && w.cap ≤ 32 && w.count ≤ w.cap && w.policy != 3
    && ((w.policy != 0 && !w.folded) || hasB)

/-- V as columns 0 to `k` - 1, by rows (R277). -/
def orthV (tA : Mat) (k : Nat) : Mat := tA.map (fun r => r.take k)

/-- T as its upper triangle, zero below the diagonal (R278). -/
def orthT (tA : Mat) (k : Nat) : Mat :=
  (List.range k).map (fun i => (List.range k).map (fun j => if i ≤ j then tA.at i (32 + j) else 0))

/-- A tile tA of columns V, upper triangle T and a state word (Table 11.6): the elements of tA that are not V or T stay
as they are. -/
def clearVT (tA : Mat) (w : Word) : Mat :=
  tA.zipIdx.map (fun (r, i) => r.zipIdx.map (fun (x, j) =>
    if j < 32 || i < 32 then 0 else if i == 32 && j == 32 then w else x))

/-- What an operation of the ORTH family leaves: tA, D when tB is written, and flags. -/
structure OrthOut where
  tA : Mat
  tB : Option Mat := none
  flags : Flags := 0

/-- QFOLD (R282). -/
def qfold (mode : Nat) (tA : Mat) (tB : Mat) (w : OrthWord) : OrthOut :=
  let k := w.count
  let cleared := clearVT tA (orthWord w.policy true w.cap 0)
  if k == 0 then { tA := cleared, tB := some (if w.folded then tB else Mat.identity) }
  else
    let v := orthV tA k
    let t := orthT tA k
    let (p, f1) := if w.folded then Mat.mulRnd mode tB (v.transpose k) else (v, 0)
    let (u, f2) := Mat.mulRnd mode t v
    let (d, f3) := Mat.subRnd mode (if w.folded then tB else Mat.identity) p (u.transpose 64)
    { tA := cleared, tB := some d, flags := f1 ||| f2 ||| f3 }

/-- QACC on a slot that has room (R280). -/
def qappend (mode : Nat) (tA : Mat) (w : OrthWord) (v : List Word) (tau : Word) : OrthOut :=
  let k := w.count
  let vs := orthV tA k
  let t := orthT tA k
  let (z, f1) := Mat.mulRnd mode (vs.transpose k) [v]
  let (y, f2) := Mat.mulRnd mode t (z.transpose 1)
  let col := y.map (fun r => Fp.roundVal Fp.fp32 mode 0 (Fp.mul (Fp.val32 tau) (Fp.val32 (r.getD 0 0))).negate)
  let tA := tA.zipIdx.map (fun (r, i) => r.zipIdx.map (fun (x, j) =>
    if j == k then v.getD i 0
    else if j == 32 + k && i == k then tau
    else if j == 32 + k && i < k then BitVec.ofNat 32 (col.getD i (0, 0)).1
    else if i == 32 && j == 32 then orthWord w.policy w.folded w.cap (k + 1) else x))
  { tA := tA, flags := f1 ||| f2 ||| orFlags (col.map (·.2)) }

/-- QAPL and QAPR (R281) on a matrix of `n` columns; `d` is the base when folded. -/
def qapply (mode : Nat) (left tr : Bool) (tA : Mat) (d : Option Mat) (k : Nat) (x : Mat) (n : Nat) : Mat × Flags :=
  let v := orthV tA k
  let t := orthT tA k
  let vt := v.transpose k
  let tt := t.transpose k
  match left, tr with
  | true, false =>
    let (y, f) := if k == 0 then (x, 0) else
      let (w1, f1) := Mat.mulRnd mode vt (x.transpose n)
      let (w2, f2) := Mat.mulRnd mode t (w1.transpose n)
      let (y, f3) := Mat.subRnd mode x v (w2.transpose n)
      (y, f1 ||| f2 ||| f3)
    match d with
    | none => (y, f)
    | some d => let (r, g) := Mat.mulRnd mode d (y.transpose n); (r, f ||| g)
  | true, true =>
    let (y, f) := match d with
      | none => (x, 0)
      | some d => Mat.mulRnd mode (d.transpose 64) (x.transpose n)
    if k == 0 then (y, f) else
      let (w1, f1) := Mat.mulRnd mode vt (y.transpose n)
      let (w2, f2) := Mat.mulRnd mode tt (w1.transpose n)
      let (r, f3) := Mat.subRnd mode y v (w2.transpose n)
      (r, f ||| f1 ||| f2 ||| f3)
  | false, false =>
    let (y, f) := match d with
      | none => (x, 0)
      | some d => Mat.mulRnd mode x (d.transpose 64)
    if k == 0 then (y, f) else
      let (w1, f1) := Mat.mulRnd mode y vt
      let (w2, f2) := Mat.mulRnd mode w1 tt
      let (r, f3) := Mat.subRnd mode y w2 v
      (r, f ||| f1 ||| f2 ||| f3)
  | false, true =>
    let (y, f) := if k == 0 then (x, 0) else
      let (w1, f1) := Mat.mulRnd mode x vt
      let (w2, f2) := Mat.mulRnd mode w1 t
      let (y, f3) := Mat.subRnd mode x w2 v
      (y, f1 ||| f2 ||| f3)
    match d with
    | none => (y, f)
    | some d => let (r, g) := Mat.mulRnd mode y d; (r, f ||| g)

/-- HHGEN (R284): the reflector, τ and β, with flags. -/
def hhgen (mode : Nat) (x : List Word) (j : Nat) : List Word × Word × Word × Flags :=
  let w := fun (r : Nat × Flags) => BitVec.ofNat 32 r.1
  let alpha := x.getD j 0
  let av := Fp.val32 alpha
  let tail := (List.range 64).filter (j < ·)
  let sq := tail.map (fun i => let v := Fp.val32 (x.getD i 0); Fp.mul v v)
  let sigma := Fp.roundSum Fp.fp32 mode sq
  let lane := fun (f : Nat → Word) => (List.range 64).map (fun i => if i < j then 0 else if i == j then 0x3F800000 else f i)
  if (Fp.val32 (w sigma)).isZero then (lane (fun _ => 0), 0, if av.isNan then 0x7FC00000 else alpha, sigma.2)
  else
    let mu := Fp.sqrt Fp.fp32 mode (Fp.sum mode [Fp.mul av av, Fp.val32 (w sigma)])
    let beta : Word :=
      if (Fp.val32 (w mu)).isNan then 0x7FC00000 else if bit alpha.toNat 31 then w mu else w mu ^^^ 0x80000000
    let bv := Fp.val32 beta
    let div := Fp.sum mode [av, bv.negate]
    let vs := tail.map (fun i => Fp.div Fp.fp32 mode (Fp.val32 (x.getD i 0)) div)
    let tau := Fp.div Fp.fp32 mode (Fp.sum mode [bv, av.negate]) bv
    (lane (fun i => w (vs.getD (i - j - 1) (0, 0))), w tau, beta,
      sigma.2 ||| mu.2 ||| orFlags (vs.map (·.2)) ||| tau.2)

end Sys2Proof.Machine
end

