-- ==== Sys2Proof/Machine/Engine.lean ====
section
/-! DEFINITION. The quad engine: the reservation table, the arbiter, leases, and what each operation does when the engine
performs it (11 R258, R261 to R276, R278; 05 R130; 14 R292, R293). -/

namespace Sys2Proof.Machine

/-! ## The table (R264) -/

/-- The engine of a quad. -/
def State.engine (s : State) (quad : Nat) : Engine := lookupD s.engines quad {}

/-- Applies a function to the engine of a quad. -/
def State.modEngine (s : State) (quad : Nat) (f : Engine → Engine) : State :=
  { s with engines := insertKey s.engines quad (f (s.engine quad)) }

/-- A team has a core in a quad. -/
def Team.inQuad (t : Team) (quad : Nat) : Bool := !t.saved && quadOf t.core == quad

/-- The groups that held for the engine of a quad issue again. DEDUCED, log entry 83. -/
def State.unretryQuad (s : State) (quad : Nat) : State :=
  { s with teams := s.teams.map (fun t => if t.inQuad quad then t.mapGroups Group.unretry else t) }

/-- The entries that a district holds in a table. -/
def State.districtEntries (s : State) (e : Engine) (district : Nat) : Nat :=
  (e.entries.filter (fun x => ((s.team? (teamOf x.group)).map (·.district)) == some district)).length

/-- The table of an engine has an entry that a district may take: 64 entries, and the district's weight of them.
DEDUCED, log entry 83. -/
def State.tableRoom (s : State) (quad district : Nat) : Bool :=
  let e := s.engine quad
  e.entries.length < 64
    && s.districtEntries e district < ((s.districts[district]?).map (·.quota.engineWeight)).getD 0

/-- The lease of an engine belongs to a team. -/
def Engine.leasedTo (e : Engine) (t : TeamRef) : Bool :=
  match e.lease with
  | some l => l.1 = t
  | none => false

/-- The binding that a q slot of a group's core will have once the group's own entries are performed; those of other groups are
not ordered with them (R130, R292). -/
def State.bindOf (s : State) (g : GroupRef) (core idx q : Nat) : Option QBind :=
  (s.engine (quadOf core)).entries.foldl (fun r e =>
    if e.group = g && e.core == core then
      match e.op with
      | .qinit q' a b _ _ => if q' == q then some { tA := a, tB := b } else r
      | _ => r
    else r) (((s.shareOf (teamOf g) idx).qs.find? (fun e => e.1 == q)).map (·.2))

/-- The tiles of a binding. -/
def QBind.tiles (b : QBind) : List Nat := b.tA :: b.tB.toList

/-! ## Slabs (R257, R258) -/

/-- A row of `n` bytes at a scratch address with SKEW spans two regions (R258, Table 19.1). DEDUCED, log entry 46. -/
def Desc.rowSpans (d : Desc) (a n : Nat) : Bool :=
  bit a 20 && n != 0 && d.regionOf (bits a 0 20) != d.regionOf (bits a 0 20 + n - 1)

/-- The places of a row in scratchpad, which lies in one region (R258). -/
def State.scratchRow (s : State) (l : Launch) (core a n : Nat) : Except LocErr (List Loc) :=
  match s.scratchLocs l core a n with
  | .ok ls => if l.desc.rowSpans a n then .error { code := 0x24, inner := 1 } else .ok ls
  | .error e => .error e

/-- The places of row `r` of the slab at a scratch address. -/
def State.slabRow (s : State) (l : Launch) (core a r : Nat) : Except LocErr (List Loc) :=
  let o := bits a 0 20 + 256 * r
  if 2 ^ 20 < o + 64 then
    (if bits a 28 4 != 0 || (!bit a 27 && bits a 21 6 != 0) then .error { code := 0x23, inner := 4 }
     else .error { code := 0x23, inner := 2 })
  else s.scratchRow l core (a - bits a 0 20 + o) 64

/-- The places of a row of an MLD or MST, or the error of the row with the address that it names. -/
def State.epRow (s : State) (l : Launch) (core : Nat) (ep : Dword) (off n need : Nat) : Except (Nat × LocErr) (List Loc) :=
  match s.epErr l core ep off n need with
  | some e => .error e
  | none =>
    if isScratchEp ep && l.desc.rowSpans (epAddr ep off) n then .error (epAddr ep off, { code := 0x24, inner := 1 })
    else .ok (s.epPlaces l core ep off n need)

/-- The places of the rows of an MLD or MST, as far as they have one. -/
def State.rowPlaces (s : State) (l : Launch) (core : Nat) (ep : Dword) (pitch : Nat) (fmt : ElemFmt) (need : Nat) : List Loc :=
  (List.range 64).flatMap (fun r => (List.range (8 * fmt.width / 32)).flatMap (fun i =>
    s.epPlaces l core ep (r * pitch + 32 * i) 1 need))

/-- The first error of the rows of a slab, in the order of R373. -/
def State.slabErr (s : State) (l : Launch) (core a : Nat) : Option LocErr :=
  if a % 64 != 0 then some { code := 0x22, inner := 64 }
  else ((firstErr ((List.range 64).filterMap (fun r => match s.slabRow l core a r with
    | .error e => some (a, none, e)
    | .ok _ => none))).map (·.2.2))

/-- The places of the rows of a slab. -/
def State.slabLocs (s : State) (l : Launch) (core a : Nat) : List (List Loc) :=
  (List.range 64).map (fun r => match s.slabRow l core a r with
    | .ok ls => ls
    | .error _ => [])

/-! ## Tiles -/

/-- The 4,096 words of a tile; those that are not listed are zero. -/
def CoreShare.tile (c : CoreShare) (t : Nat) : List Word :=
  let ws := lookupD c.tiles t []
  (ws ++ List.replicate (4096 - ws.length) 0).take 4096

/-- Replaces a tile: its elements are written whole, so that marks end (R380). -/
def CoreShare.putTile (c : CoreShare) (t : Nat) (ws : List Word) : CoreShare :=
  { c with tiles := insertKey c.tiles t ws, tilePoison := c.tilePoison.filter (fun i => i / 4096 != t) }

/-- The undo-log entries of a whole tile. -/
def tileLogs (idx t : Nat) : List LogKey := (List.range 64).map (fun r => .tileRow idx t r)

/-- An engine operation writes a tile of its team as one step. -/
def State.writeTile (s : State) (r : TeamRef) (idx t : Nat) (ws : List Word) : State :=
  s.modTeam r (fun m => (m.modShare idx (fun c => c.putTile t ws)).addLog (tileLogs idx t))

/-- The first poisoned element of some of a tile (R380), as the fault of the operation that reads it. -/
def State.tilePoisoned (s : State) (r : TeamRef) (core idx t : Nat) (elems : List Nat) : Option FaultInfo :=
  let marks := (s.shareOf r idx).tilePoison
  if marks.isEmpty then none
  else (elems.find? (fun i => marks.contains (4096 * t + i))).map (fun i =>
    { code := 0x30, inner := 5
      address := BitVec.ofNat 64 (Config.windowBase + core * 2 ^ 32 + 2 * 2 ^ 28 + 16384 * t + 4 * i) })

/-- Every element of a tile. -/
def allElems : List Nat := List.range 4096

/-- The elements of tA that an operation on `k` reflectors reads (R278). -/
def orthElems (k : Nat) : List Nat :=
  stateElem :: (List.range 64).flatMap (fun r =>
    (List.range k).map (fun i => 64 * r + i)
      ++ (if r < k then ((List.range k).filter (r ≤ ·)).map (fun j => 64 * r + 32 + j) else []))

/-! ## Performing an operation -/

/-- What the engine finds when it performs an operation: the state with the effect, the failure, or a translation that
waits for an entry, with its address and level and the row that waits for it (R374). -/
structure Performed where
  s : State
  fail : Option FaultInfo := none
  replay : Option (Nat × Nat) := none
  row : Nat := 0

/-- An operation that has failed without an effect. -/
def State.failed (s : State) (f : FaultInfo) : Performed := { s := s, fail := some f }

/-- ORs flags into a group's sticky flags (R269). -/
def State.orFlagsOf (s : State) (g : GroupRef) (f : Flags) : State := s.modGroup g (fun x => { x with flags := x.flags ||| f })

/-- Writes lanes of a v register of a group with tag G, and logs its rows. -/
def State.putLanes (s : State) (g : GroupRef) (code : Byte) (vals : List Word) (exec : Mask) : State :=
  s.modTeam (teamOf g) (fun t => (t.modGroup g.part g.grp (fun x =>
    x.setReg code { (x.reg code).setLanes x.width (fun l => if laneBit exec l then some (vals.getD l 0) else none) with
      tag := .g })).addLog (regRows g.part g.grp code 64 exec))

/-- Writes an s register of a group with tag U. -/
def State.putScalar (s : State) (g : GroupRef) (code : Byte) (v : Word) : State :=
  s.modGroup g (fun x => x.setReg code ((x.reg code).writeWhole { tag := .u, base := v }))

/-- The state word of a q slot in a share. -/
def CoreShare.orth (c : CoreShare) (b : QBind) : OrthWord := { word := c.tileWord b.tA stateElem }

/-- A fault of an ORTH operation (Table 18.2). -/
def orthFault (code q : Nat) (w : Word) (lanes : Mask) : FaultInfo :=
  { code := code, inner := 0xC2 + q, address := w.zeroExtend 64, lanes := lanes }

/-- The slot of an ORTH operation, checked when the engine performs it (R278). -/
def State.orthSlot (s : State) (e : EngEntry) (idx q : Nat) : Except FaultInfo (QBind × OrthWord) :=
  let sh := s.shareOf (teamOf e.group) idx
  match (sh.qs.find? (fun x => x.1 == q)).map (·.2) with
  | none => .error (orthFault 0x11 q 0 e.lanes)
  | some b =>
    let w := sh.orth b
    if w.valid b.tB.isSome then .ok (b, w) else .error (orthFault 0x11 q w.word e.lanes)

/-- Runs an ORTH operation on a valid slot whose elements that it reads are clean. -/
def State.withSlot (s : State) (e : EngEntry) (idx q : Nat) (readsA : OrthWord → List Nat) (readsB : OrthWord → Bool)
    (f : QBind → OrthWord → Performed) : Performed :=
  match s.orthSlot e idx q with
  | .error x => s.failed x
  | .ok (b, w) =>
    let r := teamOf e.group
    let bad := (s.tilePoisoned r e.core idx b.tA (readsA w)).orElse (fun _ =>
      if readsB w then b.tB.bind (fun t => s.tilePoisoned r e.core idx t allElems) else none)
    match bad with
    | some x => s.failed x
    | none => f b w

/-- The rows of a tile of the team of an entry. -/
def State.rowsAt (s : State) (e : EngEntry) (idx t : Nat) : Mat := tileRows ((s.shareOf (teamOf e.group) idx).tile t)

/-- Writes what an ORTH operation leaves in the tiles of its slot. -/
def State.putOrth (s : State) (e : EngEntry) (idx : Nat) (b : QBind) (o : OrthOut) : State :=
  let s := s.writeTile (teamOf e.group) idx b.tA o.tA.flatten
  let s := match o.tB, b.tB with
    | some m, some t => s.writeTile (teamOf e.group) idx t m.flatten
    | _, _ => s
  s.orFlagsOf e.group o.flags

/-- Moves the rows of MLD or MST in ascending order until one fails (R273). `row` gives the bytes' places and does the
row; it answers with the number, the address and the error of a row that cannot be moved. -/
def moveRows (row : Nat → State → Except (Nat × LocErr) State) : List Nat → State → State × Option (Nat × Nat × LocErr)
  | [], s => (s, none)
  | r :: rs, s => match row r s with
    | .error e => (s, some (r, e))
    | .ok s => moveRows row rs s

/-- The outcome of moved rows: the operation goes on at a row that waits for a translation (R374). -/
def rowsDone (before : State) (l : Launch) (core : Nat) (dest : Bool) (r : State × Option (Nat × Nat × LocErr)) : Performed :=
  match r.2 with
  | none => { s := r.1 }
  | some (i, a, x) =>
    if x.replay then { s := r.1, replay := some (a, x.inner), row := i }
    else { s := r.1, fail := some (before.asyncInfo l core a (if dest then some a else none) x) }

/-- The error of a row that reaches over a link which has not answered in time: LINK (chapter 19, Links). -/
def lateRow (late : Bool) (ep : Dword) (off : Nat) (ls : List Loc) : Option (Nat × LocErr) :=
  if late then (ls.zipIdx.find? (·.1.remote)).map (fun p => (epAddr ep (off + p.2), { code := 0x32, inner := 1 })) else none

/-- MLD (R271). A row of poisoned places, or one that meets an error, fails with the fault that consuming them is. -/
def State.mld (s : State) (l : Launch) (e : EngEntry) (idx t : Nat) (ep : Dword) (pitch : Nat) (fmt : ElemFmt)
    (err : Option DataErr) (late : Bool) : Performed :=
  let n := 8 * fmt.width
  let row := fun (r : Nat) (st : State) =>
    match st.epRow l e.core ep (r * pitch) n 1 with
    | .error x => .error x
    | .ok ls => match lateRow late ep (r * pitch) ls with
     | some x => .error x
     | none =>
      let va := epAddr ep (r * pitch)
      match (err.bind (st.errFault l.num e.core ls va)).orElse (fun _ => st.consume e.core ls va 0) with
      | some f => .error (f.address.toNat, { code := f.code, inner := f.inner })
      | none =>
        let ws := fmt.loadRow (ls.map st.readLoc)
        let old := (st.shareOf (teamOf e.group) idx).tile t
        .ok (st.modTeam (teamOf e.group) (fun m => (m.modShare idx (fun c =>
          { c with tiles := insertKey c.tiles t (old.take (64 * r) ++ ws ++ old.drop (64 * r + 64))
                   tilePoison := c.tilePoison.filter (fun i => i / 64 != 64 * t + r) })).addLog [.tileRow idx t r]))
  rowsDone s l e.core false (moveRows row ((List.range 64).drop e.row) s)

/-- MST (R271, R272). -/
def State.mst (s : State) (l : Launch) (e : EngEntry) (idx t : Nat) (ep : Dword) (pitch : Nat) (fmt : ElemFmt) (round : Nat)
    (sr : List Word) (late : Bool) : Performed :=
  let n := 8 * fmt.width
  let rows := s.rowsAt e idx t
  let row := fun (r : Nat) (st : State) =>
    match st.epRow l e.core ep (r * pitch) n 2 with
    | .error x => .error x
    | .ok ls => match lateRow late ep (r * pitch) ls, st.tilePoisoned (teamOf e.group) e.core idx t ((List.range 64).map (64 * r + ·)) with
      | some x, _ => .error x
      | none, some f => .error (f.address.toNat, { code := f.code, inner := f.inner })
      | none, none =>
        let o := fmt.storeRow round (rowRand sr r) (rows.getD r [])
        .ok ((st.performBytes (some (teamOf e.group)) (bytesAt ls o.1)).orFlagsOf e.group o.2)
  rowsDone s l e.core true (moveRows row ((List.range 64).drop e.row) s)

/-- Performs the operation of an entry as one step, with an error that it met, or as far as a link that has not answered lets it
(R130). DEDUCED, log entry 18. -/
def State.performOp (s : State) (e : EngEntry) (err : Option DataErr := none) (late : Bool := false) : Performed :=
  match s.team? (teamOf e.group), s.launch? e.group.launch with
  | some t, some l =>
    let r := t.ref
    let idx := e.core - t.core
    match e.op with
    | .mlease _ => { s := s }
    | .mma d a b fa fb scales sel round =>
      match firstErr ((s.slabErr l e.core a.toNat).toList.map (fun x => (a.toNat, none, x))
          ++ (s.slabErr l e.core b.toNat).toList.map (fun x => (b.toNat, none, x))) with
      | some (x, _, f) => s.failed (s.asyncInfo l e.core x none f)
      | none =>
        let la := s.slabLocs l e.core a.toNat
        let lb := s.slabLocs l e.core b.toNat
        match ((s.consume e.core la.flatten a.toNat 0).orElse (fun _ => s.consume e.core lb.flatten b.toNat 0)).orElse
            (fun _ => s.tilePoisoned r e.core idx d allElems) with
        | some f => s.failed f
        | none =>
          let o := pass round fa fb sel scales (s.rowsAt e idx d) (la.map (fun x => x.map s.readLoc)) (lb.map (fun x => x.map s.readLoc))
          { s := (s.writeTile r idx d o.1.flatten).orFlagsOf e.group o.2 }
    | .mzero d => { s := s.writeTile r idx d (List.replicate 4096 0) }
    | .mld d ep pitch fmt => s.mld l e idx d ep pitch fmt err late
    | .mst d ep pitch fmt round sr => s.mst l e idx d ep pitch fmt round sr late
    | .mcol v d c exec =>
      let ws := (s.shareOf r idx).tile d
      let marks := (s.shareOf r idx).tilePoison
      let vals := (lanesOf 64 exec).map (fun i =>
        (i, ws.getD (64 * i + c) 0, if marks.contains (4096 * d + 64 * i + c) then some 0 else none))
      { s := s.modGroup e.group (fun g => { g with
          ld := g.ld.map (fun o => if o.seq = e.seq then { o with delivers := [.lanes v vals], engine := false } else o) }) }
    | .mput d vals c =>
      let ws := (s.shareOf r idx).tile d
      let marks := (s.shareOf r idx).tilePoison.filter (fun i => !(i / 4096 == d && i % 64 == c))
      { s := s.modTeam r (fun m => (m.modShare idx (fun h =>
          { h with tiles := insertKey h.tiles d (ws.zipIdx.map (fun (x, i) => if i % 64 == c then vals.getD (i / 64) 0 else x))
                   tilePoison := marks })).addLog (tileLogs idx d)) }
    | .qinit q tA tB cap policy =>
      let ws := (List.replicate 4096 (0 : Word)).set stateElem (orthWord policy false cap 0)
      let s := s.writeTile r idx tA ws
      { s := s.modTeam r (fun m => m.modShare idx (fun c => { c with qs := insertKey c.qs q { tA := tA, tB := tB } })) }
    | .qacc q vals tau round =>
      s.withSlot e idx q (fun w => if w.count == w.cap && w.policy != 0 then [stateElem] else orthElems w.count)
        (fun w => w.count == w.cap && w.policy == 0 && w.folded) (fun b w =>
        let tA := s.rowsAt e idx b.tA
        if w.count == w.cap then
          match w.policy with
          | 0 =>
            let o := qfold round tA ((b.tB.map (s.rowsAt e idx)).getD []) w
            let p := qappend round o.tA { word := orthWord 0 true w.cap 0 } vals tau
            { s := s.putOrth e idx b { tA := p.tA, tB := o.tB, flags := o.flags ||| p.flags } }
          | 2 =>
            let w0 := orthWord 2 w.folded w.cap 0
            { s := s.putOrth e idx b (qappend round (clearVT tA w0) { word := w0 } vals tau) }
          | _ => s.failed (orthFault 0x10 q w.word e.lanes)
        else { s := s.putOrth e idx b (qappend round tA w vals tau) })
    | .qapTile left x q tr round =>
      s.withSlot e idx q (fun w => orthElems w.count) (·.folded) (fun b w =>
        match s.tilePoisoned r e.core idx x allElems with
        | some f => s.failed f
        | none =>
          let d := if w.folded then b.tB.map (s.rowsAt e idx) else none
          let o := qapply round left tr (s.rowsAt e idx b.tA) d w.count (s.rowsAt e idx x) 64
          { s := (s.writeTile r idx x o.1.flatten).orFlagsOf e.group o.2 })
    | .qapReg left v vals exec q tr round =>
      s.withSlot e idx q (fun w => orthElems w.count) (·.folded) (fun b w =>
        let d := if w.folded then b.tB.map (s.rowsAt e idx) else none
        let x : Mat := if left then vals.map (fun y => [y]) else [vals]
        let o := qapply round left tr (s.rowsAt e idx b.tA) d w.count x (if left then 1 else 64)
        { s := (s.putLanes e.group v o.1.flatten exec).orFlagsOf e.group o.2 })
    | .qfold q round =>
      s.withSlot e idx q (fun w => orthElems w.count) (·.folded) (fun b w =>
        match b.tB with
        | none => s.failed (orthFault 0x11 q w.word e.lanes)
        | some t => { s := s.putOrth e idx b (qfold round (s.rowsAt e idx b.tA) (s.rowsAt e idx t) w) })
    | .qstat d q =>
      let sh := s.shareOf r idx
      let b := (sh.qs.find? (fun x => x.1 == q)).map (·.2)
      let w := (b.map (fun b => (sh.orth b).word)).getD 0
      let bad := (b.bind (fun b => s.tilePoisoned r e.core idx b.tA [stateElem])).isSome
      { s := s.modGroup e.group (fun g => { g with
          ld := g.ld.map (fun o => if o.seq = e.seq then
            { o with delivers := [.whole d { tag := .u, base := w, poison := if bad then 1 else 0 }], engine := false } else o) }) }
    | .qclr q =>
      s.withSlot e idx q (fun _ => [stateElem]) (fun _ => false) (fun b w =>
        { s := s.putOrth e idx b { tA := clearVT (s.rowsAt e idx b.tA) (orthWord w.policy false w.cap 0) } })
    | .hhgen v vals exec j sT round =>
      let h := hhgen round vals j
      let s := s.putLanes e.group v h.1 exec
      let s := (s.putScalar e.group sT h.2.1).putScalar e.group (sT + 1) h.2.2.1
      { s := s.orFlagsOf e.group h.2.2.2 }
  | _, _ => { s := s }

/-! ## The arbiter and leases (R265, R266) -/

/-- The operation reads memory or scratchpad when the engine performs it, or writes it: it comes after the stores that its
group issued before it (R127, R130). -/
def EngOp.touchesMemory : EngOp → Bool
  | .mma _ _ _ _ _ _ _ _ => true
  | .mld _ _ _ _ => true
  | .mst _ _ _ _ _ _ => true
  | _ => false

/-- The q slot that an operation names. -/
def EngOp.slot : EngOp → Option Nat
  | .qacc q _ _ _ => some q
  | .qapTile _ _ q _ _ => some q
  | .qapReg _ _ _ _ q _ _ => some q
  | .qfold q _ => some q
  | .qstat _ q => some q
  | .qclr q => some q
  | _ => none

/-- The tiles that an entry is an operation on: those that it named at issue, and those to which its slot is bound now (R292). -/
def State.entryTiles (s : State) (e : EngEntry) : List Nat :=
  match s.team? (teamOf e.group), e.op.slot with
  | some t, some q => e.tiles ++ ((((s.shareOf t.ref (e.core - t.core)).qs.find? (fun x => x.1 == q)).map (·.2.tiles)).getD [])
  | _, _ => e.tiles

/-- An entry is eligible (R265); one that a rollback removes is not (R276), unless the rollback waits for a camp, which waits for
the entry (R82, R322). -/
def State.eligible (s : State) (g : Engine) (e : EngEntry) : Bool :=
  let tileFree := g.entries.all (fun x => !(x.group = e.group && x.age < e.age && (s.entryTiles x).any (s.entryTiles e).contains))
  let ready := !e.op.touchesMemory || (match s.group? e.group with
    | some gr => gr.st.all (fun o => o.done || e.seq < o.seq)
    | none => true)
  let goes := ((s.team? (teamOf e.group)).map (fun t => t.rollDue && !t.campBlocks)).getD false
  tileFree && ready && !goes && (g.lease.isNone || g.leasedTo (teamOf e.group))

/-- The team priority of an entry: its CLASS (R309). -/
def State.entryPrio (s : State) (e : EngEntry) : Nat := ((s.team? (teamOf e.group)).map (·.cls)).getD 7

/-- The entry that the arbiter starts: the eligible one of highest priority, then the oldest. -/
def State.arbiter (s : State) (g : Engine) : Option EngEntry :=
  (g.entries.filter (s.eligible g)).foldl (fun r e => match r with
    | none => some e
    | some b => if s.entryPrio e < s.entryPrio b || (s.entryPrio e == s.entryPrio b && e.age < b.age) then some e else some b) none

/-- Completes the TL operation of an entry in its group, or the failure of an LD one. -/
def State.finishOp (s : State) (e : EngEntry) (f : Option FaultInfo) : State :=
  s.modGroup e.group (fun g => { g with tl := g.tl.map (fun o => if o.seq = e.seq then { o with done := true, fail := f } else o) })

/-- ENGINE_OP_START: a free engine starts an entry; an MLEASE is granted and occupies it for no clocks.
DESIGN CHOICE, log entry 19. -/
def State.engineStart (s : State) (quad : Nat) : State :=
  let g := s.engine quad
  if g.busy.isSome then s
  else match s.arbiter g with
    | none => s
    | some e =>
      match e.op with
      | .mlease n =>
        ((s.modEngine quad (fun g => { g with
          entries := g.entries.filter (fun x => x.age != e.age), lease := some (teamOf e.group, n), idle := 0 })).finishOp e none).unretryQuad quad
      | _ => s.modEngine quad (fun g => { g with busy := some e.age, idle := 0, since := s.hostClk })

/-- The entry in progress leaves the engine; an operation of the leasing team counts one against its lease. -/
def Engine.retire (g : Engine) (e : EngEntry) : Engine :=
  { g with
    entries := g.entries.filter (fun x => x.age != e.age)
    busy := none
    idle := 0
    lease := match g.lease with
      | some (t, n) => if t = teamOf e.group then (if n ≤ 1 then none else some (t, n - 1)) else g.lease
      | none => none }

/-- An MCOL or QSTAT that failed has no data to deliver. -/
def State.failLd (s : State) (e : EngEntry) (f : FaultInfo) : State :=
  s.modGroup e.group (fun g => { g with ld := g.ld.map (fun o => if o.seq = e.seq then { o with engine := false, fail := some f } else o) })

/-- The operation in progress is complete, with or without a failure. -/
def State.engineEnd (s : State) (quad : Nat) (e : EngEntry) (f : Option FaultInfo) : State :=
  let s := (s.modEngine quad (·.retire e)).finishOp e f
  let s := match f with
    | some x => s.failLd e x
    | none => s
  let s := if e.outbound then s.irrevocable (teamOf e.group) else s
  s.unretryQuad quad

/-- The memory that the operation of an entry moves. -/
def State.movedPlaces (s : State) (l : Launch) (e : EngEntry) : List Loc :=
  match e.op with
  | .mld _ ep pitch fmt => s.rowPlaces l e.core ep pitch fmt 1
  | .mst _ ep pitch fmt _ _ => s.rowPlaces l e.core ep pitch fmt 2
  | _ => []

/-- The channels of some rows, and of the walks to them, are ready (R347). -/
def State.rowsReady (s : State) (l : Launch) (core : Nat) (ep : Dword) (pitch : Nat) (fmt : ElemFmt) (need : Nat) : Bool :=
  (List.range 64).all (fun r => (List.range (8 * fmt.width / 32)).all (fun i =>
    match s.epLocs l core ep (r * pitch + 32 * i) 1 need with
    | .ok ls => ls.all s.locReady
    | .error e => !e.wait))

/-- The channels of what the operation of an entry moves are ready (R347). -/
def State.moveReady (s : State) (l : Launch) (e : EngEntry) : Bool :=
  match e.op with
  | .mld _ ep pitch fmt => s.rowsReady l e.core ep pitch fmt 1
  | .mst _ ep pitch fmt _ _ => s.rowsReady l e.core ep pitch fmt 2
  | _ => true

/-- An MST is outbound when it writes into another team's state or memory of type system; one that writes another group's
register is a foreign write. A camp follows either (R79, R133, R135, R273). -/
def EngEntry.outboundBy (e : EngEntry) (ls : List Loc) : Bool :=
  match e.op with
  | .mst _ _ _ _ _ _ => e.outbound || ls.any (fun p => p.outward (teamOf e.group) || foreign e.group p)
  | _ => e.outbound

/-- A replayable translation failure of an engine operation writes its record once and waits at its row (R374).
DEDUCED, log entry 52. -/
def State.replayEngine (s : State) (quad : Nat) (t : Team) (e : EngEntry) (addr level row : Nat) (out : Bool) : State :=
  let info : FaultInfo := { code := 0x20, inner := level + 256, address := BitVec.ofNat 64 addr }
  (s.putRecord { recordOf t e.group e.pc info with unit := .engine }).modEngine quad (fun g => { g with entries := g.entries.map (fun x =>
    if x.age = e.age then
      { x with row := row, outbound := out, replay := some { clk := s.clk e.core, va := BitVec.ofNat 64 addr, level := level } }
    else x) })

/-- The operation in progress has been performed: it is complete, or it waits at a row. -/
def State.engineStep (s : State) (quad : Nat) (t : Team) (l : Launch) (e : EngEntry) (err : Option DataErr) (late : Bool) : State :=
  let out := e.outboundBy (s.movedPlaces l e)
  let p := s.performOp e err late
  match p.replay with
  | some (a, level) => p.s.replayEngine quad t e a level p.row out
  | none => p.s.engineEnd quad { e with outbound := out } p.fail

/-- ENGINE_OP_COMPLETE: the operation in progress is performed, with an error of a storage or link that it met, once the
channels of what it moves are ready (R347). DEDUCED, log entry 18; DESIGN CHOICE, log entry 19. -/
def State.engineDone (s : State) (quad : Nat) (err : Option DataErr) : State :=
  let g := s.engine quad
  match g.busy.bind (fun a => g.entries.find? (fun e => e.age == a)) with
  | none => s
  | some e =>
    if e.replay.isSome then s
    else match s.team? (teamOf e.group), s.launch? e.group.launch with
    | some t, some l =>
      if !s.moveReady l e then s
      else
        let s := match err with
          | some x => s.noteErr (teamOf e.group) e.core x
          | none => s
        s.engineStep quad t l e err false
    | _, _ => s

/-- LEASE_IDLE_TIMEOUT: no entry of the leasing team has been eligible for 64 engine clocks. -/
def State.leaseIdle (s : State) (quad : Nat) : State :=
  let g := s.engine quad
  if g.lease.isSome && 64 ≤ g.idle then s.modEngine quad (fun g => { g with lease := none, idle := 0 }) else s

/-- A clock of the engines of a cluster: the idle count of a lease (R266). An operation in progress is eligible. -/
def State.tickEngines (s : State) (cluster : Nat) : State :=
  { s with engines := s.engines.map (fun e =>
      if e.1 / 16 == cluster && e.2.lease.isSome then
        let busy := e.2.entries.any (fun x => e.2.leasedTo (teamOf x.group) && s.eligible e.2 x)
        (e.1, { e.2 with idle := if busy then 0 else e.2.idle + 1 })
      else e) }

/-- The team leaves the engine: its lease ends, and the entries not started that a test picks go (R266, R276); the groups
that wait for the table issue again (R264). -/
def State.leaveEngine (s : State) (t : TeamRef) (core : Nat) (drop : EngEntry → Bool) : State :=
  (s.modEngine (quadOf core) (fun g => { g with
    lease := if g.leasedTo t then none else g.lease
    entries := g.entries.filter (fun e => !(teamOf e.group = t && g.busy != some e.age && drop e)) })).unretryQuad (quadOf core)

/-! ## Issue -/

/-- Puts an operation into the table with its credit. -/
def Ctx.addEng (c : Ctx) (op : EngOp) (tiles : List Nat) (dests : List Byte) (logs : List LogKey) (sectors : List Nat)
    (outbound ld : Bool) (s : State) : State :=
  let quad := quadOf c.core
  let seq := c.group.nextSeq
  let age := (s.engine quad).nextAge
  let s := s.modEngine quad (fun g => { g with
    nextAge := age + 1
    entries := g.entries ++ [{ age := age, group := c.ref, core := c.core, seq := seq, pc := c.pc, op := op, tiles := tiles,
                               lanes := c.path.mask, outbound := outbound }] })
  if ld then
    c.addLd (dests.map (fun d => if clsOf d == .s then .whole d {} else .lanes d [])) s none true
  else s.modGroup c.ref (fun g => { g with
    tl := g.tl ++ [{ seq := seq, pc := c.pc, dests := dests, tiles := tiles, logs := logs, sectors := sectors }]
    nextSeq := seq + 1 })

/-- The hold of an engine operation: a full counter, or no entry that the group may take (R74, R264).
DEDUCED, log entry 83. -/
def Ctx.engHold (c : Ctx) (s : State) (cls : CreditClass) : Option Hold :=
  (c.counterHold cls).orElse (fun _ => if s.tableRoom (quadOf c.core) c.team.district then none else some .retry)

/-- PARTIAL_MASK of an engine operation on a divided group (R262). -/
def Ctx.divided (c : Ctx) : Option FaultInfo :=
  let off := c.live &&& ~~~c.path.mask
  if off == 0 then none else some { code := 0x07, inner := 1, lanes := off }

/-- OPERAND of an instruction that requires W = 64 (R262), named by a field. -/
def Ctx.need64 (c : Ctx) (field : Nat) : Option FaultInfo :=
  if c.group.width == 64 then none else some (c.pathFault 0x02 field)

/-- The poison of registers of which an engine operation reads every lane (R260, R274, R280, R281, R284). -/
def Ctx.wholePoison (c : Ctx) (codes : List Byte) : Option FaultInfo :=
  codes.findSome? (fun k =>
    let r := c.regOf k
    if r.poison == 0 then none else some (c.poisonFault k (lowLane (raising r.srcOf r.poison)) c.path.mask))

/-- The 64 lane words of a register. -/
def Ctx.lanes64 (c : Ctx) (code : Byte) : List Word := (List.range 64).map (fun l => c.read code l)

/-- The number of a tile or slot that a code names. -/
def tileNum (code : Byte) : Nat := code.toNat - 0xF0
def slotNum (code : Byte) : Nat := code.toNat - 0xC2

/-- A format that a code of an engine operation names (Table 7.14). -/
def Ctx.elemFmt (c : Ctx) (code : Nat) : ElemFmt :=
  if code < 8 then .std code else .record (c.group.fmt.getD (code - 8) 0)

/-- FORMAT_ILLFORMED of a format code. -/
def Ctx.codeFault (c : Ctx) (code : Nat) : Option FaultInfo := if code < 8 then none else c.formatFault (code - 8)

end Sys2Proof.Machine
end

