-- ==== Sys2Proof/WellFormed.lean ====
section
/-! DEFINITION. The instructions that the encoding rules allow (07 R151 to R167), as a Bool. -/

namespace Sys2Proof

open Sys2Proof.Machine

/-- The word and lowest bit of the first field of an instruction that breaks an encoding rule; `none` for an instruction
that every rule allows. The events of the table have no encoding. -/
def Instr.offence (i : Instr) : Option (Nat × Nat) :=
  match i with
  | .pfx m w r f next => if pfxNextOk next then illegalPfx m w r f 0 next else none
  | i =>
    match Instr.xParts i with
    | some (family, func, x) => illegalX family func x
    | none =>
      match Instr.bWord i with
      | some w => illegalB w
      | none =>
        match Instr.blParts i with
        | some (major, a, b, lit) => illegalBL ((1 : BitVec 2) ++ BitVec.ofNat 6 major ++ a ++ b ++ (0 : Byte)) lit
        | none => none

/-- An instruction with words, whose words break no encoding rule. PFX before a word it does not accept is well-formed:
its fate is the fault PREFIX (R157). -/
def Instr.wf (i : Instr) : Bool := i.offence.isNone

end Sys2Proof
end

