-- ==== Sys2Proof/Decode.lean ====
section
/-! DEFINITION. The decoder, total on any words, and the encoder (07 R149 to R167). -/

namespace Sys2Proof

open Sys2Proof.Machine

/-- What words at a PC stand for: an instruction of a number of words, or a word that is no instruction, with the word
and lowest bit that ILLEGAL_ENCODING reports (Table 18.2). -/
inductive Decoded where
  | instr (i : Instr) (len : Nat)
  | illegal (word lowBit : Nat)
  deriving DecidableEq, Repr

/-- The number of words of an instruction, from its first word (R149); PFX counts its B-form word (R157). -/
def instrLen (w0 : Word) : Nat :=
  match bits w0.toNat 30 2 with
  | 0 => if bits w0.toNat 24 6 == 0x3E then 2 else 1
  | 1 => 3
  | 2 => 3
  | _ => 5

/-- The fields of the three X-form words (Table 7.7). -/
def xFields (w0 w1 w2 : Word) (lit : Option Dword) : XF :=
  { d := w0.extractLsb' 16 8, a := w0.extractLsb' 8 8, b := w0.extractLsb' 0 8,
    c := w1.extractLsb' 24 8, apat := w1.extractLsb' 12 4, aparm := w1.extractLsb' 6 6, asub := w1.extractLsb' 2 4,
    wmode := w1.extractLsb' 0 2,
    bpat := w2.extractLsb' 28 4, bparm := w2.extractLsb' 22 6, bsub := w2.extractLsb' 18 4, mask := w2.extractLsb' 14 4,
    round := w2.extractLsb' 11 3, type := w2.extractLsb' 8 3, f := w2.extractLsb' 0 8, lit := lit }

/-- Decodes an X or XL instruction. -/
def decodeX (w0 w1 w2 : Word) (lit : Option Dword) : Decoded :=
  let family := bits w0.toNat 24 6
  let func := bits w1.toNat 16 8
  let x := xFields w0 w1 w2 lit
  match illegalX family func x, xInstr family func x with
  | some (w, b), _ => .illegal w b
  | none, some i => .instr i (if lit.isSome then 5 else 3)
  | none, none => .illegal 1 16

/-- Decodes a B-form word. -/
def decodeB (w0 : Word) : Decoded :=
  match illegalB w0, bInstr (bits w0.toNat 24 6) (w0.extractLsb' 16 8) (w0.extractLsb' 8 8) (w0.extractLsb' 0 8) with
  | some (w, b), _ => .illegal w b
  | none, some i => .instr i 1
  | none, none => .illegal 0 24

/-- Decodes a BL-form instruction. -/
def decodeBL (w0 : Word) (lit : Dword) : Decoded :=
  match illegalBL w0 lit, blInstr (bits w0.toNat 24 6) (w0.extractLsb' 16 8) (w0.extractLsb' 8 8) lit with
  | some (w, b), _ => .illegal w b
  | none, some i => .instr i 3
  | none, none => .illegal 0 30

/-- Decodes a PFX word and the word after it. -/
def decodePfx (w0 next : Word) : Decoded :=
  let m := w0.extractLsb' 20 4
  let w := w0.extractLsb' 18 2
  let r := w0.extractLsb' 15 3
  let f := w0.extractLsb' 7 8
  match (if pfxNextOk next then illegalPfx m w r f (bits w0.toNat 0 7) next else none) with
  | some (wd, b) => .illegal wd b
  | none => .instr (.pfx m w r f next) 2

/-- Decodes the words at a PC. Words past the instruction's own are not looked at. -/
def decodeWords (w0 w1 w2 w3 w4 : Word) : Decoded :=
  match bits w0.toNat 30 2 with
  | 0 => if bits w0.toNat 24 6 == 0x3E then decodePfx w0 w1 else decodeB w0
  | 1 => decodeBL w0 (w2 ++ w1)
  | 2 => decodeX w0 w1 w2 none
  | _ => decodeX w0 w1 w2 (some (w4 ++ w3))

/-- A little-endian word of a byte list (R4); bytes past the end are 0. -/
def wordAt (bs : List Byte) (i : Nat) : Word :=
  bs.getD (4 * i + 3) 0 ++ bs.getD (4 * i + 2) 0 ++ bs.getD (4 * i + 1) 0 ++ bs.getD (4 * i) 0

/-- Decodes the instruction at the front of any bytes. -/
def decode (bs : List Byte) : Decoded :=
  decodeWords (wordAt bs 0) (wordAt bs 1) (wordAt bs 2) (wordAt bs 3) (wordAt bs 4)

/-- The bytes of a word, lowest first (R4). -/
def wordBytes (w : Word) : List Byte := [w.extractLsb' 0 8, w.extractLsb' 8 8, w.extractLsb' 16 8, w.extractLsb' 24 8]

/-- The instruction that the decoder reads from a table word (bit 0 the least significant bit of the first word). -/
def decodeTableWord (nbits w : Nat) : Option Instr :=
  let word := fun i => BitVec.ofNat 32 (w % 2 ^ nbits / 2 ^ (32 * i))
  match decode (wordBytes (word 0) ++ wordBytes (word 1) ++ wordBytes (word 2) ++ wordBytes (word 3) ++ wordBytes (word 4)) with
  | .instr i _ => some i
  | .illegal _ _ => none

/-! ## The encoder -/

/-- The words of an X or XL instruction (Table 7.7, R149). -/
def encodeX (family func : Nat) (x : XF) : List Word :=
  let len : BitVec 2 := if x.lit.isSome then 3 else 2
  let w0 : Word := len ++ BitVec.ofNat 6 family ++ x.d ++ x.a ++ x.b
  let w1 : Word := x.c ++ BitVec.ofNat 8 func ++ x.apat ++ x.aparm ++ x.asub ++ x.wmode
  let w2 : Word := x.bpat ++ x.bparm ++ x.bsub ++ x.mask ++ x.round ++ x.type ++ x.f
  match x.lit with
  | none => [w0, w1, w2]
  | some l => [w0, w1, w2, l.extractLsb' 0 32, l.extractLsb' 32 32]

/-- The word of PFX (Table 7.6). -/
def wordPfx (m : BitVec 4) (w : BitVec 2) (r : BitVec 3) (f : Byte) : Word :=
  (0 : BitVec 2) ++ (0x3E : BitVec 6) ++ m ++ w ++ r ++ f ++ (0 : BitVec 7)

/-- The words of an instruction; an event has none. -/
def encode (i : Instr) : List Word :=
  match i with
  | .pfx m w r f next => [wordPfx m w r f, next]
  | i =>
    match Instr.xParts i with
    | some (family, func, x) => encodeX family func x
    | none =>
      match Instr.bWord i with
      | some w => [w]
      | none =>
        match Instr.blParts i with
        | some (major, a, b, lit) =>
          [(1 : BitVec 2) ++ BitVec.ofNat 6 major ++ a ++ b ++ (0 : Byte), lit.extractLsb' 0 32, lit.extractLsb' 32 32]
        | none => []

/-- The bytes of an instruction as they lie in memory (R149). -/
def encodeBytes (i : Instr) : List Byte := (encode i).flatMap wordBytes

end Sys2Proof
end

