-- ==== Sys2Proof/Machine/Place.lean ====
section
/-! DEFINITION. Team start (02 R24, R27, R31; 03 R64) and baton shares (16 R318, R324). -/

namespace Sys2Proof.Machine

/-- The belay register at team start (Table 7.21). -/
def Desc.belayOf (d : Desc) (g : Nat) : Byte :=
  if d.belay == 0x80 then (if d.groups == 1 then 0x21 else BitVec.ofNat 8 ((g + 1) % d.groups)) else BitVec.ofNat 8 d.belay

/-- A group at team start: one path at the entry with all lanes, READY, or HOLDING with baton `g` when `g < b`; that
one issues in the team's clock 0 (R286).
DESIGN CHOICE, log entry 3. -/
def newGroup (d : Desc) (b g clk : Nat) : Group :=
  { state := if g < b then .holding else .ready
    slot := if g < b then some g else none
    width := d.width, live := fullMask d.width, paths := [{ pc := d.entry, mask := fullMask d.width }]
    ks := List.replicate 16 {}, fmt := d.fmt, belay := d.belayOf g, readyAt := clk, heldSince := clk, prompt := decide (g < b) }

/-- A partition of a team at its start: batons 0 to `b - 1` to the groups in ascending order, the rest to the square
(R31). -/
def newPart (d : Desc) (b clk : Nat) : Part :=
  let n := min b d.groups
  { groups := (List.range d.groups).map (fun g => newGroup d b g clk)
    square := (List.range (b - n)).map (fun i => (n + i, clk))
    lastRecipient := n - 1 }

/-- A team at its start, with the camp that records it: scratchpad, tiles and slots are clear but for the arguments at
offset 0 of each core (R309). -/
def newTeam (l : Launch) (ref : TeamRef) (core share order clk : Nat) (args : List Byte := []) : Team :=
  let cur : TeamState :=
    { parts := List.replicate l.desc.parts (newPart l.desc share clk)
      cores := List.replicate (if l.desc.pair then 2 else 1) { scratch := cellWrites [] 0 args } }
  { ref := ref, core := core, pair := l.desc.pair, district := l.queue.district, cls := l.cls, share := share, campShare := share, order := order,
    cur := cur, camp := cur, lastCamp := clk }

/-! ## Shares -/

/-- The running teams that have a partition of a core, in the order in which the batons left over go to them: the lower
class, then the lower district, then the earlier admission (R318). -/
def teamBefore (a b : Team) (oa ob : Nat) : Bool :=
  a.cls < b.cls || (a.cls == b.cls && (a.district < b.district || (a.district == b.district && oa < ob)))

/-- The order of admission of a team's launch. -/
def State.admission (s : State) (t : Team) : Nat := ((s.launch? t.ref.launch).map (·.order)).getD 0

/-- The baton share of a team on a core (R318). -/
def State.shareOn (s : State) (t : Team) (core : Nat) : Nat :=
  let ts := s.teamsIn core
  let k := ts.length
  let rank := (ts.filter (fun u => u.ref ≠ t.ref && teamBefore u t (s.admission u) (s.admission t))).length
  if k == 0 then 4 else 4 / k + (if rank < 4 % k then 1 else 0)

/-- Takes a baton from a group (R324). -/
def Group.lose (g : Group) (b : Nat) : Group :=
  match g.slot with
  | none => g
  | some i => if i < b then g else
    { g with slot := none, state := match g.state with
        | .holding => .ready
        | .heldWaiting => .waiting
        | st => st }

/-- A partition takes a new share: fewer batons are taken from groups and the square, more go to the square (R324). A
share falls only while no rope is active. -/
def Part.reshare (q : Part) (old new clk : Nat) : Part :=
  if new < old then
    { q with
      groups := q.groups.map (fun g => g.lose new)
      square := q.square.filter (fun e => e.1 < new) }
  else { q with square := q.square ++ (List.range (new - old)).map (fun i => (old + i, clk + 1)) }

/-- Recomputes the shares of every running team (R318). -/
def State.reshare (s : State) : State :=
  { s with teams := s.teams.map (fun t =>
      if t.saved then t
      else
        let b := s.shareOn t t.core
        if b == t.share then t
        else { t.modCur (fun c => { c with parts := c.parts.map (fun q => q.reshare t.share b (s.clk t.core)) }) with share := b }) }

end Sys2Proof.Machine
end

