-- ==== Sys2Proof/Machine/Fetch.lean ====
section
/-! DEFINITION. Fetching and decoding the instruction of a group (07 R149 to R151), whether a group issues, and what a step
adds around an instruction. -/

namespace Sys2Proof.Machine

open Sys2Proof

/-- Bytes of an instruction in memory, as performed stores leave them; a fetch needs X of translated memory (R150, R339).
DEDUCED, log entry 22; DESIGN CHOICE, log entry 114. -/
def State.fetchWord (s : State) (l : Launch) (pc : Nat) : Except LocErr Word :=
  if isWindow pc then .error { code := 0x20, inner := 3 }
  else match s.vaLoc l pc 4 4 with
    | .error e => .error e
    | .ok a => .ok (BitVec.ofNat 32 (cellLe s.mem a.addr 4))

/-- What a fetch gives: an instruction of the table, the fault or wait of a word that cannot be fetched, or the PREFIX of
a PFX whose next word cannot be fetched (R157), or the wait for a channel (R347). -/
inductive Fetched where
  | instr (i : Instr)
  | illegal (word lowBit : Nat)
  | check (m : MemCheck)
  | noNext (addr : Dword)
  | wait
  deriving DecidableEq, Repr

/-- The channel of the word at an address is ready, or the word has no place (R347). -/
def State.wordReady (s : State) (l : Launch) (pc : Nat) : Bool :=
  match s.vaLoc l pc 4 4 with
  | .ok p => s.locReady p
  | .error e => !e.wait

/-- Fetches the words of the instruction at a PC, as many as its first word tells (R149). DEDUCED, log entry 23;
DESIGN CHOICE, log entry 93. -/
def State.fetch (s : State) (l : Launch) (pc : Dword) (lanes : Mask) : Fetched :=
  let at_ := fun (i : Nat) => (pc + BitVec.ofNat 64 (4 * i)).toNat
  let fail := fun (i : Nat) (e : LocErr) =>
    match memCheck [(0, at_ i, e)] with
    | .fault f => Fetched.check (.fault { f with lanes := lanes })
    | .replay f => Fetched.check (.replay { f with lanes := lanes })
    | .ok => Fetched.check .ok
    | .wait => Fetched.wait
  match s.fetchWord l (at_ 0) with
  | .error e => fail 0 e
  | .ok w0 =>
    let n := instrLen w0
    let pfx := n == 2
    let word := fun (i : Nat) => if i < n then s.fetchWord l (at_ i) else .ok 0
    if !(List.range n).all (fun i => s.wordReady l (at_ i)) then .wait
    else match word 1, word 2, word 3, word 4 with
    | .error e, _, _, _ => if pfx then .noNext (pc + 4) else fail 1 e
    | _, .error e, _, _ => fail 2 e
    | _, _, .error e, _ => fail 3 e
    | _, _, _, .error e => fail 4 e
    | .ok w1, .ok w2, .ok w3, .ok w4 =>
      match decodeWords w0 w1 w2 w3 w4 with
      | .instr i _ => .instr i
      | .illegal w b => .illegal w b

/-- Whether a group issues an instruction now (R29, R32, R74, R322, R355). A rope goes on while a camp is due, or a rollback that
waits for one or for its end (R54, R55); the instruction of a DBGSTEP comes before a rollback (R391); and a group that another
instruction of this clock has found FAULTED issues in it (R361). DEDUCED, log entry 8; DEDUCED, log entry 104. -/
def State.issues (s : State) (r : GroupRef) : Bool :=
  match s.team? (teamOf r), s.group? r with
  | some t, some g =>
    let holds := (g.state == .holding && !g.halted) || (g.state == .leaderSuspended && g.rope.isSome) || g.stepping
    !t.saved && holds && g.stop.isNone && g.hold.isNone
      && ((g.rope.isSome && !t.rollsBack) || (g.rope.isNone && !t.campBlocks && (!t.rollDue || g.stepping)) || s.doomed.contains r)
      && decide (g.readyAt ≤ s.clk (t.coreOf r.part)) && !s.ready.trip
  | _, _ => false

/-- The local clock of a partition of a team. -/
def State.partClk (s : State) (t : Team) (part : Nat) : Nat := s.clk (t.coreOf part)

/-- The groups of a partition of a team. -/
def Team.partGroups (t : Team) (part : Nat) : List (GroupRef × Group) := t.allGroups.filter (fun e => e.1.part == part)

/-- After the instruction of a DBGSTEP the group halts again, an event record is written, a camp falls due and the
command completes (R355). An instruction that holds has not been executed yet. -/
def State.afterStep (s : State) (r : GroupRef) : State :=
  match s.group? r with
  | none => s
  | some g =>
    match g.stepDue with
    | none => s
    | some (f, mb) =>
      if g.hold.isSome || g.rope.isSome then s
      else
        let s := s.modGroup r (fun g => { g with stepDue := none, halted := true })
        let s := match s.right? r.launch with
          | some d => s.groupEvent d 2 r
          | none => s
        (s.modTeam (teamOf r) (fun t => t.due .debug)).reply f mb 0

end Sys2Proof.Machine
end

