-- ==== Sys2Proof/Machine/Queue.lean ====
section
/-! DEFINITION. Queue control blocks, kicks, mapping and queue errors (16 R297 to R303, R307, R314; 21 R392). -/

namespace Sys2Proof.Machine

/-! ## The queue control block in memory (Table 16.1) -/

/-- The address space and the address of a queue's control block. DEDUCED, log entry 80. -/
def State.qcbAt (s : State) (k : QueueKey) : VSpace × Nat :=
  match s.vdev? (vkeyOfQ k) with
  | none => ({}, 0)
  | some v => (v.space, v.qcbTable.toNat + 256 * k.idx)

/-- The channels of a queue's control block, and of the walk to it, are ready (R347). DEDUCED, log entry 110. -/
def State.qcbReady (s : State) (k : QueueKey) : Bool := s.vready (s.qcbAt k).1 (s.qcbAt k).2 256

/-- The device's own part of a queue: what WAITPREV waits for. -/
def State.ownQueue (s : State) (k : QueueKey) : Queue := (s.queues.find? (fun q => q.key == k)).getD { key := k }

/-- A queue as its control block in memory has it. -/
def State.qcbRead (s : State) (k : QueueKey) : Queue :=
  let (sp, a) := s.qcbAt k
  let le := fun (off n : Nat) => s.vle sp (a + off) n
  let own := s.ownQueue k
  { own with
    ringBase := BitVec.ofNat 64 (le 0x00 8), ringSize := le 0x08 4, rdIdx := BitVec.ofNat 32 (le 0x0C 4)
    wrIdx := BitVec.ofNat 32 (le 0x10 4), prio := le 0x14 1, ageStep := le 0x15 1, age := le 0x16 1, state := le 0x17 1
    slot := none, entry := le 0x1C 1, errCode := le 0x1D 1, errField := le 0x1E 2, pkIdx := BitVec.ofNat 32 (le 0x20 4)
    condMask := BitVec.ofNat 16 (le 0x24 2), pkind := le 0x26 1, armLeft := le 0x27 1, skipLeft := le 0x28 1
    skipNow := if le 0x26 1 == 3 || le 0x27 1 != 0 then own.skipNow else 0
    placed := le 0x60 8, evicted := le 0x68 8, preempted := le 0x70 8, repaid := le 0x78 8, deferred := le 0x80 8
    admitted := le 0x88 8 }

/-- A queue: the live copy while it is mapped, else its control block. -/
def State.queue (s : State) (k : QueueKey) : Queue :=
  let own := s.ownQueue k
  if own.state == 3 then own else s.qcbRead k

/-- Keeps the device's copy of a queue. -/
def State.putQueue (s : State) (q : Queue) : State :=
  if s.queues.any (fun x => x.key == q.key) then
    { s with queues := s.queues.map (fun x => if x.key = q.key then q else x) }
  else { s with queues := s.queues ++ [q] }

/-- The fields of a queue that are in memory at any time: AGE, STATE, DISTRICT, VDEV and QIDX. -/
def State.noteQueue (s : State) (q : Queue) : State :=
  let (sp, a) := s.qcbAt q.key
  s.vwrite sp (a + 0x16) (leBytes q.age 1 ++ leBytes q.state 1 ++ leBytes q.key.district 1 ++ leBytes q.key.vdev 1
    ++ leBytes q.key.idx 1)

/-- Writes the device fields of a queue back to its control block. -/
def State.saveQueue (s : State) (q : Queue) : State :=
  let (sp, a) := s.qcbAt q.key
  let s := s.vwrite sp (a + 0x0C) (leBytes q.rdIdx.toNat 4)
  let s := s.noteQueue q
  let s := s.vwrite sp (a + 0x1B) (leBytes (q.slot.getD 0xFF) 1 ++ leBytes q.entry 1 ++ leBytes q.errCode 1
    ++ leBytes q.errField 2 ++ leBytes q.pkIdx.toNat 4 ++ leBytes q.condMask.toNat 2 ++ leBytes q.pkind 1
    ++ leBytes q.armLeft 1 ++ leBytes q.skipLeft 1)
  s.vwrite sp (a + 0x60) (leBytes q.placed 8 ++ leBytes q.evicted 8 ++ leBytes q.preempted 8 ++ leBytes q.repaid 8
    ++ leBytes q.deferred 8 ++ leBytes q.admitted 8)

/-- Keeps a queue: its live copy, and its control block when it is not mapped. -/
def State.setQueue (s : State) (q : Queue) : State :=
  let s := s.putQueue q
  if q.state == 3 then s else s.saveQueue q

/-- A queue has work (R297). -/
def Queue.hasWork (q : Queue) : Bool := q.rdIdx != q.wrIdx || q.pkind != 0

/-- The address of the packet slot of a ring index. -/
def Queue.slotAddr (q : Queue) (i : Word) : Nat := q.ringBase.toNat + 64 * (i.toNat % q.ringSize)

/-- The number in bytes `off` to `off + n - 1` of some bytes. -/
def fieldOf (bs : List Byte) (off n : Nat) : Nat := leNat ((bs.drop off).take n)

/-- Packets from RDIDX to WRIDX. -/
def Queue.backlog (q : Queue) : Nat := (q.wrIdx - q.rdIdx).toNat

/-- The 64 bytes of a packet. -/
def State.packetBytes (s : State) (q : Queue) (i : Word) : List Byte :=
  s.vread (s.spaceOfVdev (vkeyOfQ q.key)) (q.slotAddr i) 64

/-! ## Queue errors (R307, R392) -/

/-- The function of a virtual device. -/
def State.fnOf (s : State) (k : VdevKey) : Fn := ((s.vdev? k).map (·.fn)).getD { link := 0, num := 0 }

/-- A queue enters STATE 4: the QERROR entry and the interrupt on vector 63. It leaves its slot.
DEDUCED, log entry 81. -/
def State.queueError (s : State) (q : Queue) (code field : Nat) : State :=
  let e := { q with state := 4, errCode := code, errField := field, slot := none, waiting := false }
  let s := s.setQueue e
  let s := s.route (rbQueue q.key 10 0 (code + 256 * field) q.slot)
  s.sendIrq (s.fnOf (vkeyOfQ q.key)) 63

/-- Condition packets of a FENCE with `n` conditions. -/
def condPackets (n : Nat) : Nat := (n + 3) / 4

/-- Skips the packets that a PRED leaves out as soon as they are in the ring: the THEN arm before an ELSE arm that is taken, and
the ELSE arm once the THEN arm has run (R305). DEDUCED, log entry 63. -/
def Queue.skip (q : Queue) : Queue :=
  let n := min q.skipNow q.backlog
  let q := { q with rdIdx := q.rdIdx + BitVec.ofNat 32 n, skipNow := q.skipNow - n }
  if q.pkind == 3 && q.armLeft == 0 then
    let m := min q.skipLeft q.backlog
    let q := { q with rdIdx := q.rdIdx + BitVec.ofNat 32 m, skipLeft := q.skipLeft - m }
    if q.skipLeft == 0 then { q with pkind := 0, pkIdx := 0 } else q
  else q

/-- A queue after `n` of its ring slots have been performed: the end of a PRED arm skips the other one (R305). -/
def Queue.past (q : Queue) (n : Nat) : Queue :=
  let q := { q with rdIdx := q.rdIdx + BitVec.ofNat 32 n }
  if q.pkind == 3 || q.armLeft != 0 then ({ q with pkind := 3, armLeft := q.armLeft - n } : Queue).skip else { q with pkind := 0 }

/-- What a WRIDX that has moved back discards: a packet that waits, and a FENCE of `n` conditions in progress, where they now
stand at or beyond it (R303). DEDUCED, log entry 64. -/
def Queue.retract (q : Queue) (n : Nat) : Queue :=
  let q := if q.backlog == 0 then { q with waiting := false } else q
  if q.pkind == 2 && q.backlog < 1 + condPackets n then
    { q with pkind := if q.armLeft == 0 then 0 else 3, condMask := 0, pkIdx := 0 }
  else q

/-- Reads WRIDX of a queue; a value out of range is a queue error, and one that has moved back discards what it no longer
covers (R303). The read waits for its channel (R347). DEDUCED, log entry 64; DEDUCED, log entry 110. -/
def State.readWridx (s : State) (k : QueueKey) : State :=
  let q := s.queue k
  let (sp, a) := s.qcbAt k
  let w : Word := BitVec.ofNat 32 (s.vle sp (a + 0x10) 4)
  if !s.qcbReady k then s.defer (.kick k)
  else if (w - q.rdIdx).toNat ≤ q.ringSize then
    s.putQueue (({ q with wrIdx := w } : Queue).retract (fieldOf (s.packetBytes q q.pkIdx) 1 1)).skip
  else s.queueError q 7 0x10

/-- WRIDX is read before the slot prefetches beyond the packets already read: as soon as they no longer fill the 16 that it
prefetches, and no FENCE is in progress (R302, R303). A WRIDX below RDIDX leaves none of them. DEDUCED, log entry 64. -/
def State.refill (s : State) (k : QueueKey) : State :=
  let q := s.queue k
  if q.state == 3 && (q.backlog ≤ 16 || q.ringSize < q.backlog) && q.pkind != 2 then s.readWridx k else s

/-- The packet at the head of a queue has been performed. -/
def State.performed (s : State) (k : QueueKey) (n : Nat := 1) : State := (s.setQueue ((s.queue k).past n)).refill k

/-! ## FENCE (R304) -/

/-- A test of R304 on a 64-bit word. -/
def condHolds (op word value : Nat) : Bool :=
  match op with
  | 1 => value ≤ word
  | 2 => word == value
  | 3 => word != value
  | _ => word &&& value == value

/-- The bytes of condition `i` of the FENCE at PKIDX. -/
def State.condition (s : State) (q : Queue) (i : Nat) : List Byte :=
  (s.packetBytes q (q.pkIdx + 1 + BitVec.ofNat 32 (i / 4))).drop (16 * (i % 4))

/-- The channels of a FENCE, of its conditions that have not held and of their words are ready (R347). DEDUCED, log entry 110. -/
def State.fenceReady (s : State) (q : Queue) : Bool :=
  let sp := s.spaceOfVdev (vkeyOfQ q.key)
  let slot := fun (i : Nat) => s.vready sp (q.slotAddr (q.pkIdx + BitVec.ofNat 32 i)) 64
  let n := fieldOf (s.packetBytes q q.pkIdx) 1 1
  slot 0 && (List.range (condPackets n)).all (fun i => slot (1 + i))
    && (List.range n).all (fun i => q.condMask.getLsbD i || s.vready sp (fieldOf (s.condition q i) 0 7) 8)

/-- Tests the conditions that have not held, and resolves the FENCE when all have.
DEDUCED, log entry 63; DESIGN CHOICE, log entry 119. -/
def State.testFence (s : State) (k : QueueKey) : State :=
  let q := s.queue k
  if !s.fwUp || !s.served k.district || q.state != 3 || q.pkind != 2 || !s.fenceReady q then s
  else
    let sp := s.spaceOfVdev (vkeyOfQ k)
    let n := fieldOf (s.packetBytes q q.pkIdx) 1 1
    let mask := (List.range n).foldl (fun (m : BitVec 16) i =>
      let c := s.condition q i
      if m.getLsbD i || condHolds (fieldOf c 7 1) (s.vle sp (fieldOf c 0 7) 8) (fieldOf c 8 8) then m ||| (1#16 <<< i) else m) q.condMask
    if (List.range n).all (fun i => mask.getLsbD i) then
      (s.setQueue ({ q with condMask := 0, pkIdx := 0 }.past (1 + condPackets n))).refill k
    else s.setQueue { q with condMask := mask }

/-- The firmware re-tests every FENCE in progress, after a SIGNAL and after a kick. -/
def State.testFences (s : State) : State := s.queues.foldl (fun s q => s.testFence q.key) s

/-! ## Slots (R314, R317) -/

/-- The first hardware queue slot of a district and how many it owns. -/
def State.slotRange (s : State) (d : Nat) : Nat × Nat :=
  ((s.districts.take d).foldl (fun n x => n + x.quota.queueSlots) 0, ((s.districts[d]?).map (·.quota.queueSlots)).getD 0)

/-- The lowest free slot of a district. -/
def State.freeSlot (s : State) (d : Nat) : Option Nat :=
  let (b, n) := s.slotRange d
  ((List.range n).map (· + b)).find? (fun i => !s.queues.any (fun q => q.state == 3 && q.slot == some i))

/-- The effective priority of a queue that waits for a slot (R314). -/
def Queue.waitPrio (q : Queue) : Nat := if q.ageStep == 0 then q.prio else min 7 (q.prio + q.age / q.ageStep)

/-- The effective priority of a mapped queue. -/
def Queue.mapPrio (q : Queue) : Nat := if q.ageStep == 0 then q.prio else max q.prio (q.entry - q.age / q.ageStep)

/-- The PENDING bit of a queue. -/
def State.setPending (s : State) (k : QueueKey) (on : Bool) : State :=
  { s with vdevs := s.vdevs.map (fun v =>
      if v.key = vkeyOfQ k then
        { v with pending := if on then v.pending ||| (1#64 <<< k.idx) else v.pending &&& ~~~(1#64 <<< k.idx) }
      else v) }

/-- Maps a queue to a slot: ENTRY is its effective priority, the error fields are cleared (R392).
DEDUCED, log entry 64. -/
def State.mapQueue (s : State) (k : QueueKey) (slot reason : Nat) : State :=
  let q := s.queue k
  let q := { q with state := 3, slot := some slot, entry := q.waitPrio, age := 0, placed := q.placed + 1, errCode := 0,
                    errField := 0 }
  let s := (s.putQueue q).noteQueue q
  let s := s.setPending k false
  (s.route (rbQueue k 1 reason 0 (some slot))).readWridx k

/-- Takes a queue from its slot; it waits with AGE 0. -/
def State.evictQueue (s : State) (k : QueueKey) : State :=
  let q := s.queue k
  let s := s.route (rbQueue k 3 0 0 q.slot)
  s.setQueue { q with state := 2, slot := none, age := 0, evicted := q.evicted + 1 }

/-! ## Kicks (R298, R299) -/

/-- A kick of a queue of a bound virtual device. While the core that serves its district hands its queues over, a kick only
sets the PENDING bit (R348, R394). It waits for the channels of the control block (R347).
DEDUCED, log entry 81; DESIGN CHOICE, log entry 105; DEDUCED, log entry 110. -/
def State.kickQueue (s : State) (k : QueueKey) : State :=
  match s.vdev? (vkeyOfQ k) with
  | none => s
  | some v =>
    let q := s.queue k
    if !s.qcbReady k then s.defer (.kick k)
    else if q.state == 0 || 3 < q.state then s
    else if !v.scheduled || !s.served k.district then s.setPending k true
    else if q.state == 3 then s.readWridx k
    else
      let s := s.setPending k true
      match s.freeSlot k.district with
      | some slot => s.mapQueue k slot 1
      | none =>
        let q := { q with
          state := 2, age := (if q.state == 2 then q.age else 0), deferred := q.deferred + 1, errCode := 0, errField := 0 }
        (s.setQueue q).route (rbQueue k 2 3 0)

/-- Kicks that were deferred are acted on (R299, R348). -/
def State.kickPending (s : State) (v : VdevKey) (pending : Mask) : State :=
  (lanesOf 64 pending).foldl (fun s i =>
    let k : QueueKey := { district := v.district, vdev := v.vdev, idx := i }
    (s.setPending k false).kickQueue k) s

/-! ## What has waited for a channel (R347) -/

/-- Does what has waited, or lets it wait on. DEDUCED, log entry 110. -/
def State.redo (s : State) (x : Late) : State :=
  match x with
  | .bytes asid link va bs => s.vwrite { asid := asid, link := link } va bs
  | .phys pa bs => s.pwrite pa bs
  | .count d off n => s.bumpDistrict d off n
  | .route d bs => s.appendRoute d bs
  | .record asid link fq bs => s.appendRecord { asid := asid, link := link } fq bs
  | .event ring size bs => s.appendEvent ring size bs
  | .kick k => s.kickQueue k

/-- Everything that has waited for a channel is done in its order, as far as the channels are ready now. DEDUCED, log entry 110. -/
def State.catchUp (s : State) : State := (s.late.foldl State.redo { s with late := [] }).testFences

end Sys2Proof.Machine
end

