-- ==== Sys2Proof/Machine/Rope.lean ====
section
/-! DEFINITION. The ROPE family (02 R49 to R56, 09 R220 to R223). -/

namespace Sys2Proof.Machine

/-! ## RECRUIT (R49 to R51) -/

/-- The groups in a core's partition with their teams, the lowest group number first, then the team whose placement is the
oldest (R49). DEDUCED, log entry 76. -/
def State.partitionGroups (s : State) (core part : Nat) : List (Team × GroupRef × Group) :=
  let all := ((s.teamsIn core).map (fun t =>
    let p := 4 * (core - t.core) + part
    ((t.cur.parts.getD p {}).groups.zipIdx.map (fun (g, i) =>
      (t, ({ launch := t.ref.launch, team := t.ref.team, part := p, grp := i } : GroupRef), g))))).flatten
  sortBy (fun a b => a.2.1.grp < b.2.1.grp || (a.2.1.grp == b.2.1.grp && a.1.order ≤ b.1.order)) all

/-- Lane positions of a partition whose helper bank a rope uses. -/
def banksUsed (gs : List (Team × GroupRef × Group)) : List Nat :=
  (gs.map (fun e => (e.2.2.rope.map (·.positions)).getD [])).flatten

/-- Helpers that a district's ropes hold in a partition (R49, Table 16.8). -/
def ropeLanesUsed (gs : List (Team × GroupRef × Group)) (district : Nat) : Nat :=
  (banksUsed (gs.filter (fun e => e.1.district == district))).length

/-- The lane of a group that is bound to a lane position of its partition (R24). DEDUCED, log entry 76. -/
def laneAt (grp width p : Nat) : Option Nat :=
  let base := grp * width % 64
  if base ≤ p && p < base + width then some (p - base) else none

/-- A group other than the leader's may lend a position. -/
def State.maylend (s : State) (district : Nat) (me : GroupRef) (p : Nat) (e : Team × GroupRef × Group) : Bool :=
  e.2.1 ≠ me && e.1.district == district && ((s.launch? e.2.1.launch).map (·.desc.lend)).getD false
    && (laneAt e.2.1.grp e.2.2.width p).isSome && (e.2.2.state == .waiting || e.2.2.state == .parked || e.2.2.state == .exited)

/-- The lender of a position: the leader's own group, when its lane there is not the leader, or the first group that may
lend it; none when there is none. -/
def Ctx.lenderOf (c : Ctx) (s : State) (gs : List (Team × GroupRef × Group)) (exec : Mask) (p : Nat) : Option GroupRef :=
  if ((laneAt c.ref.grp c.group.width p).map (fun l => !laneBit exec l)).getD false then some c.ref
  else (gs.find? (s.maylend c.team.district c.ref p)).map (fun e => e.2.1)

/-- RECRUIT's grant: positions with their lenders, and the reason of an empty one (Table 2.4). -/
def Ctx.recruitGrant (c : Ctx) (s : State) (exec : Mask) (nmax : Nat) : List (Nat × GroupRef) × Nat :=
  let gs := s.partitionGroups c.core (c.ref.part % 4)
  let used := banksUsed gs
  let own := c.ref.grp * c.group.width % 64 + lowLane exec
  let eligible := (List.range 64).filterMap (fun p =>
    if p == own || used.contains p then none else (c.lenderOf s gs exec p).map (fun g => (p, g)))
  let quota := ((s.districts[c.team.district]?).map (·.quota.ropeLanes)).getD 0 - ropeLanesUsed gs c.team.district
  let desc := c.launch.desc
  if !desc.helpers then ([], 2)
  else
    let got := eligible.take (min nmax quota)
    (got, if got.isEmpty then (if quota == 0 then 3 else 1) else 0)

/-- Every lender other than the leader's group that waits becomes LENT (R51). -/
def State.lendAll (s : State) (gs : List GroupRef) : State :=
  gs.foldl (fun s r => s.modGroup r (fun g =>
    if g.state == .waiting || g.state == .parked then { g with state := .lent } else g)) s

/-- RECRUIT (R220). DEDUCED, log entry 33. -/
def planRecruit (x : XF) (c : Ctx) (s : State) : Plan :=
  let exec := c.exec x.mask.toNat
  let (got, reason) := c.recruitGrant s exec (bits x.f.toNat 0 6)
  let n := got.length
  let s1 := s.modGroup c.ref (fun g => g.setReg x.d ((g.reg x.d).writeWhole
    { tag := .u, base := BitVec.ofNat 32 (n + 256 * reason) }))
  let others := dedup ((got.map (·.2)).filter (fun r => r ≠ c.ref))
  let lenders := others.filterMap (fun r => (s.group? r).bind (fun g =>
    if g.state == .waiting || g.state == .parked then some ({ group := r, prior := g.state } : Lender) else none))
  let rope : Rope :=
    { n := n, positions := got.map (·.1), lenders := lenders, leaderLane := lowLane exec, recruitPc := c.pc, nextPc := c.next,
      hregs := List.replicate 16 {}, ks := List.replicate 16 {},
      paths := [{ pc := c.target (x.lit.getD 0), mask := fullMask n }], used := List.replicate n 0 }
  { rope := if popMask exec == 1 then none else some { code := 0x0C, inner := 0, lanes := exec }
    effect := if n == 0 then c.advance s1
      else (s1.lendAll others).modGroup c.ref (fun g =>
        { g with state := .leaderSuspended, rope := some rope, readyAt := c.clk + 2 }) }

/-! ## ROPERED and ROPEEND (R53, R221, R222) -/

/-- ROPERED: a contribution of each executing helper. A differing operation or rounding for one register is
ROPE_ILLEGAL. -/
def planRopered (x : XF) (c : Ctx) (s : State) : Plan :=
  let exec := c.exec x.mask.toNat
  let op := bits x.f.toNat 0 4
  let round := x.round.toNat
  let prior := (c.rope.map (·.contributions)).getD []
  let clash := prior.any (fun k => k.reg == x.d && (k.op != op || (op == 1 && k.round != round)))
  let new : Contribution :=
    { reg := x.d, op := op, round := round, vals := (lanesOf c.n exec).map (fun h => (h, c.read x.a h)) }
  { rope := if clash then some { code := 0x0C, inner := 6, lanes := exec } else none
    data := if exec != 0 && c.poisoned x.d 5 0 0 then some (c.poisonFault x.d c.leadLane exec) else none
    effect := c.advance (s.modGroup c.ref (fun g =>
      { g with rope := g.rope.map (fun r => { r with contributions := r.contributions ++ [new] }) })) }

/-- `apply` of R222: the new value of a leader register from its old value and the contributions, in the order of helpers
and then of their programs. -/
def applyRed (op round : Nat) (x0 : Word) (cs : List Word) : Word × Flags :=
  if cs.isEmpty then (x0, 0)
  else if op == 1 then
    let r := Fp.roundSum Fp.fp32 round ((x0 :: cs).map Fp.val32)
    (BitVec.ofNat 32 r.1, r.2)
  else (cs.foldl (reduxCombine op) x0, 0)

/-- The contributions to one register in the order of R53. -/
def redValues (r : Rope) (reg : Byte) : List Word :=
  ((List.range r.n).map (fun h =>
    ((r.contributions.filter (fun k => k.reg == reg)).map (fun k =>
      k.vals.filterMap (fun v => if v.1 == h then some v.2 else none))).flatten)).flatten

/-- Applies the contributions to one leader register. -/
def State.applyOne (s : State) (ref : GroupRef) (r : Rope) (reg : Byte) : State :=
  match s.group? ref, r.contributions.find? (fun k => k.reg == reg) with
  | some g, some k =>
    let old := g.reg reg
    let cs := redValues r reg
    if cs.isEmpty then s
    else
      let v := applyRed k.op k.round (old.at_ (clsOf reg) r.leaderLane) cs
      let s := s.addFlags ref v.2
      if clsOf reg == .s then s.modGroup ref (fun g => g.setReg reg (old.writeWhole { tag := .u, base := v.1 }))
      else s.modTeam (teamOf ref) (fun t =>
        (t.modGroup ref.part ref.grp (fun g =>
          g.setReg reg { old.setLanes g.width (fun l => if l = r.leaderLane then some v.1 else none) with tag := .g })).addLog
          (regRows ref.part ref.grp reg g.width (1#64 <<< r.leaderLane)))
  | _, _ => s

/-- The end of a rope, in one step: contributions applied, lenders returned, the leader HOLDING after RECRUIT; it issues 2
clocks after the rope's last instruction. DEDUCED, log entry 33. -/
def Ctx.endRope (c : Ctx) (r : Rope) (s : State) : State :=
  let s := (dedup (r.contributions.map (·.reg))).foldl (fun s k => s.applyOne c.ref r k) s
  let s := s.returnLenders r
  s.modGroup c.ref (fun g => { g with
    state := .holding, rope := none, readyAt := c.clk + 2
    paths := g.paths.map (fun p => if p.pc == r.recruitPc && laneBit p.mask r.leaderLane then { p with pc := r.nextPc } else p) })

/-- ROPEEND: every helper of the path ends. When those left are all parked at JOINs that cannot complete, the rope has no
runnable path (R223). The last ROPEEND waits for the loads that helpers have issued (R295). DEDUCED, log entry 35. -/
def planRopeend (c : Ctx) (s : State) : Plan :=
  match c.rope with
  | none => { effect := s }
  | some r =>
    let ended := r.ended ||| c.path.mask
    let ps := settlePaths (replacePath r.paths c.path []) ended (kMask r.ks r.n)
    let all := fullMask r.n &&& ~~~ended == 0
    { rope := if !all && (runPath ps).isNone then some { code := 0x0C, inner := 7, lanes := c.path.mask } else none
      hold := if all && !c.group.pendingHelpers.isEmpty then some .retry else none
      effect := if all then c.endRope r s
        else s.modGroup c.ref (fun g => { g with rope := g.rope.map (fun q => { q with ended := ended, paths := ps }) }) }

/-! ## Meanings -/

def execRecruit (x : XF) (s : State) : Out := runX 0x0F 0x00 x (planRecruit x) s
def execRopeend (x : XF) (s : State) : Out := runX 0x0F 0x01 x planRopeend s
def execRopered (x : XF) (s : State) : Out := runX 0x0F 0x02 x (planRopered x) s

end Sys2Proof.Machine
end

