-- ==== Sys2Proof/Machine/Work.lean ====
section
/-! DEFINITION. The WORK and SYS families (02 R57 to R61; 09 R224 to R228). -/

namespace Sys2Proof.Machine

/-! ## The dispenser (R57 to R60) -/

/-- A chunk of the dispenser: the four words of Table 2.5. -/
structure Chunk where
  tile : Nat
  first : Nat
  last : Nat
  flags : Nat
  deriving DecidableEq, Repr

/-- a_j: the first iteration of team j in split mode (R59). -/
def Launch.splitAt (l : Launch) (j : Nat) : Nat := j * (l.x * l.y * l.z) * l.iters / l.n

/-- Teams that receive a chunk of a tile in split mode. -/
def Launch.contributors (l : Launch) (t : Nat) : Nat :=
  ((List.range l.n).filter (fun j =>
    l.splitAt j < (t + 1) * l.iters && t * l.iters < l.splitAt (j + 1) && l.splitAt j < l.splitAt (j + 1))).length

/-- Chunk number `i` of team `j`, or none when the dispenser has no more (R58, R59). -/
def Launch.chunk (l : Launch) (j i : Nat) : Option Chunk :=
  if l.split then
    let a := l.splitAt j
    let b := l.splitAt (j + 1)
    let start := if i == 0 then a else (a / l.iters + i) * l.iters
    if b ≤ start then none
    else
      let t := start / l.iters
      let stop := min b ((t + 1) * l.iters)
      let k := l.contributors t
      some { tile := t, first := start - t * l.iters, last := stop - t * l.iters,
             flags := (if start == t * l.iters then 1 else 0) + (if stop == (t + 1) * l.iters then 2 else 0)
               + (if 1 < k then 4 else 0) + 2 ^ 16 * (k % 2 ^ 16) }
  else
    let t := j + i * l.n
    if t < l.x * l.y * l.z then some { tile := t, first := 0, last := l.iters, flags := 0x00010003 } else none

/-- The result words of TFETCH. -/
def chunkWords (c : Option Chunk) : List Nat :=
  match c with
  | none => [0xFFFFFFFF, 0, 0, 0]
  | some k => [k.tile, k.first, k.last, k.flags]

/-- TFETCH: one chunk of the team's cursor, delivered through the LD class (R224). -/
def planTfetch (x : XF) (c : Ctx) (s : State) : Plan :=
  let ch := c.launch.chunk c.ref.team c.team.cur.cursor
  let ds := (chunkWords ch).zipIdx.map (fun (w, i) =>
    Deliver.whole (x.d + BitVec.ofNat 8 i) { tag := .u, base := BitVec.ofNat 32 w })
  { hold := c.counterHold .ld
    effect := c.advance (c.addLd ds (s.modTeam (teamOf c.ref) (fun t =>
      t.modCur (fun k => { k with cursor := if ch.isSome then k.cursor + 1 else k.cursor })))) }

/-! ## LAUNCH (R225, R61) -/

/-- Appends packets to a child queue and kicks it; the kick re-tests the FENCEs in progress (R304). -/
def State.appendPackets (s : State) (k : QueueKey) (pkts : List (List Byte)) : State :=
  let q := s.queue k
  let (sp, a) := s.qcbAt k
  let w : Word := BitVec.ofNat 32 (s.vle sp (a + 0x10) 4)
  let s := pkts.zipIdx.foldl (fun s e => s.vwrite sp (q.slotAddr (w + BitVec.ofNat 32 e.2)) e.1) s
  ((s.vwrite sp (a + 0x10) (leBytes (w + BitVec.ofNat 32 pkts.length).toNat 4)).kickQueue k).testFences

/-- LAUNCH: one child for each executing lane, once the group's earlier accesses are performed. -/
def planLaunch (x : XF) (c : Ctx) (s : State) : Plan :=
  let exec := c.exec x.mask.toNat
  let lanes := lanesOf c.n exec
  let addr := fun (l : Nat) => (c.read64 x.a 0 0 l).toNat
  let k : QueueKey := { c.launch.queue with idx := c.launch.childQ }
  let q := s.queue k
  let w : Word := BitVec.ofNat 32 (let (sp, a) := s.qcbAt k; s.vle sp (a + 0x10) 4)
  let locs := lanes.map (fun l => (l, addr l, s.vaLoc c.launch (addr l) 64 1))
  let errs := locs.filterMap (fun e =>
    if e.2.1 % 64 != 0 then some (e.1, e.2.1, { code := 0x22, inner := 64 : LocErr })
    else match e.2.2 with
      | .error r => some (e.1, e.2.1, r)
      | .ok _ => none)
  let pkts := locs.map (fun e => match e.2.2 with
    | .ok p => (p.span 64).map (s.readFor c.group)
    | .error _ => [])
  let data := locs.findSome? (fun e => match e.2.2 with
    | .ok p => s.consumeFor c.group c.core (p.span 64) e.2.1 (1#64 <<< e.1)
    | .error _ => none)
  let ready := s.qcbReady k && (List.range lanes.length).all (fun i =>
    s.vready (s.spaceOfVdev (vkeyOfQ k)) (q.slotAddr (w + BitVec.ofNat 32 i)) 64)
  let used := (w - q.rdIdx).toNat
  let room := lanes.length + used ≤ q.ringSize
  let word := fun (l : Nat) => if room then w + BitVec.ofNat 32 ((lanes.filter (· < l)).length) else 0xFFFFFFFF
  let s1 := c.writeDst s x.d word { tag := .g } exec (x.wmode == 2)
  let s2 := if room && !lanes.isEmpty then s1.appendPackets k pkts else s1
  { shape := none
    partialMask := c.partialFault x.d x.wmode.toNat exec
    format := if c.launch.childQ == 0xFF then some { code := 0x41, inner := 0, lanes := exec } else none
    mem := memCheck errs
    data := data
    hold := if !c.group.quiet then some (.release .launch x)
      else if exec != 0 && !ready then some .channel
      else s.chanHold (locs.flatMap (fun e => match e.2.2 with
        | .ok p => p.span 64
        | .error _ => []))
    effect := c.advance (s2.irrevocable (teamOf c.ref)) }

/-! ## SVC, CKPT, RDCNT (R226 to R228) -/

/-- SVC: it takes the pipe, and the group waits for the command complex. -/
def planSvc (x : XF) (c : Ctx) (s : State) : Plan :=
  { effect := c.setHold (.svc x.d x.f.toNat (c.read64 x.a 0 0 0) c.next) s }

/-- CKPT: a camp of the team; the group issues nothing more until it is taken (R227). -/
def planCkpt (c : Ctx) (s : State) : Plan :=
  { effect := (c.setHold .camp (c.advance s)).modTeam (teamOf c.ref) (fun t => t.due .ckpt) }

/-- RDCNT: a status item in an s pair, and the read effect of items 16 and 17. -/
def planRdcnt (x : XF) (c : Ctx) (s : State) : Plan :=
  let v : Dword := BitVec.ofNat 64 (c.statusItem x.f.toNat)
  { effect := c.advance ((c.writePair s x.d (fun _ => v) { tag := .u, base := loWord v } { tag := .u, base := hiWord v }
      c.path.mask false).modGroup c.ref (fun g => g.readEffect x.f.toNat)) }

/-! ## Meanings -/

def execTfetch (d : Byte) (s : State) : Out :=
  let x : XF := { d := d }
  runOp (opB (wordB 0x2D d 0 0) 0x12 0x00 x) (planTfetch x) s

def execTfetchX (x : XF) (s : State) : Out := runX 0x12 0x00 x (planTfetch x) s
def execLaunch (x : XF) (s : State) : Out := runX 0x12 0x01 x (planLaunch x) s
def execSvc (x : XF) (s : State) : Out := runX 0x13 0x00 x (planSvc x) s
def execCkpt (x : XF) (s : State) : Out := runX 0x13 0x01 x planCkpt s
def execRdcnt (x : XF) (s : State) : Out := runX 0x13 0x02 x (planRdcnt x) s

end Sys2Proof.Machine
end

