-- ==== Sys2Proof/Machine/GroupEv.lean ====
section
/-! DEFINITION. Events of groups: grants of the square, stops that end, arrivals, credits, releases, services, waits for
translations and links, starvation, and the retirement of teams (02 R23, R40, R41; 03 R73, R74; 06 R139; 18 R366, R367;
19 R374, R378). -/

namespace Sys2Proof.Machine

/-! ## A word that is no instruction (R167) -/

/-- ILLEGAL_ENCODING of the issuing group: word and lowest bit of the first offending field. -/
def execIllegalEncoding (word lowBit : Nat) (s : State) : Out :=
  match ctxOf s with
  | none => .fault .noIssuer
  | some c => .next (takeFault c (c.pathFault 0x01 (256 * word + lowBit)) s)

/-! ## The square (R41) -/

/-- The baton that a square may grant at a clock: the one that entered it first (R41). DEDUCED, log entry 112. -/
def Part.stray (q : Part) (clk : Nat) : Option (Nat × Nat) :=
  if q.lastGrant == some clk then none else q.square.find? (fun e => e.2 ≤ clk)

/-- The square grants a baton to the next READY group in ring order, which issues 2 clocks later.
DEDUCED, log entry 41. -/
def Part.grant (q : Part) (clk : Nat) : Part :=
  match q.stray clk, squareRecipient q with
  | some e, some i =>
    { q with
      groups := modAt q.groups i (fun g => { g with state := .holding, slot := some e.1, readyAt := clk + 2, prompt := true })
      square := q.square.filter (fun x => x != e)
      lastRecipient := i
      lastGrant := some clk }
  | _, _ => q

/-! ## The order of one clock (R38, R219, R286, R287) -/

/-- The sync word on which a group's next instruction makes a step or a test, with the clock, the core, the partition and the
slot by which the steps of one clock on it are ordered (R287). -/
def State.stepOf (s : State) (r : GroupRef) : Option ((Space × Nat) × Nat × Nat × Nat × Nat) :=
  match s.team? (teamOf r), ctxOf { s with cur := r } with
  | some t, some c =>
    let word := fun (x : XF) => match c.wordPlace s (c.read x.a (lowLane c.path.mask)) with
      | .ok ls => ls.head?
      | .error _ => none
    let place := match s.fetch c.launch c.pc c.path.mask with
      | .instr (.syncset x) => word x
      | .instr (.syncw x) => word x
      | _ => none
    place.map (fun p => ((p.space, p.addr), c.clk, t.coreOf r.part, r.part % 4, c.group.slot.getD 0))
  | _, _ => none

/-- A step comes before another in one clock: it is on the same word, by a group of the same cluster, of a lower partition or
of a lower slot of the same partition. -/
def stepBefore (a b : (Space × Nat) × Nat × Nat × Nat × Nat) : Bool :=
  a.1 == b.1 && a.2.1 == b.2.1 && clusterOf a.2.2.1 == clusterOf b.2.2.1
    && (decide (a.2.2.1 < b.2.2.1) || (a.2.2.1 == b.2.2.1 && (decide (a.2.2.2.1 < b.2.2.2.1)
      || (a.2.2.2.1 == b.2.2.2.1 && decide (a.2.2.2.2 < b.2.2.2.2)))))

/-- A step of this clock that comes after a group's has been made, so that the group's must wait for the next (R287). -/
def State.stepPassed (s : State) (r : GroupRef) : Bool :=
  !s.steps.isEmpty && (s.stepOf r).any (fun e => s.steps.any (stepBefore e))

/-- A group issues its next instruction in this very clock (R32, R41, R286). -/
def State.mustIssue (s : State) (r : GroupRef) : Bool :=
  match s.team? (teamOf r), s.group? r with
  | some t, some g =>
    let clk := s.partClk t r.part
    g.prompt && g.readyAt == clk && (t.cur.parts.getD r.part {}).turn clk (g.slot.getD 0) && s.issues r && !s.stepPassed r
  | _, _ => false

/-- A replay has waited 2^24 clocks (R374). -/
def replayLate (r : Option Replay) (clk : Nat) : Bool :=
  match r with
  | some r => decide (r.clk + 2 ^ 24 ≤ clk)
  | none => false

/-- The replay of a group must fail in this clock (R374). -/
def State.replayDue (s : State) (t : Team) (e : GroupRef × Group) : Bool :=
  let clk := s.partClk t e.1.part
  e.2.hold = some .xlate && replayLate e.2.replay clk && (t.cur.parts.getD e.1.part {}).turn clk (e.2.slot.getD 0)

/-- A group or a copy of a team waits for room in the undo log. -/
def Team.logWaits (t : Team) : Bool :=
  t.cur.parts.any (fun q => q.groups.any (fun g => decide (g.hold = some .undoLog))) || t.cur.copies.any (·.logWait)

/-- The ropes of a team with their leaders' groups. -/
def Team.ropes (t : Team) : List (GroupRef × Rope) := t.allGroups.filterMap (fun e => e.2.rope.map (fun r => (e.1, r)))

/-- The undo log of its core is full for a team that leads a rope, and the rope has not been dealt with (R55, R322, R369). -/
def State.ropeLogDue (s : State) (t : Team) : Bool :=
  !t.saved && t.roped && (!t.rollDue || t.pinnedRope) && (s.teamsIn t.core).any Team.logWaits

/-- The entry in progress of an engine. -/
def Engine.current (e : Engine) : Option EngEntry := e.busy.bind (fun a => e.entries.find? (fun x => x.age == a))

/-- A group of a lower slot of a partition than another. -/
def slotBefore (g other : Group) : Bool :=
  match g.slot, other.slot with
  | some a, some b => decide (a < b)
  | _, _ => false

/-- An event may fault a group and give its baton away now: the deliveries of its clock are not over, no higher slot has
delivered in it, and none of a lower slot must still (R38, R219). DEDUCED, log entry 8. -/
def State.faultTurn (s : State) (r : GroupRef) : Bool :=
  match s.team? (teamOf r), s.group? r with
  | some t, some g => g.slot.isNone || ((t.cur.parts.getD r.part {}).turn (s.partClk t r.part) (g.slot.getD 0)
      && (t.partGroups r.part).all (fun e => !slotBefore e.2 g || !(s.mustIssue e.1 || s.replayDue t e)))
  | _, _ => true

/-- A rope that met a full undo log is dealt with in this clock (R55): a pinned one when its leader may fault. -/
def State.ropeLogNow (s : State) (t : Team) : Bool :=
  s.ropeLogDue t && t.ropes.all (fun e => !e.2.pinned || s.faultTurn e.1)

/-- What must be in this clock of a cluster before its stop tests and grants is over: the instructions that issue in this very
clock, the replays that fail in it, and the ropes that met a full undo log (R55, R219). -/
def State.dealt (s : State) (cluster : Nat) : Bool :=
  (s.teams.filter (fun t => !t.saved && clusterOf t.core == cluster)).all (fun t =>
    !s.ropeLogNow t && t.allGroups.all (fun e => !s.mustIssue e.1 && !s.replayDue t e)
      && t.cur.copies.all (fun k => k.fail.isSome || !replayLate k.replay (s.clk (t.copyCore k))))
    && (s.engines.filter (fun e => e.1 / 16 == cluster)).all (fun e => e.2.current.all (fun x => !replayLate x.replay (s.clk x.core)))

/-- A group is FAULTED. -/
def State.faulted (s : State) (r : GroupRef) : Bool := ((s.group? r).map (·.state == .faulted)).getD false

/-- What an event does to a group, unless it is a fault whose turn it is not in this clock. -/
def State.inFaultTurn (s : State) (r : GroupRef) (t : State) : State := if t.faulted r && !s.faulted r && !s.faultTurn r then s else t

/-! ## Stops that end (R40) -/

/-- A group whose stop is complete: READY, or HOLDING when it has a baton; a lender stays LENT (R56).
DEDUCED, log entry 34. -/
def Group.completeStop (g : Group) (clk : Nat) : Group :=
  let g := g.pastStop
  match g.state with
  | .waiting => { g with state := .ready }
  | .heldWaiting => { g with state := .holding, readyAt := clk + 2, prompt := true }
  | _ => g

/-- What the re-test of a stopped group finds. -/
inductive StopResult where
  | still
  | done
  /-- the status that an ACQ or BARWAIT writes -/
  | status (reg : Byte) (v : Nat)
  /-- a free lock that the group takes -/
  | take (reg : Byte) (obj : Dword) (key : Nat)
  | fault (f : FaultInfo)
  /-- a WAIT that surfaces a failure -/
  | surface (k : Counts)
  deriving DecidableEq, Repr

/-- The latched result of an ACQ or BARWAIT (R245, R248). DEDUCED, log entry 42. -/
def latchedResult (reg : Byte) (obj : Dword) (lanes : Mask) (v : Nat) : StopResult :=
  if v < 256 then .status reg v else .fault { code := 0x25, inner := v - 256, address := obj, lanes := lanes }

/-- The fault of a SYNCW whose re-test has found the word poisoned (R380). -/
def State.syncFault (s : State) (l : Launch) (core : Nat) (addr : Word) (lanes : Mask) : FaultInfo :=
  let found := match s.scratchLocs l core addr.toNat 16 with
    | .ok ls => s.consume core ((ls.drop 8).take 4) (addr.toNat + 8) lanes
    | .error _ => none
  found.getD { code := 0x30, inner := 4, address := addr.zeroExtend 64 + 8, lanes := lanes }

/-- Re-tests the stop of a group of a core (R218, R45, R245, R248, R249). -/
def State.stopResult (s : State) (l : Launch) (core : Nat) (g : Group) (r : StopRec) : StopResult :=
  let lanes := ((runPath g.paths).map (·.mask)).getD 0
  match r.what with
  | .wait ld st cp tl =>
    let k : Counts := { ld := ld, st := st, cp := cp, tl := tl }
    if g.waitMet k then (if (g.covered k).1.isEmpty then .done else .surface k) else .still
  | .park => .still
  | .join => if (runPath g.settle.paths).isSome then .done else .still
  | .syncw a _ => match r.res with
    | none => .still
    | some 0 => .done
    | some _ => .fault (s.syncFault l core a lanes)
  | .barwait obj _ reg => match r.res with
    | some v => latchedResult reg obj lanes v
    | none => .still
  | .acq obj _ reg => match r.res with
    | some v => latchedResult reg obj lanes v
    | none => match s.objKey l obj with
      | none => .still
      | some k =>
        let o := s.objAt k
        if o.clean && o.type == 1 && !o.owned then .take reg obj k else .still

/-- The stop condition of a group holds (R40). -/
def State.stopDue (s : State) (r : GroupRef) : Bool :=
  match s.team? (teamOf r), s.group? r, s.launch? r.launch with
  | some t, some g, some l =>
    !t.saved && (g.state == .waiting || g.state == .heldWaiting || g.state == .lent) && (match g.stop with
      | none => false
      | some st => decide (s.stopResult l (t.coreOf r.part) g st ≠ .still))
  | _, _, _ => false

/-- The stop of a group may end now: the issues and deliveries of the clock are over, the square of its partition has not
granted, and no stop of a lower slot of the partition must end first (R38, R219). -/
def State.stopTurn (s : State) (t : Team) (r : GroupRef) (g : Group) : Bool :=
  s.dealt (clusterOf t.core) && (t.cur.parts.getD r.part {}).lastGrant != some (s.partClk t r.part)
    && (t.partGroups r.part).all (fun e => !slotBefore e.2 g || !s.stopDue e.1)

/-- The stop conditions of a partition that hold have been acted on, so that the square grants (R219). -/
def State.tested (s : State) (t : Team) (part : Nat) : Bool :=
  s.dealt (clusterOf t.core) && (t.partGroups part).all (fun e => !s.stopDue e.1)

/-- A stop condition has become true in a partition whose square has granted in this clock (R219). -/
def State.lateStop (s t : State) : Bool :=
  t.teams.any (fun m => !m.saved && m.cur.parts.zipIdx.any (fun (q, p) => q.lastGrant == some (t.partClk m p)
    && (m.partGroups p).any (fun e => t.stopDue e.1 && !s.stopDue e.1)))

/-- The stopping instruction of a group that waits completes, or faults. -/
def State.completeStop (s : State) (r : GroupRef) : State :=
  match s.team? (teamOf r), s.group? r, s.launch? r.launch with
  | some t, some g, some l =>
    match g.stop with
    | none => s
    | some st =>
      let clk := s.clk (t.coreOf r.part)
      match s.stopResult l (t.coreOf r.part) g st with
        | .still => s
        | .done => s.modGroup r (fun x => (x.settle).completeStop clk)
        | .status reg v =>
          ((s.putS r reg (BitVec.ofNat 32 v)).modGroup r (·.completeStop clk)).irrevocable (teamOf r)
        | .take reg obj k =>
          let o := s.objAt k
          let self := ownerWord (t.coreOf r.part) (r.part % 4) r.grp
          let s1 := s.atomStep (teamOf r) (({ space := .phys, addr := k } : Loc).span 32) { o with owner := self }.bytes
          (((s1.putS r reg 0).modTeam (teamOf r) (fun t => t.addLock obj)).modGroup r (·.completeStop clk)).irrevocable (teamOf r)
        | .fault f => s.faultGroup r (recordOf t r st.pc f) st.pc
        | .surface k => (s.surface r k st.pc).getD s
  | _, _, _ => s

/-- STOP_CONDITION_MET: the stopping instruction of a WAITING, HELD-WAITING or LENT group completes, or faults: after the
deliveries of its clock and before the square's grant (R219). DEDUCED, log entry 42. -/
def State.stopMet (s : State) (r : GroupRef) : State :=
  match s.team? (teamOf r), s.group? r with
  | some t, some g =>
    if s.stopDue r && s.stopTurn t r g then
      (s.modTeam (teamOf r) (fun t => t.modPart r.part (fun q => { q with lastStop := some (s.partClk t r.part) }))).completeStop r
    else s
  | _, _ => s

def execStopConditionMet (g : GroupRef) (s : State) : Out := .next (s.onDie (fun s => s.stopMet g))

/-- SQUARE_GRANT: once the clock's deliveries and stop tests are over (R38, R219). -/
def State.squareGrant (s : State) (t : TeamRef) (part : Nat) : State :=
  match s.team? t with
  | none => s
  | some m =>
    if m.saved || !s.tested m part then s
    else s.modTeam t (fun m => m.modPart part (fun q => q.grant (s.partClk m part)))

def execSquareGrant (t : TeamRef) (part : Nat) (s : State) : Out := .next (s.onDie (fun s => s.squareGrant t part))

/-! ## Starvation (R366, R367) -/

/-- Every baton of the team in the partition is held by a HELD-WAITING group, and some group there is READY. -/
def Part.starving (q : Part) (b : Nat) : Bool :=
  (q.groups.filter (fun g => g.slot.isSome && g.state == .heldWaiting)).length == b && q.groups.any (fun g => g.state == .ready)

/-- One clock of the starvation count. DEDUCED, log entry 51. -/
def Part.starveTick (q : Part) (b : Nat) : Part :=
  if q.starving b then { q with starve := q.starve + 1 } else { q with starve := 0, starved := false }

/-- STARVATION_EVENT: once for each run of 2^16 clocks of the condition. DEDUCED, log entry 51. -/
def State.starvation (s : State) (t : TeamRef) (part : Nat) : State :=
  match s.team? t with
  | none => s
  | some m =>
    let q := m.cur.parts.getD part {}
    if m.saved || q.starve < 2 ^ 16 || q.starved then s
    else (s.modTeam t (fun m => m.modPart part (fun q => { q with starved := true, starvedAt := s.hostClk }))).bumpDistrict
      m.district 0x18 1

def execStarvationEvent (t : TeamRef) (part : Nat) (s : State) : Out := .next (s.onDie (fun s => s.starvation t part))

/-- The HELD-WAITING group that has held its baton idle longest. DEDUCED, log entry 51. -/
def Part.longestHeld (q : Part) : Option (Nat × Group) :=
  q.groups.zipIdx.foldl (fun (r : Option (Nat × Group)) e =>
    if e.1.state == .heldWaiting && e.1.slot.isSome then
      match r with
      | none => some (e.2, e.1)
      | some b => if e.1.heldSince < b.2.heldSince then some (e.2, e.1) else r
    else r) none

/-- STARVATION_RESPONSE: the longest-idle baton goes to the square, if the condition still holds.
DEDUCED, log entry 51. -/
def State.starvationAct (s : State) (t : TeamRef) (part : Nat) : State :=
  match s.team? t, s.launch? t.launch with
  | some m, some l =>
    let q := m.cur.parts.getD part {}
    let clk := s.clk (m.coreOf part)
    if m.saved || !q.starved || !q.starving m.share then s
    else match q.longestHeld with
      | none => s
      | some (i, g) =>
        let s := s.modTeam t (fun m => m.modPart part (fun q =>
          { (q.toSquare (g.slot.getD 0) clk) with
            groups := modAt q.groups i (fun g => { g with state := .waiting, slot := none }), starve := 0, starved := false }))
        (s.bumpDistrict m.district 0x20 1).route (rbQueue l.queue 13 0 0 (s.queue l.queue).slot)
  | _, _ => s

def execStarvationResponse (t : TeamRef) (part : Nat) (s : State) : Out := .next (s.byFw (fun s => s.starvationAct t part))

/-! ## Arrivals (R73) -/

/-- The marks of some words of a register: `bad` marks those of some lanes. -/
def marksOf (bad : Option (Nat × List Nat)) (vals : List (Nat × Word × Option Nat)) : List (Nat × Nat) :=
  vals.filterMap (fun v => (v.2.2.orElse (fun _ => bad.bind (fun b => if b.2.contains v.1 then some b.1 else none))).map
    (fun m => (v.1, m)))

/-- A register after the arrival of lane words. -/
def Reg.landLanes (r : Reg) (n : Nat) (vals : List (Nat × Word × Option Nat)) (bad : Option (Nat × List Nat)) : Reg :=
  let marks := marksOf bad vals
  let r := r.setLanes n (fun l => (vals.find? (fun v => v.1 == l)).map (fun v => v.2.1))
  { r.marked (marks.filter (fun m => m.1 < n)) with tag := .g }

/-- A register after the arrival of all of it; its spill tag stays. -/
def Reg.landWhole (old r : Reg) (code : Byte) (n : Nat) (bad : Option (Nat × List Nat)) : Reg :=
  match bad with
  | none => { r with spill := old.spill }
  | some b =>
    let hit := if clsOf code == .v || clsOf code == .m then b.2.filter (· < n) else [0]
    { r.marked (hit.map (fun l => (l, b.1))) with spill := old.spill }

/-- Writes what a result delivers; `bad` gives, for a register, the lanes that an error marks and its source. -/
def State.land (s : State) (g : GroupRef) (n : Nat) (bad : Byte → Option (Nat × List Nat)) (d : Deliver) : State :=
  match d with
  | .lanes code vals =>
    s.modTeam (teamOf g) (fun t => (t.modGroup g.part g.grp (fun x =>
      (x.setReg code ((x.reg code).landLanes n vals (bad code))).ownMail code g.grp)).addLog
      (if loggedReg code then regRows g.part g.grp code n (maskOf n (fun l => vals.any (fun v => v.1 == l))) else []))
  | .whole code r =>
    s.modTeam (teamOf g) (fun t => (t.modGroup g.part g.grp (fun x =>
      (x.setReg code ((x.reg code).landWhole r code n (bad code))).ownMail code g.grp)).addLog
      (if loggedReg code then regRows g.part g.grp code n (fullMask n) else []))
  | .helper h vals =>
    s.modGroup g (fun x => { x with rope := x.rope.map (fun r =>
      { r with hregs := setPad r.hregs h ((r.hregs.getD h {}).landLanes r.n vals (bad (0xD0 + BitVec.ofNat 8 h))) {} }) })

/-- The places from which the words of a result come. -/
def LdOp.places (o : LdOp) : List Loc := o.srcs.map (fun e => { space := e.2.2.1, addr := e.2.2.2 })

/-- The words of a result, by register and lane, that come from the place of an error which cannot be corrected (R380). -/
def State.errWords (s : State) (launch : Nat) (o : LdOp) (err : Option DataErr) : List (Byte × Nat) :=
  match err with
  | none => []
  | some e =>
    if !uncorrected e then []
    else match s.errPlace launch e with
      | none => []
      | some p => (o.srcs.filter (fun x => ({ space := x.2.2.1, addr := x.2.2.2 } : Loc).sameUnit p)).map (fun x => (x.1, x.2.1))

/-- The marks that an error puts on the words of a register: its source is a link, or a storage. -/
def errMarks (words : List (Byte × Nat)) (err : Option DataErr) (code : Byte) : Option (Nat × List Nat) :=
  match words.filter (fun w => w.1 == code), err with
  | w :: ws, some e => some ((if 16 ≤ e.mech then e.mech else 0), (w :: ws).map (·.2))
  | _, _ => none

/-- An access of a group that has failed for good after it issued: nothing is delivered and its pending bits end; the path is
back at the access, where the fault is taken. DEDUCED, log entry 53. -/
def State.accessFault (s : State) (g : GroupRef) (seq : Nat) (pc : Dword) (f : FaultInfo) : State :=
  let s := s.modGroup g (fun x => { x with
    ld := x.ld.map (fun o => if o.seq = seq then { o with done := true, delivers := [] } else o)
    st := x.st.map (fun o => if o.seq = seq then { o with done := true } else o) })
  match ctxOf { s with cur := g } with
  | none => s
  | some c =>
    let s := if c.inRope then s else c.goto pc s
    takeFault { c with pc := pc } f s

/-- LOAD_DATA_ARRIVAL: a load of poisoned memory writes poisoned words, an LDS that meets an error faults (R380), and an
operation that has failed writes nothing. It waits for its channels (R347).
DEDUCED, log entry 10; DESIGN CHOICE, log entry 77. -/
def State.loadArrival (s : State) (g : GroupRef) (seq : Nat) (err : Option DataErr) : State :=
  match s.team? (teamOf g), s.group? g with
  | some t, some x =>
    match x.ld.find? (fun o => o.seq == seq) with
    | none => s
    | some o =>
      if t.saved || o.done || o.engine || !o.places.all s.locReady then s
      else
        let core := t.coreOf g.part
        let words := s.errWords g.launch o err
        let s0 := s
        let s := match err with
          | some e => s.noteErr t.ref core e
          | none => s
        match (if o.lds then words else []), err with
        | w :: ws, some e =>
          let lost := s.accessFault g seq o.pc
            { code := 0x30, inner := e.mech, address := BitVec.ofNat 64 (s.errAddr g.launch core o.places 0 e)
              lanes := maskOf 64 (fun l => (w :: ws).any (fun x => x.2 == l)) }
          s0.inFaultTurn g (lost.modGroup g Group.unretry)
        | _, _ =>
          let s := if o.fail.isSome then s else o.delivers.foldl (fun s d => s.land g x.width (errMarks words err) d) s
          s.modGroup g (fun x => ({ x with
            ld := x.ld.map (fun o => if o.seq = seq then { o with done := true } else o), hold := x.unlink seq } : Group).unretry)
  | _, _ => s

def execLoadDataArrival (g : GroupRef) (seq : Nat) (err : Option DataErr) (s : State) : Out := .next (s.onDie (fun s => s.loadArrival g seq err))

/-- STORE_PERFORMED (R112); it waits for the channels of the sectors that it writes (R347). DEDUCED, log entry 11. -/
def State.storeDone (s : State) (g : GroupRef) (seq : Nat) : State :=
  match s.team? (teamOf g), s.group? g with
  | some t, some x =>
    let ready := (storesBefore (fun o => o.seq == seq) x.st.reverse []).all (fun o =>
      o.bytes.all (fun b => s.locReady { space := b.space, addr := b.addr }))
    if t.saved || !ready then s else s.performStores g (fun o => o.seq == seq)
  | _, _ => s

def execStorePerformed (g : GroupRef) (seq : Nat) (s : State) : Out := .next (s.onDie (fun s => s.storeDone g seq))

/-! ## Credits (R74, R378) -/

/-- The oldest operation of a class, when it is complete: its number, issue PC and failure. -/
def Group.oldest (g : Group) (cls : CreditClass) : Option (Nat × Dword × Option FaultInfo) :=
  match cls with
  | .ld => g.ld.head?.bind (fun o => if o.done then some (o.seq, o.pc, o.fail) else none)
  | .st => g.st.head?.bind (fun o => if o.done then some (o.seq, o.pc, o.fail) else none)
  | .cp => g.cp.head?.bind (fun o => if o.done then some (o.seq, o.pc, o.fail) else none)
  | .tl => g.tl.head?.bind (fun o => if o.done then some (o.seq, o.pc, o.fail) else none)

/-- Drops the oldest operation of a class. -/
def Group.dropOldest (g : Group) (cls : CreditClass) : Group :=
  match cls with
  | .ld => { g with ld := g.ld.tail }
  | .st => { g with st := g.st.tail }
  | .cp => { g with cp := g.cp.tail }
  | .tl => { g with tl := g.tl.tail }

/-- CREDIT_RETIRE: a failure waits for a WAIT, or is recorded at once when its issuer is gone. -/
def State.retireCredit (s : State) (g : GroupRef) (cls : CreditClass) : State :=
  match s.team? (teamOf g), s.group? g with
  | some t, some x =>
    match x.oldest cls with
    | none => s
    | some (seq, pc, fail) =>
      if t.saved then s
      else
        let s := s.modGroup g (fun x => (x.dropOldest cls).unretry)
        match fail with
        | none => s
        | some f =>
          let r : RetiredFail := { cls := cls, seq := seq, pc := pc, info := f }
          if x.state == .exited || x.state == .faulted then s.reportFails t g [r]
          else s.modGroup g (fun x => { x with fails := x.fails ++ [r] })
  | _, _ => s

def execCreditRetire (g : GroupRef) (cls : CreditClass) (s : State) : Out := .next (s.onDie (fun s => s.retireCredit g cls))

/-! ## Held instructions -/

/-- A debug step completes with the instruction that was held; one that faults waits for its turn in the clock (R38). -/
def thenStep (g : GroupRef) (s : State) (o : Out) : Out :=
  match o with
  | .next t => .next (s.inFaultTurn g (t.afterStep g))
  | x => x

/-- RELEASE_PERFORMED: the group's earlier accesses are performed, so the release is (R139), once no camp or rollback keeps the
team from issuing (R322).
DEDUCED, log entry 14. -/
def execReleasePerformed (g : GroupRef) (s : State) : Out :=
  match s.team? (teamOf g), s.group? g with
  | some t, some x =>
    match x.hold with
    | some (.release k f) =>
      if t.saved || !x.quiet || s.ready.trip || (if x.rope.isSome then t.rollsBack else t.camping) then .next s
      else
        let s1 := { s with cur := g }.modGroup g (fun x => { x with hold := none })
        thenStep g s (match k with
          | .rel => execRel f s1
          | .fence => execFence f s1
          | .barrive => execBarrive f s1
          | .bardrop => execBardrop f s1
          | .launch => execLaunch f s1)
    | _ => .next s
  | _, _ => .next s

/-- EMULATED_OP_COMPLETE: the result of a narrow-format instruction that the cluster control core has emulated (R95).
DEDUCED, log entry 15. -/
def execEmulatedOpComplete (g : GroupRef) (s : State) : Out :=
  match s.team? (teamOf g), s.group? g with
  | some t, some x =>
    match x.hold with
    | some (.emulated family func f _) =>
      if t.saved || s.ready.trip then .next s
      else
        let s1 := { s with cur := g }.modGroup g (fun x => { x with hold := none })
        thenStep g s (match family, func with
          | 2, 0 => runFaddX true f s1
          | 2, 1 => runFsubX true f s1
          | 2, 2 => runFmulX true f s1
          | 2, 3 => runFfmaX true f s1
          | 2, 4 => runFminX true f s1
          | 2, 5 => runFmaxX true f s1
          | 2, 6 => runFabs true f s1
          | 2, 7 => runFneg true f s1
          | 2, 8 => runFcmp true f s1
          | 2, 9 => runFsel true f s1
          | 3, 1 => runCvtn true f s1
          | 3, 2 => runPackn true f s1
          | 3, 3 => runUnpackn true f s1
          | _, _ => .next s)
    | _ => .next s
  | _, _ => .next s

/-! ## Pre-emption falls due (R319, R325) -/

/-- A pre-emption of a running launch falls due: every running team of it issues nothing more until it is rolled back and
saved. It counts on the queue and in the district record, and writes a PREEMPT entry (R315).
DEDUCED, log entry 54. -/
def State.startPreempt (s : State) (n reason : Nat) : State :=
  match s.launch? n with
  | none => s
  | some l =>
    if l.preempt.isSome || l.phase != .running then s
    else
      let s := s.modLaunch n (fun l => { l with preempt := some reason })
      let s : State := { s with teams := s.teams.map (fun t => if t.ref.launch == n && !t.saved then { t with rollDue := true } else t) }
      let q := s.queue l.queue
      let s := (s.setQueue { q with preempted := q.preempted + 1 }).bumpDistrict l.queue.district 0x38 1
      s.route (rbQueue l.queue 5 reason n q.slot)

/-- Writes the route-book entry of SVC MARK and gives its sequence number. Table 16.7 has fields for A's 64 bits and the queue; the
launch, the team and the group are kept beside the entry, by the core and the number that identify it (R226).
DEDUCED, log entry 103. -/
def State.programMark (s : State) (l : Launch) (g : GroupRef) (arg : Dword) : State × Nat :=
  let d := l.queue.district
  let (t, seq) := s.putRoute (rbQueue l.queue 12 0 arg.toNat (s.queue l.queue).slot)
  if ((s.districts[d]?).bind (·.record)).isNone then (t, seq) else ({ t with marks := t.marks ++ [((s.ccOf d, seq), g)] }, seq)

/-- The result and the effect of a service (Table 9.4). -/
def State.service (s : State) (l : Launch) (g : GroupRef) (n : Nat) (arg : Dword) : State × Word :=
  match n with
  | 0 => (s, loWord arg)
  | 1 =>
    let (s, seq) := s.programMark l g arg
    (s, BitVec.ofNat 32 seq)
  | 2 => (s.startPreempt g.launch 7, 0)
  | _ => (s, 0xFFFFFFFF)

/-- SVC_COMPLETE: the result is written, the group goes on, and the camp falls due (R226). -/
def State.svcDone (s : State) (g : GroupRef) : State :=
  match s.team? (teamOf g), s.group? g, s.launch? g.launch with
  | some t, some x, some l =>
    match x.hold with
    | some (.svc d n arg next) =>
      if t.saved then s
      else
        let (s, v) := s.service l g n arg
        let s := s.putS g d v
        let s := s.modGroup g (fun x => { x with hold := none, paths := match runPath x.paths with
          | some p => replacePath x.paths p [{ p with pc := next }]
          | none => x.paths })
        (s.irrevocable t.ref).afterStep g
    | _ => s
  | _, _, _ => s

def execSvcComplete (g : GroupRef) (s : State) : Out := .next (s.onDie (fun s => s.svcDone g))

/-! ## Waits for translations and links (R372, R374) -/

/-- The walk that an INVAL asked for has to wait for the channel of an entry (R347). DEDUCED, log entry 110. -/
def State.walkWaits (s : State) (sp : VSpace) (r : Replay) : Bool :=
  match s.xlate sp r.va.toNat with
  | .error .wait => true
  | _ => false

/-- A translation of a waiter that has its replay walks again after an INVAL: it succeeds, still waits, or fails.
DEDUCED, log entry 16. -/
def State.rewalk (s : State) (sp : VSpace) (r : Replay) : Except (Option Nat) Unit :=
  match s.xlate sp r.va.toNat with
  | .ok _ => .ok ()
  | .error (.xlate level replay) => .error (if replay then none else some level)
  | .error .wait => .error none

/-- The address space of a launch. -/
def State.launchSpace (s : State) (n : Nat) : VSpace := ((s.launch? n).map (fun l => s.spaceOfVdev (vkeyOfQ l.queue))).getD {}

/-- Applies a function to the entry in progress of an engine. -/
def State.modEntry (s : State) (quad age : Nat) (f : EngEntry → EngEntry) : State :=
  s.modEngine quad (fun g => { g with entries := g.entries.map (fun x => if x.age = age then f x else x) })

/-- The failure of an operation by a translation. -/
def xlateInfo (va : Dword) (level : Nat) (lanes : Mask) : FaultInfo :=
  { code := 0x20, inner := level, address := va, lanes := lanes }

/-- WALK_COMPLETE: the walk that an INVAL asked for has ended (R374). A group's access is made again, which walks anew; a copy
whose destination now lies outside its team is outbound (R135). -/
def State.walkDone (s : State) (w : Waiter) : State :=
  match w with
  | .group g => match s.group? g with
    | some x => match x.replay with
      | some r => if r.rewalk && x.hold = some .xlate then
          s.modGroup g (fun x => { x with hold := none, replay := some { r with rewalk := false } }) else s
      | none => s
    | none => s
  | .copy t id => match s.team? t, s.launch? t.launch with
    | some m, some l => match m.copy? id with
     | some k => match k.replay with
      | some r => if !r.rewalk || s.walkWaits (s.launchSpace t.launch) r then s else match s.rewalk (s.launchSpace t.launch) r with
        | .ok _ =>
          let out := s.copyOutbound l m k
          s.modCopy t id (fun k => { k with replay := none, outbound := k.outbound || out, since := s.hostClk })
        | .error none => s.modCopy t id (fun k => { k with replay := some { r with rewalk := false } })
        | .error (some level) => s.failCopy t id (xlateInfo r.va level 0)
      | none => s
     | none => s
    | _, _ => s
  | .engine quad => match (s.engine quad).current with
    | some e => match e.replay with
      | some r => if !r.rewalk || s.walkWaits (s.launchSpace e.group.launch) r then s
        else match s.rewalk (s.launchSpace e.group.launch) r with
        | .ok _ => (s.modEntry quad e.age (fun e => { e with replay := none })).modEngine quad (fun g => { g with since := s.hostClk })
        | .error none => s.modEntry quad e.age (fun e => { e with replay := some { r with rewalk := false } })
        | .error (some level) => s.engineEnd quad e (some (xlateInfo r.va level 0))
      | none => s
    | none => s

def execWalkComplete (w : Waiter) (s : State) : Out := .next (s.onDie (fun s => s.walkDone w))

/-- The context of a group at its next instruction. -/
def State.ctxAt (s : State) (g : GroupRef) : Option Ctx := ctxOf { s with cur := g }

/-- REPLAY_TIMEOUT: 2^24 clocks after its record a failure becomes fatal, and a second record is written.
DEDUCED, log entry 52. -/
def State.replayEnd (s : State) (w : Waiter) : State :=
  match w with
  | .group g => match s.ctxAt g with
    | some c => match c.group.replay with
      | some r => if c.group.hold = some .xlate && r.clk + 2 ^ 24 ≤ c.clk && !c.team.saved then
          s.inFaultTurn g (takeFault c (xlateInfo r.va r.level r.lanes) s) else s
      | none => s
    | none => s
  | .copy t id => match s.team? t with
    | some m => match m.copy? id with
      | some k => match k.replay with
        | some r =>
          if m.saved || s.clk (m.copyCore k) < r.clk + 2 ^ 24 then s
          else
            let f := xlateInfo r.va r.level 0
            (s.putRecord { recordOf m (m.copyGroup k) k.pc f with unit := .copy }).failCopy t id f
        | none => s
      | none => s
    | none => s
  | .engine quad => match (s.engine quad).current with
    | some e => match e.replay, s.team? (teamOf e.group) with
      | some r, some m =>
        if s.clk e.core < r.clk + 2 ^ 24 then s
        else
          let f := xlateInfo r.va r.level 0
          (s.putRecord { recordOf m e.group e.pc f with unit := .engine }).engineEnd quad e (some f)
      | _, _ => s
    | none => s

def execReplayTimeout (w : Waiter) (s : State) : Out := .next (s.onDie (fun s => s.replayEnd w))

/-- LINK with a timeout. -/
def linkInfo (va : Dword) (lanes : Mask) : FaultInfo := { code := 0x32, inner := 1, address := va, lanes := lanes }

/-- A request over a link is not completed within 1 ms of the clock at which it began (chapter 19, Links; R396). -/
def State.linkLate (s : State) (since : Nat) : Bool := decide (since + 1000000 ≤ s.hostClk)

/-- The places of an access reach over a link. -/
def farFrom (ls : List Loc) : Bool := ls.any Loc.remote

/-- The address at which the next unit of a copy reaches over a link. -/
def State.copyFar (s : State) (l : Launch) (m : Team) (k : Copy) : Option Nat :=
  let core := m.copyCore k
  let off := k.byteAt k.delivered
  let at_ := fun (ep : Dword) (o need : Nat) => ((List.range (k.unitLen k.delivered)).find? (fun i =>
    farFrom (s.epPlaces l core ep (o + i) 1 need))).map (fun i => epAddr ep (o + i))
  (at_ k.src off.1 1).orElse (fun _ => at_ k.dst off.2 2)

/-- The address at which an MLD or MST reaches over a link. -/
def State.rowFar (s : State) (l : Launch) (core : Nat) (ep : Dword) (pitch : Nat) (fmt : ElemFmt) (need : Nat) : Option Nat :=
  ((List.range 64).flatMap (fun r => (List.range (8 * fmt.width / 32)).map (fun i => r * pitch + 32 * i))).findSome? (fun o =>
    if farFrom (s.epPlaces l core ep o 1 need) then some (epAddr ep o) else none)

/-- The address at which the operation of an entry reaches over a link. -/
def State.engineFar (s : State) (l : Launch) (e : EngEntry) : Option Nat :=
  match e.op with
  | .mld _ ep pitch fmt => s.rowFar l e.core ep pitch fmt 1
  | .mst _ ep pitch fmt _ _ => s.rowFar l e.core ep pitch fmt 2
  | _ => none

/-- LINK_TIMEOUT: a request over a link has not completed within 1 ms. DEDUCED, log entry 53. -/
def State.linkEnd (s : State) (w : Waiter) : State :=
  match w with
  | .group g => match s.group? g with
    | some x => match x.hold with
      | some (.link seq va lanes since) =>
        if !s.linkLate since then s
        else match (x.ld.find? (fun o => o.seq == seq)).map (·.pc), (x.st.find? (fun o => o.seq == seq)).map (·.pc) with
        | some pc, _ => s.inFaultTurn g (s.accessFault g seq pc (linkInfo va lanes))
        | none, some pc => s.inFaultTurn g (s.accessFault g seq pc (linkInfo va lanes))
        | none, none => s
      | _ => s
    | none => s
  | .copy t id => match s.team? t, s.launch? t.launch with
    | some m, some l => match m.copy? id with
      | some k =>
        if m.saved || !(k.started || m.mayStart k) || k.fail.isSome || k.replay.isSome || k.total ≤ k.delivered
          || !s.linkLate k.since || !s.unitReady l (m.copyCore k) k then s
        else match s.copyFar l m k with
          | some a => s.failCopy t id (linkInfo (BitVec.ofNat 64 a) 0)
          | none => s
      | none => s
    | _, _ => s
  | .engine quad => match (s.engine quad).current with
    | some e => match s.team? (teamOf e.group), s.launch? e.group.launch with
      | some t, some l =>
        if e.replay.isSome || !s.linkLate (s.engine quad).since || (s.engineFar l e).isNone || !s.moveReady l e then s
        else s.engineStep quad t l e none true
      | _, _ => s
    | none => s

def execLinkTimeout (w : Waiter) (s : State) : Out := .next (s.onDie (fun s => s.linkEnd w))

/-! ## Time that heat takes (R330) -/

/-- The time that a lowered clock took from a launch since the clock was set, in nanoseconds.
DEDUCED, log entry 72. -/
def lostTime (freq since now : Nat) : Nat := (now - since) * (1100 - freq) / 1100

/-- A launch has a team that runs on a cluster. -/
def State.runsOn (s : State) (l : Launch) (cluster : Nat) : Bool :=
  s.teams.any (fun t => t.ref.launch == l.num && !t.saved && t.core / 64 == cluster)

/-- Repays the launches that run on a cluster for the time at its clock that ends now: the loss is added to the launch and
to REPAID, and a REPAY entry is written. DEDUCED, log entry 54; DEDUCED, log entry 72. -/
def State.repay (s : State) (cluster : Nat) : State :=
  let freq := s.freq.getD cluster 1100
  let from_ := s.freqSince.getD cluster 0
  let s := (s.launches.filter (fun l => l.phase == .running && s.runsOn l cluster)).foldl (fun s l =>
    let loss := lostTime freq (max from_ l.since) s.hostClk
    if loss == 0 then s
    else
      let s := s.modLaunch l.num (fun l => { l with loss := l.loss + loss })
      let q := s.queue l.queue
      let s := (s.setQueue { q with repaid := q.repaid + loss }).bumpDistrict l.queue.district 0x40 loss
      s.route (rbQueue l.queue 7 5 loss q.slot)) s
  { s with freqSince := setPad s.freqSince cluster s.hostClk 0 }

/-! ## Retirement (R23, R378) -/

/-- A group that is done: EXITED, or FAULTED and stopped. -/
def Group.over_ (g : Group) : Bool := g.state == .exited || (g.state == .faulted && g.stopped)

/-- The failures of the operations that a group leaves behind. -/
def Group.leftFails (g : Group) : List RetiredFail :=
  (g.ld.filterMap (fun o => o.fail.map (fun f => { cls := .ld, seq := o.seq, pc := o.pc, info := f })))
    ++ (g.st.filterMap (fun o => o.fail.map (fun f => { cls := .st, seq := o.seq, pc := o.pc, info := f })))
    ++ (g.cp.filterMap (fun o => o.fail.map (fun f => { cls := .cp, seq := o.seq, pc := o.pc, info := f })))
    ++ (g.tl.filterMap (fun o => o.fail.map (fun f => { cls := .tl, seq := o.seq, pc := o.pc, info := f })))

/-- Entries of the quad engines that a team still waits for: a lease that it never got is none. -/
def State.engineWork (s : State) (t : Team) : Bool :=
  (s.engine (quadOf t.core)).entries.any (fun e => teamOf e.group = t.ref && (match e.op with
    | .mlease _ => false
    | _ => true))

/-- The channels of what the groups of a team still store are ready (R347). -/
def State.storesReady (s : State) (t : Team) : Bool :=
  t.allGroups.all (fun e => e.2.st.all (fun o => o.done || o.bytes.all (fun b => s.locReady { space := b.space, addr := b.addr })))

/-- A team may retire. -/
def State.mayRetire (s : State) (t : Team) : Bool :=
  !t.saved && t.cur.parts.all (fun q => q.groups.all Group.over_) && t.cur.copies.isEmpty && !s.engineWork t && s.storesReady t

/-- A team leaves its cores, repaid for heat; the shares of the others change (R318, R330). -/
def State.removeTeam (s : State) (t : Team) : State :=
  let s := (s.repay (clusterOf t.core)).leaveEngine t.ref t.core (fun _ => true)
  ({ s with teams := s.teams.filter (fun m => m.ref ≠ t.ref) } : State).reshare

/-- TEAM_RETIRE: what its groups left in flight is performed and reported first. -/
def State.retireTeam (s : State) (r : TeamRef) : State :=
  match s.team? r with
  | none => s
  | some t =>
    if !s.mayRetire t then s
    else
      let s := t.allGroups.foldl (fun s e => s.performStores e.1 (fun _ => true)) s
      let s := t.allGroups.foldl (fun s e => s.reportFails t e.1 e.2.leftFails) s
      match s.team? r with
      | some t => s.removeTeam t
      | none => s

def execTeamRetire (t : TeamRef) (s : State) : Out := .next (s.onDie (fun s => s.retireTeam t))

end Sys2Proof.Machine
end

