-- ==== Sys2Proof/Machine/Camp.lean ====
section
/-! DEFINITION. Camps, rollbacks and saves (03 R81, R82; 16 R322 to R325; 18 R369; 19 R382; 21 R387 to R389). -/

namespace Sys2Proof.Machine

/-! ## Taking a camp (R82, R322) -/

/-- A group lets its team's camp be taken: its LD, ST and TL counters are zero, no rope of it is active, and no access of
it waits for a translation (R82, R374). -/
def Group.campReady (g : Group) : Bool :=
  g.ld.isEmpty && g.st.isEmpty && g.tl.isEmpty && g.rope.isNone && decide (g.hold ≠ some .xlate)

/-- A team can take its camp. -/
def Team.campReady (t : Team) : Bool := t.cur.parts.all (fun q => q.groups.all Group.campReady)

/-- A group as the camp records it, between two of its instructions: one that is held is still to issue.
DEDUCED, log entry 49. -/
def Group.atCamp (g : Group) : Group := { g with hold := none, replay := none, stepDue := none }

/-- What held a group until the camp is over. -/
def Group.campOver (g : Group) : Group :=
  if g.hold = some .camp || g.hold = some .undoLog then { g with hold := none } else g

/-- Applies a function to every group of a team's state. -/
def TeamState.mapGroups (c : TeamState) (f : Group → Group) : TeamState :=
  { c with parts := c.parts.map (fun q => { q with groups := q.groups.map f }) }

/-- The copies of a team no longer wait for room in the undo log. -/
def TeamState.freeCopies (c : TeamState) : TeamState := { c with copies := c.copies.map (fun k => { k with logWait := false }) }

/-- A team takes a camp at a clock: the state is recorded and the undo log is freed. An uncorrectable entry of the log goes
with it (R382). DEDUCED, log entry 49. -/
def Team.takeCamp (t : Team) (clk : Nat) : Team :=
  let t := (t.mapGroups Group.campOver).modCur TeamState.freeCopies
  { t with
    camp := t.cur.mapGroups Group.atCamp, campShare := t.share, undo := [], log := [], logBad := false, campDue := none,
    lastCamp := clk }

/-- A camp that is due can be taken: a rollback due comes after it only where R322 says so, and a rope of the core that met the
full undo log is dealt with first (R54, R55). -/
def State.campGoes (s : State) (t : Team) : Bool :=
  !t.saved && t.campDue.isSome && t.campReady && (!t.rollDue || t.campBlocks)
    && s.teams.all (fun m => m.core / 2 != t.core / 2 || !s.ropeLogDue m)

/-- CAMP: a camp that is due is taken as soon as it can be. -/
def State.takeCamp (s : State) (r : TeamRef) : State :=
  match s.team? r with
  | none => s
  | some t =>
    if !s.campGoes t then s
    else
      let s := s.modTeam r (fun t => t.takeCamp (s.clk t.core))
      -- other teams of the core that held for the log find it with room
      { s with teams := s.teams.map (fun m =>
          if !m.saved && m.core / 2 == t.core / 2 then
            (m.mapGroups (fun g => if g.hold = some .undoLog then { g with hold := none } else g)).modCur TeamState.freeCopies
          else m) }

/-- CAMP_INTERVAL: CAMPINT core clocks after the previous camp. DEDUCED, log entry 55. -/
def State.campInterval (s : State) (r : TeamRef) : State :=
  match s.team? r with
  | none => s
  | some t =>
    let n := ((s.districts[t.district]?).map (·.quota.campInt)).getD 20
    if t.saved || s.clk t.core < t.lastCamp + 2 ^ n then s else s.modTeam r (fun t => t.due .periodic)

def execCampInterval (t : TeamRef) (s : State) : Out := .next (s.onDie (fun s => s.campInterval t))

/-! ## Rollback (R387) -/

/-- A copy of another team is delivering to a team, or counting in it (R136). -/
def State.inbound (s : State) (t : Team) : Bool :=
  s.teams.any (fun m => m.ref ≠ t.ref && !m.saved && (match s.launch? m.ref.launch with
    | none => false
    | some l => m.cur.copies.any (fun k => k.started && k.outbound && k.fail.isNone
        && (s.destsFrom l m k k.delivered ++ s.syncLocs l m k).any (fun p => p.space.owner = some t.ref))))

/-- A group that lets its team be rolled back: no pinned rope, no unperformed load or store, and no DBGSTEP that can issue
(R55, R387, R391). DEDUCED, log entry 57; DEDUCED, log entry 104. -/
def Group.canRoll (g : Group) : Bool :=
  !((g.rope.map (·.pinned)).getD false) && g.ld.all (fun o => o.done || o.engine) && g.st.all (·.done)
    && !(g.stepping && g.hold.isNone && g.stop.isNone)

/-- Nothing keeps a team from being rolled back: no camp that must come first, no group, no outbound copy, no engine operation
in progress, no inbound copy (R55, R135, R136, R276, R322, R387). DEDUCED, log entry 57. -/
def State.canRoll (s : State) (t : Team) : Bool :=
  !t.campBlocks && t.cur.parts.all (fun q => q.groups.all Group.canRoll) && t.cur.copies.all (fun k => !k.outbound)
    && (s.engine (quadOf t.core)).entries.all (fun e =>
        teamOf e.group ≠ t.ref || (s.engine (quadOf t.core)).busy != some e.age)
    && !s.inbound t

/-- The state without a baton that a lender has when no rope holds it (R51). -/
def Group.unlentState (g : Group) : GState :=
  match g.stop with
  | none => .ready
  | some r => (match r.what with
    | .park => .parked
    | _ => .waiting)

/-- A group after a rollback: the camp's, with the stall counters and the debugger's marks as they are (Table 21.1). A
group that lends from another team's rope goes on lending. DEDUCED, log entry 49. -/
def Group.restored (camp cur : Group) : Group :=
  { camp with
    state := if camp.state == .lent && cur.state != .lent then camp.unlentState
      else if camp.state == .faulted && cur.state != .faulted then .ready
      else camp.state
    stalls := cur.stalls, halted := cur.halted, stopped := cur.stopped, stepDue := cur.stepDue, busyUntil := cur.busyUntil }

/-- The marks of register words in rows that the team has not written since its camp stay (R380). -/
def Group.keepMarks (p i : Nat) (log : List LogKey) (g cur : Group) : Group :=
  cur.regs.foldl (fun g e =>
    let code : Byte := BitVec.ofNat 8 e.1
    let kept := maskOf 64 (fun l => laneBit e.2.poison l && !log.contains (.regRow p i e.1 (l / 16)))
    if !loggedReg code || kept == 0 then g
    else g.setReg code ((g.reg code).marked ((lanesOf 64 kept).map (fun l => (l, e.2.srcOf l))))) g

/-- A partition after a rollback. -/
def Part.restored (p : Nat) (log : List LogKey) (camp cur : Part) : Part :=
  { camp with
    groups := camp.groups.zipIdx.map (fun (g, i) => (g.restored (cur.groups.getD i g)).keepMarks p i log (cur.groups.getD i g))
    lastGrant := cur.lastGrant, lastStop := cur.lastStop, lastGive := cur.lastGive
    starve := cur.starve, starved := cur.starved, starvedAt := cur.starvedAt }

/-- A core's share after a rollback: the camp's, with the marks of rows that the team has not written since (R380). -/
def CoreShare.restored (c : Nat) (log : List LogKey) (camp cur : CoreShare) : CoreShare :=
  { camp with
    scratchPoison := dedup (camp.scratchPoison ++ cur.scratchPoison.filter (fun i => !log.contains (.scratchRow c (i / 32))))
    tilePoison := dedup (camp.tilePoison
      ++ cur.tilePoison.filter (fun i => !log.contains (.tileRow c (i / 4096) (i % 4096 / 64)))) }

/-- A team after a rollback: the camp with its batons shared as they now are (R324). DEDUCED, log entry 49. -/
def Team.restored (t : Team) (clk : Nat) : Team :=
  { t with
    cur := { t.camp with
      parts := t.camp.parts.zipIdx.map (fun (q, i) =>
        (q.restored i t.log (t.cur.parts.getD i q)).reshare t.campShare t.share clk)
      cores := t.camp.cores.zipIdx.map (fun (h, i) => h.restored i t.log (t.cur.cores.getD i h)) }
    undo := [], log := [], campDue := none, rollDue := false, logRoll := false }

/-- The undo log restores the bytes of memory that a team has written since its camp, and the mark of a sector that it has
written whole; a mark that stood before stands again. DEDUCED, log entry 100. -/
def State.undoSectors (s : State) (us : List UndoSector) : State :=
  us.foldl (fun s u =>
    let s : State := { s with mem := u.old.foldl (fun m b => cellWrite m (32 * u.sector + b.1) b.2) s.mem }
    match u.poison with
    | some src => s.poisonSector (32 * u.sector) src
    | none => if u.old.length == 32 then s.cleanSector (32 * u.sector) else s) s

/-- The ropes of a team vanish: their lenders return. -/
def State.dropRopes (s : State) (t : Team) : State :=
  t.allGroups.foldl (fun s e => match e.2.rope with
    | some r => s.returnLenders r
    | none => s) s

/-- Re-tests every stop of a team on an object. -/
def State.retestTeam (s : State) (t : TeamRef) : State :=
  match s.team? t, s.launch? t.launch with
  | some m, some l =>
    s.retest (m.allGroups.filterMap (fun e => (e.2.stop.bind (fun r => r.what.object.bind (s.objKey l))).map (· / 32)))
  | _, _ => s

/-- The undo log holds an error: no rollback is possible, and every group that has not exited writes its record, is FAULTED
and stops (R382). -/
def State.lostLog (s : State) (t : Team) : State :=
  let s := t.allGroups.foldl (fun s e =>
    if e.2.state == .exited then s
    else
      let faulted := e.2.state == .faulted
      let pc := if faulted then e.2.faultPc else ((runPath e.2.paths).map (·.pc)).getD 0
      let r := recordOf t e.1 pc { code := 0x30, inner := 9, lanes := e.2.live }
      let held := (s.right? e.1.launch).isSome && !e.2.stopped
      let s := if faulted then (s.putRecord r).modLaunch e.1.launch (fun l => { l with faulted := true }) else s.faultGroup e.1 r pc
      let s := s.modGroup e.1 (fun g => { g with stopped := true, halted := false })
      if held then s.putBlockRecord e.1 2 else s) s
  s.modTeam t.ref (fun t => { t with rollDue := false, logRoll := false, logBad := false, undo := [], log := [] })

/-- A rollback of a team that can be rolled back. -/
def State.rollTeam (s : State) (t : Team) : State :=
  if t.logBad then s.lostLog t
  else
    let s := s.dropRopes t
    let s := s.undoSectors t.undo
    let s := s.leaveEngine t.ref t.core (fun _ => true)
    let s := s.modTeam t.ref (fun m => m.restored (s.clk m.core))
    (s.latch).retestTeam t.ref

/-! ## The undo log is full (R322, R369, R55) -/

/-- QUOTA charged to the leader of a rope, which is dissolved (R369). DEDUCED, log entry 58. -/
def State.quotaFault (s : State) (t : Team) (r : GroupRef) (rope : Rope) (inner : Nat) : State :=
  s.faultGroup r (recordOf t r rope.recruitPc { code := 0x40, inner := inner, lanes := 1#64 <<< rope.leaderLane }) rope.recruitPc

/-- The bytes that the undo log of a core holds. -/
def State.coreLog (s : State) (core : Nat) : Nat := (s.teamsIn core).foldl (fun n t => n + t.logBytes + t.pendingLog) 0

/-- The rollback of a team whose rope met a full undo log: its camp there is fresh, and a rope whose writes alone fill the log
has its leader fault with QUOTA 0 (R322, R369). DEDUCED, log entry 58. -/
def State.logRollback (s : State) (t : Team) : State :=
  let s := s.rollTeam t
  let s := s.modTeam t.ref (fun m => m.takeCamp (s.clk m.core))
  (t.ropes.filter (fun e => e.2.alone)).foldl (fun s e => s.quotaFault t e.1 e.2 0) s

/-- The log of a core is full for a team that leads a rope: a pinned rope is dissolved with QUOTA 1; else the team rolls back,
as soon as it can. A fault waits for its turn in the clock (R38). DEDUCED, log entry 8; DEDUCED, log entry 58. -/
def State.ropeLogFull (s : State) (core : Nat) (t : Team) : State :=
  match t.ropes.filter (fun e => e.2.pinned) with
  | p :: ps => if (p :: ps).all (fun e => s.faultTurn e.1) then (p :: ps).foldl (fun s e => s.quotaFault t e.1 e.2 1) s else s
  | [] =>
    let full := s.coreLog core
    let s := s.modTeam t.ref (fun m => { m.mapGroups (fun g => { g with
      rope := g.rope.map (fun r => { r with alone := r.logBytes != 0 && r.logBytes == full }) }) with rollDue := true, logRoll := true })
    match s.team? t.ref with
    | some m => if s.canRoll m then s.logRollback m else s
    | none => s

/-- UNDO_LOG_FULL: some group or copy of the core waits for the log. -/
def State.undoFull (s : State) (core : Nat) : State :=
  let ts := s.teamsIn core
  if ts.any Team.logWaits then
    ts.foldl (fun s t =>
      if t.roped then (if t.rollDue && !t.pinnedRope then s else s.ropeLogFull core t)
      else s.modTeam t.ref (fun t => t.due .logFull)) s
  else s

def execUndoLogFull (core : Nat) (s : State) : Out := .next (s.onDie (fun s => s.undoFull core))

/-! ## The save record (R81, R323, Tables 16.9, 3.11, 10.9, 21.2) -/

/-- The number of a group state (Table 2.2). -/
def GState.num : GState → Nat
  | .ready => 0
  | .holding => 1
  | .waiting => 2
  | .heldWaiting => 3
  | .parked => 4
  | .lent => 5
  | .leaderSuspended => 6
  | .faulted => 7
  | .exited => 8

/-- The code of a packing (Table 3.10). -/
def Packing.code : Packing → Nat
  | .u => 0
  | .a => 1
  | .g8 => 2
  | .g16 => 3
  | .g32 => 4

/-- The registers that a launch declares. -/
def savedReg (d : Desc) (code : Nat) : Bool :=
  if code < 0x80 then code < d.nv else if code < 0xA0 then code - 0x80 < d.nw
  else if code < 0xC0 then code - 0xA0 < d.ns else code < 0xC2

/-- The packing of a register in a save record: that of its tag. -/
def Reg.savePacking (r : Reg) (code w : Nat) : Packing :=
  if 0x80 ≤ code && code < 0xC0 then (if r.tag == .a then .a else .u) else r.packing w

/-- Pads bytes with zeros to a length. -/
def padTo (n : Nat) (bs : List Byte) : List Byte := bs ++ List.replicate (n - bs.length) 0

/-- The group save record. DESIGN CHOICE, log entry 3; DESIGN CHOICE, log entry 50. -/
def Group.record (g : Group) (d : Desc) : List Byte :=
  let codes := (List.range 0xC2).filter (savedReg d)
  let reg := fun (c : Nat) => g.reg (BitVec.ofNat 8 c)
  let head := leBytes g.state.num 1 ++ leBytes (g.width / 16) 1 ++ leBytes g.paths.length 1 ++ leBytes g.depth 1
    ++ leBytes g.belay.toNat 1 ++ leBytes g.flags.toNat 1
    ++ leBytes (g.m0.full.toNat + 2 * g.m1.full.toNat + 4 * g.m0.ovr.toNat + 8 * g.m1.ovr.toNat) 1
    ++ leBytes g.edited.toNat 1 ++ leBytes g.live.toNat 8
  let depths := (List.range 16).flatMap (fun k =>
    leBytes (if k == 0 then 0xFF else ((g.ks.getD k {}).depth).getD 0xFF) 1)
  let paths := g.paths.flatMap (fun p => leBytes (p.pc.toNat + p.join.isSome.toNat) 8 ++ leBytes p.mask.toNat 8)
  let ks := (List.range 16).flatMap (fun k => leBytes (if k == 0 then 0 else (g.ks.getD k {}).mask.toNat) 8)
  let stalls := (List.range 16).flatMap (fun i => leBytes (lookupD g.stalls i 0) 8)
  let stack := (List.range 16).flatMap (fun i => leBytes (if i < g.depth then (g.stack.getD i 0).toNat else 0) 8)
  let fmt := (List.range 8).flatMap (fun i => leBytes (g.fmt.getD i 0).toNat 4)
  let tags := (List.range 256).flatMap (fun c =>
    if 0xC2 ≤ c then leBytes 0 1
    else if savedReg d c then leBytes (((reg c).savePacking c g.width).code + 16 * (reg c).spill.code) 1
    else leBytes 0xFF 1)
  let data := codes.flatMap (fun c => (reg c).packed ((reg c).savePacking c g.width) g.width)
  let links := (List.range 8).flatMap (fun t => leBytes (lookupD g.links t 0).toNat 8)
  let bs := padTo 0x40 (head ++ depths) ++ padTo 256 paths ++ ks ++ stalls ++ stack ++ fmt ++ tags
    ++ List.replicate 32 0 ++ data ++ links
  padTo ((bs.length + 255) / 256 * 256) bs

/-- The record of a copy in flight. -/
def Copy.record (k : Copy) : List Byte :=
  leBytes k.pc.toNat 8 ++ leBytes k.func 1 ++ leBytes k.f.toNat 1 ++ leBytes k.grp 1 ++ leBytes k.part 1
    ++ leBytes ((k.sync.map (·.toNat)).getD 0) 4 ++ leBytes k.dst.toNat 8 ++ leBytes k.src.toNat 8 ++ leBytes k.bytes 4
    ++ leBytes 0 4 ++ leBytes k.lit.toNat 8 ++ leBytes k.set.toNat 8 ++ leBytes k.delivered 8
    ++ (List.range 64).flatMap (fun i => leBytes (k.idx.getD i 0) 4)

/-- The holder of baton `i` of a partition: a group, the square, or no baton of the team. -/
def Part.holder (q : Part) (b i : Nat) : Nat :=
  if b ≤ i then 0xFF
  else ((q.groups.zipIdx.find? (fun e => e.1.slot == some i)).map (·.2)).getD 0x21

/-- The team save record. DESIGN CHOICE, log entry 50; DESIGN CHOICE, log entry 118. -/
def Team.record (t : Team) (d : Desc) : List Byte :=
  let c := t.cur
  let head := leBytes t.ref.team 4 ++ leBytes c.parts.length 1 ++ leBytes d.groups 1 ++ leBytes c.copies.length 2
    ++ leBytes c.cursor 8
  let batons := padTo 32 (c.parts.flatMap (fun q => (List.range 4).flatMap (fun i => leBytes (q.holder t.share i) 1)))
  let last := padTo 8 (c.parts.flatMap (fun q => leBytes q.lastRecipient 1))
  let locks := leBytes c.locks.length 1 ++ leBytes (if c.unlisted == 0 then 0 else 1) 1 ++ List.replicate 6 0
  let slots := (List.range 4).flatMap (fun i =>
    match ((c.cores.getD 0 {}).qs.find? (fun e => e.1 == i)).map (·.2) with
    | some b => leBytes (0xF0 + b.tA) 1 ++ leBytes ((b.tB.map (0xF0 + ·)).getD 0xFF) 1 ++ leBytes 1 1 ++ List.replicate 5 0
    | none => List.replicate 8 0)
  let owned := padTo 160 (c.locks.flatMap (fun o => leBytes o.toNat 8))
  let groups := c.parts.flatMap (fun q => q.groups.flatMap (fun g => g.record d))
  let scratch := c.cores.flatMap (fun h => cellReads h.scratch 0 d.scratch)
  let tiles := c.cores.flatMap (fun h => (List.range d.tiles).flatMap (fun i => (h.tile i).flatMap (fun w => leBytes w.toNat 4)))
  head ++ batons ++ last ++ locks ++ slots ++ owned ++ groups ++ scratch ++ tiles ++ c.copies.flatMap Copy.record

/-- The largest size of a group record. -/
def Desc.groupSize (d : Desc) : Nat :=
  (0x400 + (d.nv + 2) * 4 * d.width + 8 * d.nw + 4 * d.ns + 64 + 255) / 256 * 256

/-- S_team of R323. -/
def Desc.teamSize (d : Desc) : Nat :=
  let n := d.parts * d.groups
  let cores := if d.pair then 2 else 1
  256 + n * d.groupSize + cores * (d.scratch + d.tiles * 16384) + 63 * n * 0x140

/-! ## Reading a save record back (R82) -/

/-- The group state of a number (Table 2.2). -/
def stateOfNum (n : Nat) : Option GState :=
  [GState.ready, .holding, .waiting, .heldWaiting, .parked, .lent, .leaderSuspended, .faulted, .exited][n]?

/-- The packing of a code (Table 3.10), for a register that takes it. -/
def packingOf (code n : Nat) : Packing :=
  let p := ([Packing.u, .a, .g8, .g16, .g32][n]?).getD .u
  if code < 0x80 || 0xC0 ≤ code then p else if p == .a && code < 0xA0 then .a else .u

/-- A register as a record's bytes and tag byte give it; its marks stay. -/
def Reg.readBack (r : Reg) (code w tag : Nat) (bs : List Byte) : Reg :=
  { Reg.unpacked (packingOf code (tag % 16)) w (clsOf (BitVec.ofNat 8 code)) bs with
    spill := ([Packing.u, .a, .g8, .g16, .g32][tag / 16]?).getD r.spill, poison := r.poison, sources := r.sources }

/-- The registers of a group as a record gives them, and the offset past them. -/
def Group.readRegs (g : Group) (d : Desc) (rd : Nat → Nat → List Byte) : Group × Nat :=
  let tags := rd 0x2E0 256
  ((List.range 0xC2).filter (savedReg d)).foldl (fun (r : Group × Nat) c =>
    let tag := (tags.getD c 0).toNat
    let size := (packingOf c (tag % 16)).size g.width
    let code : Byte := BitVec.ofNat 8 c
    (r.1.setReg code ((g.reg code).readBack c g.width tag (rd r.2 size)), r.2 + size)) (g, 0x400)

/-- A group as its save record gives it (Table 3.11), and the size of the record. A path parked at a JOIN takes what the JOIN
names, and the group what no field of the record holds, from the camp. DESIGN CHOICE, log entry 50. -/
def Group.readBack (g : Group) (d : Desc) (rd : Nat → Nat → List Byte) : Group × Nat :=
  let num := fun (off n : Nat) => leNat (rd off n)
  let paths := (List.range (min 16 (num 2 1))).map (fun i =>
    let pc := num (0x40 + 16 * i) 8
    ({ pc := BitVec.ofNat 64 (pc / 2 * 2), mask := BitVec.ofNat 64 (num (0x48 + 16 * i) 8) &&& fullMask g.width
       join := if pc % 2 == 1 then (g.paths[i]?).bind (·.join) else none } : Path))
  let ks := (List.range 16).map (fun k => if k == 0 then ({} : KMask) else
    { mask := BitVec.ofNat 64 (num (0x140 + 8 * k) 8) &&& fullMask g.width
      depth := if num (0x10 + k) 1 == 0xFF then none else some (num (0x10 + k) 1) })
  let mail := num 6 1
  let (x, off) := g.readRegs d rd
  let links := (List.range 8).filterMap (fun t =>
    let a := num (off + 8 * t) 8
    if a == 0 then none else some (t, BitVec.ofNat 64 a))
  ({ x with
     state := (stateOfNum (num 0 1)).getD g.state, depth := num 3 1, belay := BitVec.ofNat 8 (num 4 1)
     flags := BitVec.ofNat 5 (num 5 1), edited := bit (num 7 1) 0, live := BitVec.ofNat 64 (num 8 8) &&& fullMask g.width
     m0 := { g.m0 with full := bit mail 0, ovr := bit mail 2 }, m1 := { g.m1 with full := bit mail 1, ovr := bit mail 3 }
     paths := paths.filter (fun p => p.mask != 0), ks := ks
     stalls := (List.range 16).map (fun i => (i, num (0x1C0 + 8 * i) 8))
     stack := (List.range (min 16 (num 3 1))).map (fun i => BitVec.ofNat 64 (num (0x240 + 8 * i) 8))
     fmt := (List.range 8).map (fun i => BitVec.ofNat 32 (num (0x2C0 + 4 * i) 4)), links := links },
   (off + 64 + 255) / 256 * 256)

/-- Batons go to the holding groups that the baton record names, and to the square; a group that holds none loses its baton
(R82, R324). -/
def Part.readBatons (q : Part) (holders : List Nat) (clk : Nat) : Part :=
  let holds := fun (g : Group) => g.state == .holding || g.state == .heldWaiting
  let given := fun (i : Nat) => match q.groups[holders.getD i 0xFF]? with
    | some g => holds g && (holders.take i).all (· != holders.getD i 0xFF)
    | none => false
  let groups := q.groups.zipIdx.map (fun (g, j) =>
    match (List.range holders.length).find? (fun i => holders.getD i 0xFF == j && given i) with
    | some i => { g with slot := some i }
    | none => { g with slot := none, state := if g.state == .holding then .ready else if g.state == .heldWaiting then .waiting
                                              else g.state })
  let stray := (List.range holders.length).filter (fun i => holders.getD i 0xFF != 0xFF && !given i)
  { q with
    groups := groups
    square := q.square.filter (fun e => stray.contains e.1)
      ++ (stray.filter (fun i => !q.square.any (fun e => e.1 == i))).map (fun i => (i, clk + 1)) }

/-- The groups of a partition as their records from an offset give them, and the offset past them. -/
def Part.readGroups (q : Part) (d : Desc) (rd : Nat → Nat → List Byte) (off : Nat) : Part × Nat :=
  let r := q.groups.foldl (fun (r : List Group × Nat) g =>
    let x := g.readBack d (fun o n => rd (r.2 + o) n)
    (r.1 ++ [x.1], r.2 + x.2)) ([], off)
  ({ q with groups := r.1 }, r.2)

/-- A copy as its record gives it (Table 10.9). -/
def Copy.readBack (k : Copy) (rd : Nat → Nat → List Byte) : Copy :=
  let num := fun (off n : Nat) => leNat (rd off n)
  { k with
    pc := BitVec.ofNat 64 (num 0 8), func := num 8 1, f := BitVec.ofNat 8 (num 9 1), grp := num 0x0A 1, part := num 0x0B 1
    sync := k.sync.map (fun _ => BitVec.ofNat 32 (num 0x0C 4)), dst := BitVec.ofNat 64 (num 0x10 8)
    src := BitVec.ofNat 64 (num 0x18 8), bytes := num 0x20 4, lit := BitVec.ofNat 64 (num 0x28 8)
    set := BitVec.ofNat 64 (num 0x30 8), delivered := num 0x38 8
    idx := if k.idx.isEmpty then k.idx else (List.range 64).map (fun i => num (0x40 + 4 * i) 4) }

/-- The scratchpad, the tiles and the q slots of a core as the record gives them; the marks stay. Table 16.9 holds the q slots
of one core. -/
def CoreShare.readBack (h : CoreShare) (d : Desc) (c scratch tiles : Nat) (rd : Nat → Nat → List Byte) : CoreShare :=
  let num := fun (off n : Nat) => leNat (rd off n)
  { h with
    scratch := cellWrites [] 0 (rd scratch d.scratch)
    tiles := (List.range d.tiles).map (fun i =>
      (i, (List.range 4096).map (fun w => BitVec.ofNat 32 (num (tiles + 16384 * i + 4 * w) 4))))
    qs := if c != 0 then h.qs else (List.range 4).filterMap (fun i =>
      let at_ := 0x40 + 8 * i
      if num (at_ + 2) 1 == 1 then
        some (i, { tA := num at_ 1 % 16, tB := if num (at_ + 1) 1 == 0xFF then none else some (num (at_ + 1) 1 % 16) })
      else none) }

/-- A team's state as its save record gives it (Tables 16.9 and 21.2); what no field of the record holds is the camp's (R82).
DESIGN CHOICE, log entry 50. -/
def TeamState.readBack (c : TeamState) (d : Desc) (clk : Nat) (rd : Nat → Nat → List Byte) : TeamState :=
  let num := fun (off n : Nat) => leNat (rd off n)
  let parts := c.parts.zipIdx.foldl (fun (r : List Part × Nat) e =>
    let x := e.1.readGroups d rd r.2
    let holders := (List.range 4).map (fun i => num (0x10 + 4 * e.2 + i) 1)
    (r.1 ++ [{ x.1.readBatons holders clk with lastRecipient := num (0x30 + e.2) 1 }], x.2)) ([], 0x100)
  let scratch := parts.2
  let tiles := scratch + c.cores.length * d.scratch
  let copies := tiles + c.cores.length * d.tiles * 16384
  { c with
    parts := parts.1, cursor := num 8 8, unlisted := if num 0x39 1 == 0 then 0 else max 1 c.unlisted
    locks := (List.range (min 20 (num 0x38 1))).map (fun i => BitVec.ofNat 64 (num (0x60 + 8 * i) 8))
    cores := c.cores.zipIdx.map (fun e =>
      e.1.readBack d e.2 (scratch + e.2 * d.scratch) (tiles + e.2 * d.tiles * 16384) rd)
    copies := c.copies.zipIdx.map (fun e => if e.2 < num 6 2 then e.1.readBack (fun o n => rd (copies + 0x140 * e.2 + o) n) else e.1) }

/-- A saved team with the state that its save record gives; the rope that a group lent to has ended, because a team resumes only
when no rope is active (R56). DEDUCED, log entry 122. -/
def State.readTeam (s : State) (l : Launch) (t : Team) : Team :=
  let sp := s.spaceOfVdev (vkeyOfQ l.queue)
  let c := t.cur.readBack l.desc (s.clk t.core) (fun off n => s.vread sp (l.save.toNat + t.ref.team * l.desc.teamSize + off) n)
  let c := c.mapGroups (fun g => if g.state == .lent then { g with state := g.unlentState } else g)
  { t with cur := c, camp := c.mapGroups Group.atCamp, campShare := t.share }

/-! ## Saving (R323) -/

/-- Saves a team that can be rolled back, repaid for heat: the rollback, then the record. A team whose groups have all ended is left to
retire. DESIGN CHOICE, log entry 20; DESIGN CHOICE, log entry 50. -/
def State.saveTeam (s : State) (r : TeamRef) : State :=
  match s.team? r, s.launch? r.launch with
  | some t, some l =>
    let s := (s.repay (clusterOf t.core)).rollTeam t
    match s.team? r with
    | some t => if t.cur.parts.all (fun q => q.groups.all Group.over_) then s
      else
        let s := s.vwrite (s.spaceOfVdev (vkeyOfQ l.queue)) (l.save.toNat + t.ref.team * l.desc.teamSize) (t.record l.desc)
        s.modTeam r (fun t => { t with saved := true })
    | none => s
  | _, _ => s

/-- Running teams of a launch. -/
def State.runningTeams (s : State) (n : Nat) : List Team := s.teams.filter (fun t => t.ref.launch == n && !t.saved)

/-- A lock's OWNER names a group of a team (R245). -/
def SyncObj.ownedBy (o : SyncObj) (t : Team) : Bool :=
  o.type == 1 && t.allGroups.any (fun e => o.owner == ownerWord (t.coreOf e.1.part) (e.1.part % 4) e.1.grp)

/-- Applies a change to every listed lock of a team whose OWNER still names a group of it, each in one step that re-tests
the groups stopped on it (R389, R390). -/
def State.eachLock (s : State) (t : Team) (f : SyncObj → SyncObj) : State :=
  match s.launch? t.ref.launch with
  | none => s
  | some l => t.cur.locks.foldl (fun s o =>
      match s.objKey l o with
      | none => s
      | some k =>
        let x := s.objAt k
        if x.ownedBy t then s.performBytes none (bytesAt (({ space := .phys, addr := k } : Loc).span 32) (f x).bytes) else s) s

/-- PARKED_OWNER of a lock. -/
def SyncObj.park (o : SyncObj) (on : Bool) : SyncObj :=
  { o with kind := if on && !o.parkedOwner then o.kind + 8 else if !on && o.parkedOwner then o.kind - 8 else o.kind }

/-- Sets PARKED_OWNER in the locks of a team saved by a reclaim (R389). -/
def State.markLocks (s : State) (r : TeamRef) : State :=
  match s.team? r with
  | some t => s.eachLock t (·.park true)
  | none => s

/-- The pre-emption of a launch ends once every running team of it can be rolled back: all are saved, the launch waits, and
the baton shares of the others change (R318, R325). A launch that a drain saves resumes where it was (R394).
DEDUCED, log entry 56. -/
def State.settlePreempt (s : State) (l : Launch) : State :=
  match l.preempt with
  | none => s
  | some _ =>
    let ts := s.runningTeams l.num
    if ts.all s.canRoll then
      let s := ts.foldl (fun s t => s.saveTeam t.ref) s
      let s := if l.preempt == some 9 then ts.foldl (fun s t => s.markLocks t.ref) s else s
      (s.modLaunch l.num (fun l => { l with
        preempt := none, savedBy := l.preempt.getD 0, phase := .saved
        borrow := if l.preempt == some 8 then l.borrow else none })).reshare
    else s

/-- A rollback that is due and no save is performed as soon as it can be (R322). DEDUCED, log entry 56. -/
def State.settleRoll (s : State) (t : Team) : State :=
  match s.launch? t.ref.launch with
  | none => s
  | some l =>
    if t.rollDue && l.preempt.isNone && l.stopDue.isNone && s.canRoll t then (if t.logRoll then s.logRollback t else s.rollTeam t)
    else s

def execCamp (t : TeamRef) (s : State) : Out := .next (s.onDie (fun s => s.takeCamp t))

end Sys2Proof.Machine
end

