-- ==== Sys2Proof/Machine/Launches.lean ====
section
/-! DEFINITION. Launches: the kernel descriptor, admission, the choice of running launches, placement, resumption, lending
and reclaim, slices, completion and STOP (07 R172, R173; 16 R308 to R325, R330; 21 R388 to R391). -/

namespace Sys2Proof.Machine

/-! ## The kernel descriptor (R172, R173) -/

/-- Some bytes are all zero. -/
def allZero (bs : List Byte) : Bool := bs.all (· == 0)

/-- A REGIONS entry: base, rows, valid byte, and its last byte. -/
def regionEntry (bs : List Byte) (i : Nat) : Nat × Nat × Nat × Nat :=
  (fieldOf bs (0x48 + 8 * i) 4, fieldOf bs (0x4C + 8 * i) 2, fieldOf bs (0x4E + 8 * i) 1, fieldOf bs (0x4F + 8 * i) 1)

/-- The descriptor that 256 bytes hold (Table 7.21). -/
def descOf (bs : List Byte) : Desc :=
  let f := fieldOf bs 0x07 1
  { width16 := fieldOf bs 0x02 1, groups := fieldOf bs 0x03 1, nv := fieldOf bs 0x04 1, nw := fieldOf bs 0x05 1
    ns := fieldOf bs 0x06 1, helpers := bit f 0, lend := bit f 1, pair := bit f 2, budget := fieldOf bs 0x08 2
    tiles := fieldOf bs 0x0A 1, orth := fieldOf bs 0x0B 1, belay := fieldOf bs 0x0C 1, calls := fieldOf bs 0x0D 1
    scratch := fieldOf bs 0x10 4, entry := BitVec.ofNat 64 (fieldOf bs 0x18 8), callArea := BitVec.ofNat 64 (fieldOf bs 0x20 8)
    fmt := (List.range 8).map (fun i => BitVec.ofNat 32 (fieldOf bs (0x28 + 4 * i) 4))
    regions := ((List.range 8).map (regionEntry bs)).filterMap (fun e => if e.2.2.1 == 1 then some (e.1, e.2.1) else none) }

/-- A region's limits, within SCRATCH; nothing is asked of the base and the rows of an entry that is not valid. -/
def regionOk (scratch : Nat) (e : Nat × Nat × Nat × Nat) : Bool :=
  e.2.2.2 == 0 && (e.2.2.1 == 0
    || (e.2.2.1 == 1 && e.1 % 256 == 0 && 1 ≤ e.2.1 && e.2.1 ≤ 4096 && e.1 + 256 * e.2.1 ≤ scratch))

/-- No two regions of a list overlap. -/
def disjoint : List (Nat × Nat) → Bool
  | [] => true
  | r :: rs => rs.all (fun q => r.1 + 256 * r.2 ≤ q.1 || q.1 + 256 * q.2 ≤ r.1) && disjoint rs

/-- The checks of Table 7.21 and R171; the FMT entries are not checked. -/
def descOk (bs : List Byte) : Bool :=
  let d := descOf bs
  fieldOf bs 0 2 == 1 && (d.width16 == 1 || d.width16 == 2 || d.width16 == 4) && 1 ≤ d.groups && d.groups ≤ 32
    && d.nv ≤ 128 && d.nw ≤ 32 && d.ns ≤ 32 && fieldOf bs 0x07 1 < 8
    && (if d.helpers then 1 ≤ d.budget else d.budget == 0) && d.tiles ≤ 8 && d.orth ≤ 4
    && (d.belay < d.groups || d.belay == 0x21 || d.belay == 0x80) && d.calls ≤ 239 && fieldOf bs 0x0E 2 == 0
    && d.scratch % 256 == 0 && d.scratch ≤ 2 ^ 20 && fieldOf bs 0x14 4 == 0 && d.entry.toNat % 4 == 0
    && (d.calls != 0 || d.callArea == 0) && ((List.range 8).map (regionEntry bs)).all (regionOk d.scratch)
    && disjoint d.regions && allZero ((bs.drop 0x88).take 120)

/-! ## Quotas (R317) -/

/-- What a launch takes of each partition or core: group slots, register rows, compact words, scratchpad rows, tiles. -/
structure Use where
  slots : Nat := 0
  rows : Nat := 0
  words : Nat := 0
  scratch : Nat := 0
  tiles : Nat := 0
  deriving DecidableEq, Repr

/-- What a descriptor needs. -/
def Desc.use (d : Desc) : Use :=
  { slots := d.groups, rows := d.nv * d.width16 * d.groups, words := (2 * d.nw + d.ns) * d.groups
    scratch := (d.scratch + 255) / 256, tiles := d.tiles }

/-- The sum of what some launches take. -/
def Use.sum (us : List Use) : Use :=
  us.foldl (fun a b => { slots := a.slots + b.slots, rows := a.rows + b.rows, words := a.words + b.words,
                         scratch := a.scratch + b.scratch, tiles := a.tiles + b.tiles }) {}

/-- Ranges in their units hold a use of group slots, register rows and scratchpad rows. -/
def Ranges.hold (r : Ranges) (u : Use) : Bool := u.slots ≤ 4 * r.slots && u.rows ≤ 256 * r.rows && u.scratch ≤ 512 * r.scratch

/-- The ranges of a quota. -/
def ranges (q : Quota) : Ranges := { slots := q.groupSlots, rows := q.registerRows, scratch := q.scratchRows }

/-- The units of each range that a use takes. -/
def Use.units (u : Use) : Ranges := { slots := (u.slots + 3) / 4, rows := (u.rows + 255) / 256, scratch := (u.scratch + 511) / 512 }

/-- A quota holds a use. -/
def quotaHolds (q : Quota) (u : Use) : Bool := (ranges q).hold u && u.words ≤ 512 * q.compactWords && u.tiles ≤ q.tiles

/-- The quota of a district. -/
def State.quota (s : State) (d : Nat) : Quota := ((s.districts[d]?).map (·.quota)).getD Quota.none

/-- Applies a function to a district. -/
def State.modDistrict (s : State) (d : Nat) (f : District → District) : State := { s with districts := modAt s.districts d f }

/-- The limits of Table 16.8 for one district, and for its sum with the others. DEDUCED, log entry 66. -/
def quotaOk (q : Quota) (others : List Quota) : Bool :=
  let sum := fun (g : Quota → Nat) => others.foldl (fun n x => n + g x) (g q)
  q.groupSlots ≤ 8 && sum (·.groupSlots) ≤ 8 && sum (·.registerRows) ≤ 8 && sum (·.compactWords) ≤ 8 && sum (·.scratchRows) ≤ 8
    && sum (·.tiles) ≤ 8 && q.ropeLanes ≤ 63 && sum (·.engineWeight) ≤ 64 && sum (·.queueSlots) ≤ 128
    && sum (·.capacity) ≤ 384 && 100 ≤ q.slice && q.slice ≤ 100000 && 16 ≤ q.campInt && q.campInt ≤ 24

/-- The districts other than one. -/
def othersOf (d : Nat) : List Nat := (List.range 8).filter (· != d)

/-- The quota that SETQUOTA has given a district and that waits to take effect, while no team of it is placed. -/
def State.quotaReady (s : State) (d : Nat) : Option Quota :=
  if s.teams.any (fun t => t.district == d && !t.saved) then none else (s.districts[d]?).bind (·.quotaDue)

/-- Puts a quota in force. -/
def District.enforce (x : District) : District := { x with quota := x.quotaDue.getD x.quota, quotaDue := none }

/-- SETQUOTA takes effect when no team of the district is placed and the quotas that other districts still have leave room.
DEDUCED, log entry 56; DEDUCED, log entry 66. -/
def State.settleQuota (s : State) (d : Nat) : State :=
  match s.quotaReady d with
  | none => s
  | some q => if quotaOk q ((othersOf d).map s.quota) then s.modDistrict d District.enforce else s

/-- Every quota that can take effect does: all of them together where they leave one another room, else one by one.
DEDUCED, log entry 66. -/
def State.settleQuotas (s : State) : State :=
  let ds := (List.range 8).filter (fun d => (s.quotaReady d).isSome)
  let then_ := fun (d : Nat) => (s.quotaReady d).getD (s.quota d)
  if ds.all (fun d => quotaOk (then_ d) ((othersOf d).map then_)) then ds.foldl (fun s d => s.modDistrict d District.enforce) s
  else (List.replicate ds.length ds).flatten.foldl State.settleQuota s

/-! ## Admission (R309 to R311) -/

/-- The next launch number: it skips 0 and the numbers that uncompleted launches hold (R310). At most every launch is
skipped once, and 0. -/
def nextNumber (held : List Nat) : Nat → Word → Word
  | 0, n => n
  | fuel + 1, n => if n == 0 || held.contains n.toNat then nextNumber held fuel (n + 1) else n

/-- Cores or pairs of the ready clusters, in ascending order, each by its first core (R26). -/
def readyCores (clu : BitVec 8) (pair : Bool) : List Nat :=
  (List.range 8).flatMap (fun i => if clu.getLsbD i then
    (List.range (if pair then 32 else 64)).map (fun j => 64 * i + (if pair then 2 * j else j)) else [])

/-- The fields of a LAUNCH packet (Table 16.5). -/
def launchOf (k : QueueKey) (p : List Byte) (num order : Nat) (clu : BitVec 8) (d : Desc) : Launch :=
  { num := num, queue := k, cls := fieldOf p 0x02 1, childQ := fieldOf p 0x03 1, split := bit (fieldOf p 0x01 1) 1
    x := fieldOf p 0x04 4, y := fieldOf p 0x08 2, z := fieldOf p 0x0A 2, iters := fieldOf p 0x0C 4, argLen := fieldOf p 0x10 4
    args := BitVec.ofNat 64 (fieldOf p 0x20 8), descAddr := BitVec.ofNat 64 (fieldOf p 0x18 8), desc := d
    faultQ := BitVec.ofNat 64 (fieldOf p 0x28 8), blockRec := BitVec.ofNat 64 (fieldOf p 0x30 8)
    save := BitVec.ofNat 64 (fieldOf p 0x38 8), n := (readyCores clu d.pair).length, order := order, clu := clu }

/-- Writes STATUS of a launch's fault queue. -/
def State.putStatus (s : State) (l : Launch) (status : Nat) : State :=
  s.vwrite (s.spaceOfVdev (vkeyOfQ l.queue)) l.faultQ.toNat (leBytes status 4)

/-- A launch has completed: its number is free, and WAITPREV of its queue no longer waits for it. -/
def State.dropLaunch (s : State) (l : Launch) : State :=
  let q := s.ownQueue l.queue
  let s := s.putQueue { q with earlier := q.earlier.filter (· != l.num) }
  { s with launches := s.launches.filter (fun x => x.num != l.num) }

/-- Admits the LAUNCH packet of a queue: number, the fault queue's header with STATUS 0 and no record, ADMIT entry; a
descriptor that fails R173 completes FAILED. -/
def State.admitLaunch (s : State) (k : QueueKey) (p : List Byte) : State :=
  let sp := s.spaceOfVdev (vkeyOfQ k)
  let bs := s.vread sp (fieldOf p 0x18 8) 256
  let d := descOf bs
  let num := nextNumber (s.launches.map (·.num)) (s.launches.length + 2) (s.launchCount + 1)
  let l := launchOf k p num.toNat s.nextOrder s.ready.clu d
  let s : State := { s with launchCount := num, nextOrder := s.nextOrder + 1, launches := s.launches ++ [l] }
  let q := s.queue k
  let s := s.setQueue { q with admitted := q.admitted + 1, earlier := q.earlier ++ [l.num] }
  let s := s.bumpDistrict k.district 0x50 1
  let s := s.putStatus l 0
  let s := s.vwrite sp (l.faultQ.toNat + 8) (leBytes 0 4 ++ leBytes l.num 4 ++ List.replicate 48 0)
  let s := s.route (rbQueue k 4 0 l.num q.slot)
  if descOk bs && l.argLen ≤ d.scratch && quotaHolds (s.quota k.district) d.use then s
  else
    let s := s.putRecord { info := { code := 0x41, inner := 1, address := l.descAddr }, unit := .command (s.ccOf k.district)
                           launch := l.num, pc := 0, core := 0xFFFF, part := 0, grp := 0, team := 0 }
    (s.putStatus l 3).dropLaunch l

/-! ## Choosing the launches that run (R319, R320) -/

/-- A launch with the district whose ranges it uses. -/
def Launch.home (l : Launch) : Nat := l.borrow.getD l.queue.district

/-- What some launches take of a district's own quotas. -/
def usedOf (ls : List Launch) (d : Nat) : Use :=
  let mine := ls.filter (fun l => l.queue.district == d)
  let all := Use.sum (mine.map (·.desc.use))
  { Use.sum ((mine.filter (fun l => l.borrow.isNone)).map (·.desc.use)) with words := all.words, tiles := all.tiles }

/-- What some launches take of the ranges that a district lends. -/
def lentBy (ls : List Launch) (d : Nat) : Use := Use.sum ((ls.filter (fun l => l.borrow == some d)).map (·.desc.use))

/-- Some launches run together: at most four, each district's own inside its quotas beside those that borrow from it (R317,
R318, R320). -/
def State.fits (s : State) (ls : List Launch) : Bool :=
  ls.length ≤ 4 && (List.range 8).all (fun d =>
    quotaHolds (s.quota d) (usedOf ls d) && (ranges (s.quota d)).hold (Use.sum [usedOf ls d, lentBy ls d]))

/-- They also borrow no more than what each lender spares (R320). -/
def State.room (s : State) (ls : List Launch) : Bool :=
  s.fits ls && (List.range 8).all (fun d => (((s.districts[d]?).map District.spare).getD {}).hold (lentBy ls d))

/-- Of each quota that a use takes, some uses leave enough for a further one. -/
def sparesFor (q : Quota) (used take need : Use) : Bool :=
  let ok := fun (n : Use → Nat) (cap : Nat) => n take == 0 || n used + n take + n need ≤ cap
  ok (·.slots) (4 * q.groupSlots) && ok (·.rows) (256 * q.registerRows) && ok (·.words) (512 * q.compactWords)
    && ok (·.scratch) (512 * q.scratchRows) && ok (·.tiles) q.tiles

/-- A launch takes no quota that a launch requeued by a reclaim before its admission still needs (R390).
DEDUCED, log entry 61. -/
def State.leavesRequeued (s : State) (chosen : List Launch) (l : Launch) : Bool :=
  let d := l.queue.district
  let take := if l.borrow.isSome then { l.desc.use with slots := 0, rows := 0, scratch := 0 } else l.desc.use
  s.launches.all (fun r => r.queue.district != d || r.num == l.num || r.phase == .running || r.stopDue.isSome
    || !((r.reclaimed.map (fun n => decide (n ≤ l.order))).getD false) || chosen.any (fun c => c.num == r.num)
    || sparesFor (s.quota d) (usedOf chosen d) take r.desc.use)

/-- Adds a launch to those chosen, in its own ranges or in ranges that another district lends, or not at all. One that a
reclaim has put back in its queue stays in its own. -/
def State.tryLaunch (s : State) (chosen : List Launch) (l : Launch) : List Launch :=
  let may := fun (x : Launch) => s.room (chosen ++ [x]) && s.leavesRequeued chosen x
  if chosen.any (fun c => c.num == l.num) then chosen
  else if l.phase == .running then (if s.room (chosen ++ [l]) then chosen ++ [l] else chosen)
  else
    let own := { l with borrow := none }
    if may own then chosen ++ [own]
    else if l.reclaimed.isSome then chosen
    else match ((List.range 8).filter (· != l.queue.district)).find? (fun d => may { l with borrow := some d }) with
      | some d => chosen ++ [{ l with borrow := some d }]
      | none => chosen

/-- The order of CLASS, then of admission. -/
def launchBefore (a b : Launch) : Bool := a.cls < b.cls || (a.cls == b.cls && a.order ≤ b.order)

/-- Puts a launch that a reclaim requeued before the launches of its district that were admitted after the reclaim
(R390). DEDUCED, log entry 61. -/
def hoist (ls : List Launch) (l : Launch) : List Launch :=
  match l.reclaimed with
  | none => ls
  | some n =>
    let rest := ls.filter (fun x => x.num != l.num)
    let later := fun (x : Launch) => x.queue.district == l.queue.district && n ≤ x.order
    insertBy (fun _ x => later x || launchBefore l x) l rest

/-- The admitted launches in the order in which places are given. DEDUCED, log entry 61. -/
def State.launchOrder (s : State) : List Launch :=
  let ls := sortBy launchBefore (s.launches.filter (fun l => l.stopDue.isNone))
  ls.foldl hoist ls

/-- A running launch of a district at its slice boundary has run one whole slice, and the time that heat took from it
(R319, R330). DEDUCED, log entry 55. -/
def State.ranSlice (s : State) (l : Launch) : Bool :=
  l.since + 1000 * (s.quota l.queue.district).slice + l.loss ≤ s.hostClk

/-- A running launch that no launch of lower CLASS displaces keeps its place, unless its district's slice boundary ends a
whole slice of it (R319). -/
def State.keeps (s : State) (edge : Option Nat) (chosen : List Launch) (l : Launch) : Bool :=
  l.phase == .running && !chosen.any (fun c => c.num == l.num)
    && !(edge == some l.queue.district && s.ranSlice l)
    && s.room (chosen.filter (fun c => c.phase == .running || c.cls < l.cls) ++ [l])

/-- The choice: launches in order, but those first that must keep their places. -/
def State.chooseFrom (s : State) (edge : Option Nat) : Nat → List Launch → List Launch
  | 0, forced => s.launchOrder.foldl s.tryLaunch forced
  | fuel + 1, forced =>
    let chosen := s.launchOrder.foldl s.tryLaunch forced
    match s.launchOrder.find? (s.keeps edge chosen) with
    | none => chosen
    | some l => s.chooseFrom edge fuel (forced ++ [l])

/-- The launches that should run; one that a STOP is ending keeps its place until it has ended. -/
def State.choose (s : State) (edge : Option Nat := none) : List Launch :=
  s.chooseFrom edge s.launches.length (s.launches.filter (fun l => l.phase == .running && l.stopDue.isSome))

/-- A lender needs its ranges: a launch of it waits that its quotas would hold beside its own running launches, but not beside
those that borrow from it as well (R320). DEDUCED, log entry 59. -/
def State.lenderNeeds (s : State) (d : Nat) : Bool :=
  let run := s.launches.filter (fun l => l.phase == .running)
  let own := run.filter (fun l => l.queue.district == d && l.borrow.isNone)
  s.launches.any (fun l =>
    let use := Use.sum ((l :: own).map (·.desc.use))
    l.queue.district == d && l.phase != .running && l.stopDue.isNone && quotaHolds (s.quota d) use
      && !(ranges (s.quota d)).hold (Use.sum [use, lentBy run d]))

/-- Starts the reclaim of a district's ranges: a RECLAIM entry, and every borrowed launch there is to be saved and requeued
(R320). DEDUCED, log entry 59. -/
def State.reclaim (s : State) (d : Nat) : State :=
  match s.launches.filter (fun l => l.borrow == some d && l.phase == .running && l.preempt.isNone) with
  | [] => s
  | b :: bs =>
    let s := (s.bumpDistrict d 0x30 1).route { type := 9, district := d }
    (b :: bs).foldl (fun s l =>
      let s := s.modLaunch l.num (fun l => { l with preempt := some 9, reclaimed := some s.nextOrder })
      { s with teams := s.teams.map (fun t => if t.ref.launch == l.num && !t.saved then { t with rollDue := true } else t) }) s

/-- Reclaims what lenders need. DEDUCED, log entry 59. -/
def State.reclaimAll (s : State) : State :=
  (List.range 8).foldl (fun s d => if s.lenderNeeds d then s.reclaim d else s) s

/-- A pre-emption or a drain is in progress. -/
def State.unsettled (s : State) : Bool := !s.drains.isEmpty || s.launches.any (fun l => l.preempt.isSome)

/-- The firmware chooses anew: launches that lose their places are pre-empted, for PRIORITY, or for SLICE at a boundary. -/
def State.rechoose (s : State) (edge : Option Nat := none) : State :=
  let s := s.reclaimAll
  if s.unsettled then s
  else
    let chosen := s.choose edge
    (s.launches.filter (fun l => l.phase == .running && !chosen.any (fun c => c.num == l.num))).foldl
      (fun s l => s.startPreempt l.num (if edge == some l.queue.district then 6 else 2)) s

/-! ## Placement and resumption (R309, R318, R324, R390) -/

/-- No rope is active: shares may fall (R56, R324). DEDUCED, log entry 122. -/
def State.noRopes (s : State) : Bool := s.teams.all (fun t => t.saved || !t.roped)

/-- Notes what a district uses of its own ranges in this slice, and the lending of a launch's ranges (R320).
DEDUCED, log entry 59. -/
def State.notePlace (s : State) (l : Launch) : State :=
  match l.borrow with
  | some d => (s.bumpDistrict d 0x28 1).route { type := 8, district := d }
  | none =>
    let d := l.queue.district
    let u := (Use.sum ((s.launches.filter (fun x => x.phase == .running && x.queue.district == d && x.borrow.isNone)).map
      (·.desc.use))).units
    s.modDistrict d (fun x => { x with peak :=
      { slots := max x.peak.slots u.slots, rows := max x.peak.rows u.rows, scratch := max x.peak.scratch u.scratch } })

/-- Places the teams of a launch: scratchpad, arguments, tiles and slots as R309 gives, batons as R31 does. -/
def State.place (s : State) (l : Launch) : State :=
  let args := s.vread (s.spaceOfVdev (vkeyOfQ l.queue)) l.args.toNat l.argLen
  let cores := readyCores l.clu l.desc.pair
  let refs := cores.zipIdx.map (fun (c, j) => (c, ({ launch := l.num, team := j } : TeamRef)))
  let s : State := s.modLaunch l.num (fun x => { x with phase := .running, borrow := l.borrow, since := s.hostClk })
  let s1 : State := { s with teams := s.teams ++ refs.map (fun e => newTeam l e.2 e.1 4 s.nextOrder (s.clk e.1)) }
  let teams := refs.map (fun e =>
    let share := match s1.team? e.2 with
      | some t => s1.shareOn t e.1
      | none => 4
    newTeam l e.2 e.1 share s.nextOrder (s.clk e.1) args)
  ({ s with teams := s.teams ++ teams, nextOrder := s.nextOrder + 1 } : State).reshare.notePlace l

/-- The channels of what a launch's start reads, its arguments or the save records of its teams, are ready (R347).
DEDUCED, log entry 110. -/
def State.startReady (s : State) (l : Launch) : Bool :=
  let sp := s.spaceOfVdev (vkeyOfQ l.queue)
  if l.phase == .admitted then s.vready sp l.args.toNat l.argLen
  else (s.teams.filter (fun t => t.ref.launch == l.num)).all (fun t =>
    s.vready sp (l.save.toNat + t.ref.team * l.desc.teamSize) l.desc.teamSize)

/-- LAUNCH_PLACEMENT: a launch that waits gets its place when the choice gives it one; launches that it displaces are
pre-empted first. DEDUCED, log entry 122. -/
def State.placeLaunch (s : State) (n : Nat) : State :=
  let s := s.rechoose
  if s.unsettled || !s.noRopes then s
  else match s.choose.find? (fun l => l.num == n) with
    | some l => if l.phase == .admitted && s.startReady l then s.place l else s
    | none => s

def execLaunchPlacement (launch : Nat) (s : State) : Out := .next (s.byFw (fun s => s.placeLaunch launch))

/-- A saved team resumes with a share: its save record is read back, its batons go back as recorded, and marks of PARKED_OWNER
end (R82, R324, R390). DESIGN CHOICE, log entry 50. -/
def State.resumeTeam (s : State) (l : Launch) (r : TeamRef) (order : Nat) : State :=
  match s.team? r with
  | none => s
  | some t =>
    let share := s.shareOn t t.core
    let clk := s.clk t.core
    let t := s.readTeam l t
    let s := s.modTeam r (fun _ => { (t.modCur (fun c => { c with parts := c.parts.map (fun q => q.reshare t.share share clk) })) with
      share := share, order := order, rollDue := false, lastCamp := clk })
    (s.eachLock t (·.park false)).retestTeam r

/-- Resumes every saved team of a launch. -/
def State.resume (s : State) (l : Launch) : State :=
  let rs := (s.teams.filter (fun t => t.ref.launch == l.num && t.saved)).map (·.ref)
  let s := s.modLaunch l.num (fun x => { x with
    phase := .running, borrow := l.borrow, reclaimed := none, since := s.hostClk, loss := 0, savedBy := 0 })
  let s : State := { s with teams := s.teams.map (fun t => if t.ref.launch == l.num then { t with saved := false } else t) }
  let s := rs.foldl (fun s r => s.resumeTeam l r s.nextOrder) s
  let s := ({ s with nextOrder := s.nextOrder + 1 } : State).reshare
  (s.latch.notePlace l).route (rbQueue l.queue 6 (if l.savedBy == 8 then 8 else 0) l.num (s.queue l.queue).slot)

/-- TEAM_RESUME: a saved launch resumes when the choice gives it a place. DEDUCED, log entry 122. -/
def State.resumeLaunch (s : State) (n : Nat) : State :=
  let s := s.rechoose
  if s.unsettled || !s.noRopes then s
  else match s.choose.find? (fun l => l.num == n) with
    | some l => if l.phase == .saved && s.startReady l then s.resume l else s
    | none => s

def execTeamResume (launch : Nat) (s : State) : Out := .next (s.byFw (fun s => s.resumeLaunch launch))

/-! ## Completion (R28, R311, R391) -/

/-- The final event record of a debug right (R391), with the cycle count and the sequence number of the command-complex core
that writes it (R358). DESIGN CHOICE, log entry 102. -/
def State.endRight (s : State) (r : DebugRight) : State :=
  let cc := s.ccOf (((s.launch? r.launch).map (·.queue.district)).getD 0)
  let (s, seq) := s.takeEventSeq (512 + cc)
  let s := s.putEvent r (leBytes 4 4 ++ leBytes r.launch 4 ++ List.replicate 16 0 ++ leBytes (s.ccClk.getD cc 0) 8 ++ leBytes seq 8)
  { s with rights := s.rights.filter (fun x => x.launch != r.launch) }

/-- A debug right over a completed launch ends. -/
def State.endRightOf (s : State) (n : Nat) : State :=
  match s.right? n with
  | some r => s.endRight r
  | none => s

/-- LAUNCH_COMPLETE: every team has retired; STATUS 1, or 2 with fault records, and EDITED. -/
def State.finishLaunch (s : State) (n : Nat) : State :=
  match s.launch? n with
  | none => s
  | some l =>
    if l.phase == .admitted || l.stopDue.isSome || s.teams.any (fun t => t.ref.launch == n) then s
    else
      let s := s.putStatus l ((if l.faulted then 2 else 1) + 256 * l.edited.toNat)
      ((s.endRightOf n).dropLaunch l).rechoose

def execLaunchComplete (launch : Nat) (s : State) : Out := .next (s.byFw (fun s => s.finishLaunch launch))

/-! ## STOP (R313) -/

/-- The groups of a team that neither exited nor stopped get a block record with STOPPED. DEDUCED, log entry 69. -/
def State.stopRecords (s : State) (t : Team) : State :=
  t.allGroups.foldl (fun s e => if e.2.over_ then s
    else s.putBlockRecord e.1 (4 + (if e.2.state == .faulted then 2 else 0))) s

/-- Completes a mailbox command that ended later than it began. -/
def State.replyTo (s : State) (e : Fn × MbCtl) (result : Nat) : State := s.reply e.1 e.2 result

/-- A DBGSTEP of a team that is discarded ends without its instruction. DEDUCED, log entry 104. -/
def State.endSteps (s : State) (t : Team) : State :=
  t.allGroups.foldl (fun s e => match e.2.stepDue with
    | some mb => s.replyTo mb 3
    | none => s) s

/-- Ends one team of a stopped launch: a running one is rolled back first, its locks are freed. -/
def State.discard (s : State) (r : TeamRef) : State :=
  match s.team? r with
  | none => s
  | some t =>
    let s := if t.saved then s else s.rollTeam t
    match s.team? r with
    | none => s
    | some t =>
      let s := s.eachLock t (fun o => { (o.park false) with owner := 0, gen := o.gen + 1 })
      ((s.stopRecords t).endSteps t).removeTeam t

/-- A stop is performed once every running team of the launch can be rolled back and no save is in progress.
DEDUCED, log entry 56. -/
def State.settleStop (s : State) (n : Nat) : State :=
  match s.launch? n with
  | none => s
  | some l =>
    match l.stopDue with
    | none => s
    | some mb =>
      if l.preempt.isSome || !(s.runningTeams n).all s.canRoll then s
      else
        let rs := (s.teams.filter (fun t => t.ref.launch == n)).map (·.ref)
        let s := rs.foldl State.discard s
        let edited := ((s.launch? n).map (·.edited)).getD l.edited
        let s := s.putStatus l (4 + 256 * edited.toNat)
        let s := (s.bumpDistrict l.queue.district 0x58 1).route (rbQueue l.queue 15 8 n (s.queue l.queue).slot)
        ((s.endRightOf n).dropLaunch l).replyTo mb 0

/-! ## What the firmware has in hand -/

/-- Every rollback, save, stop and quota that is due and can be performed is performed (R313, R317, R322, R323).
DEDUCED, log entry 56. -/
def State.settle (s : State) : State :=
  let s := s.teams.foldl State.settleRoll s
  let s := s.launches.foldl (fun s l => match s.launch? l.num with
    | some l => s.settlePreempt l
    | none => s) s
  let s := s.launches.foldl (fun s l => s.settleStop l.num) s
  s.settleQuotas

/-! ## Slices (R314, R319, R320) -/

/-- The queues of a district that the device knows, as they stand. -/
def State.queuesOf (s : State) (d : Nat) : List Queue := (s.queues.filter (fun q => q.key.district == d)).map (fun q => s.queue q.key)

/-- AGE of every waiting or mapped queue with work. -/
def State.ageQueues (s : State) (d : Nat) : State :=
  (s.queuesOf d).foldl (fun s q =>
    if (q.state == 2 || q.state == 3) && q.hasWork then
      let q := { q with age := min 255 (q.age + 1) }
      (s.setQueue q).noteQueue q
    else s) s

/-- The waiting queue that comes first: the higher effective priority, the larger AGE, the lower virtual device, the lower
index. -/
def waitBefore (a b : Queue) : Bool :=
  b.waitPrio < a.waitPrio || (a.waitPrio == b.waitPrio && (b.age < a.age || (a.age == b.age &&
    (a.key.vdev < b.key.vdev || (a.key.vdev == b.key.vdev && a.key.idx ≤ b.key.idx)))))

/-- The mapped queue that gives way first: the lower effective priority, the smaller AGE, the higher slot. -/
def mapBefore (a b : Queue) : Bool :=
  a.mapPrio < b.mapPrio || (a.mapPrio == b.mapPrio && (a.age < b.age || (a.age == b.age && b.slot.getD 0 ≤ a.slot.getD 0)))

/-- The best waiting queue of a district, of all or of those with work. -/
def State.bestWaiting (s : State) (d : Nat) (work : Bool) : Option Queue :=
  (sortBy waitBefore ((s.queuesOf d).filter (fun q => q.state == 2 && (!work || q.hasWork)))).head?

/-- The mapped queue of a district that gives way first. -/
def State.weakest (s : State) (d : Nat) : Option Queue := (sortBy mapBefore ((s.queuesOf d).filter (fun q => q.state == 3))).head?

/-- Swaps of a boundary: waiting queues with work take free slots; then the best waiting queue, with work or without, takes
the place of a weaker mapped one (R314). DEDUCED, log entry 81. -/
def State.swapQueues (s : State) (d : Nat) : Nat → State
  | 0 => s
  | fuel + 1 =>
    match s.freeSlot d, s.bestWaiting d true with
    | some slot, some w => (s.mapQueue w.key slot 2).swapQueues d fuel
    | free, _ =>
      match s.bestWaiting d false, s.weakest d with
      | some w, some v =>
        if v.mapPrio < w.waitPrio then
          (match free with
            | some slot => s.mapQueue w.key slot 2
            | none => (s.evictQueue v.key).mapQueue w.key (v.slot.getD 0) 2).swapQueues d fuel
        else s
      | _, _ => s

/-- What a district lends in the slice that begins: what it left unused for the whole of the last one, when LEND is set.
DEDUCED, log entry 59. -/
def State.lendSlice (s : State) (d : Nat) : State :=
  s.modDistrict d (fun x =>
    let lends := match x.record with
      | some a => bit (cellLe s.mem (a.toNat + 0x0C) 4) 0
      | none => false
    let q := ranges x.quota
    let now := (Use.sum ((s.launches.filter (fun l => l.phase == .running && l.queue.district == d && l.borrow.isNone)).map
      (·.desc.use))).units
    { x with
      lastSlice := s.hostClk, peak := now
      spare := if lends then { slots := q.slots - x.peak.slots, rows := q.rows - x.peak.rows, scratch := q.scratch - x.peak.scratch }
        else {} })

/-- A district from which more is borrowed than it spares takes its ranges back (R320). DEDUCED, log entry 59. -/
def State.settleLending (s : State) (d : Nat) : State :=
  if s.room (s.launches.filter (fun l => l.phase == .running)) then s else s.reclaim d

/-- The channels of what the end of a district's slice reads are ready (R347). DEDUCED, log entry 110. -/
def State.sliceReady (s : State) (d : Nat) : Bool :=
  (s.queues.filter (fun q => q.key.district == d)).all (fun q => s.qcbReady q.key)
    && (match (s.districts[d]?).bind (·.record) with
      | some a => s.pready a.toNat 16
      | none => true)

/-- SLICE_BOUNDARY: losses to heat are added, queues age and are swapped, lending is settled, and the running launches are
chosen (R330). DEDUCED, log entry 55. -/
def State.sliceEnd (s : State) (d : Nat) : State :=
  match s.districts[d]? with
  | none => s
  | some x =>
    if s.hostClk < x.lastSlice + 1000 * x.quota.slice || !s.sliceReady d then s
    else
      let s := ((List.range 8).foldl State.repay s).ageQueues d
      let s := s.swapQueues d (2 * s.queues.length)
      ((s.lendSlice d).settleLending d).rechoose (some d)

def execSliceBoundary (district : Nat) (s : State) : Out := .next (s.byFw (fun s => s.sliceEnd district))

end Sys2Proof.Machine
end

