-- ==== Sys2Proof/Machine/Packets.lean ====
section
/-! DEFINITION. Packets of user queues: parsing, WAITPREV, and the effect of each type (16 R301 to R308, R315, R349; 21
R392). -/

namespace Sys2Proof.Machine

/-! ## The head of a queue (R302) -/

/-- A COPY of a queue is in progress. DEDUCED, log entry 64. -/
def State.copying (s : State) (k : QueueKey) : Bool := s.hubCopies.any (fun c => c.queue = k)

/-- The channels of the walks to `n` bytes are ready (R347). DEDUCED, log entry 110. -/
def State.walksReady (s : State) (sp : VSpace) (va n : Nat) : Bool :=
  (List.range (n / 2 ^ 19 + 2)).all (fun i =>
    let a := if i == 0 then va else (va / 2 ^ 19 + i) * 2 ^ 19
    va + n ≤ a || (match s.xlate sp a with
      | .error .wait => false
      | _ => true))

/-- The channels of what a packet makes the firmware read, and of the walks that its checks need, are ready (R347).
DEDUCED, log entry 110. -/
def State.packetReady (s : State) (q : Queue) (p : List Byte) : Bool :=
  let sp := s.spaceOfVdev (vkeyOfQ q.key)
  let le := fieldOf p
  match le 0 1 with
  | 1 => s.vready sp (le 0x18 8) 256 && s.walksReady sp (le 0x20 8) (le 0x10 4) && s.walksReady sp (le 0x28 8) 64
      && s.walksReady sp (le 0x30 8) 256 && s.walksReady sp (le 0x38 8) 256
  | 2 => (List.range (min (condPackets (le 1 1)) (q.backlog - 1))).all (fun j =>
      let i := q.rdIdx + 1 + BitVec.ofNat 32 j
      s.vready sp (q.slotAddr i) 64 && (List.range 4).all (fun m => s.walksReady sp (fieldOf (s.packetBytes q i) (16 * m) 7) 8))
  | 3 => s.vready sp (le 8 8) 8
  | 4 => s.vready sp (le 8 8) 8
  | 5 => s.walksReady sp (le 8 8) (le 24 8) && s.walksReady sp (le 16 8) (le 24 8)
  | _ => true

/-- The channels of the packet at RDIDX and of what it needs are ready (R347). DEDUCED, log entry 110. -/
def State.headReady (s : State) (q : Queue) : Bool :=
  s.vready (s.spaceOfVdev (vkeyOfQ q.key)) (q.slotAddr q.rdIdx) 64 && s.packetReady q (s.packetBytes q q.rdIdx)

/-- The packet that a mapped queue parses next, if it parses one: no packet of it is in progress or waits, and what it needs is
ready (R347). -/
def State.head (s : State) (k : QueueKey) : Option (Queue × List Byte) :=
  let q := s.queue k
  if !s.fwUp || !s.served k.district || q.state != 3 || q.backlog == 0 || q.pkind == 2 || q.waiting || s.copying k
      || !s.headReady q then none
  else some (q, s.packetBytes q q.rdIdx)

/-! ## Checks (R307, Table 16.4) -/

/-- Offending fields: the byte offset and the code of each. -/
abbrev Offences := List (Nat × Nat)

/-- The offending field at the lowest offset. DEDUCED, log entry 62. -/
def lowest (os : Offences) : Option (Nat × Nat) :=
  os.foldl (fun (r : Option (Nat × Nat)) o => match r with
    | none => some o
    | some b => if o.1 < b.1 then some o else r) none

/-- An offence when a test fails. -/
def need (ok : Bool) (off code : Nat) : Offences := if ok then [] else [(off, code)]

/-- A field that must be zero. -/
def zeroField (p : List Byte) (off n : Nat) : Offences := need (fieldOf p off n == 0) off 2

/-- Bytes that must be zero and belong to no field: the first that is not. -/
def zeroBytes (p : List Byte) (off n : Nat) : Offences :=
  match (List.range n).find? (fun i => p.getD (off + i) 0 != 0) with
  | some i => [(off + i, 2)]
  | none => []

/-- `n` bytes from an address on translate, each page with the rights that are needed. DEDUCED, log entry 65. -/
def State.rangeOk (s : State) (sp : VSpace) (va n rights : Nat) : Bool :=
  n == 0 || (va + n ≤ 2 ^ 64 && (List.range (n / 2 ^ 19 + 2)).all (fun i =>
    let a := if i == 0 then va else (va / 2 ^ 19 + i) * 2 ^ 19
    va + n ≤ a || (!isWindow a && (match s.xlate sp a with
      | .ok x => missing rights x.rights == 0
      | .error _ => false))))

/-- An address field: aligned, then translated and permitted. DEDUCED, log entry 65. -/
def State.addrField (s : State) (sp : VSpace) (p : List Byte) (off align n rights : Nat) : Offences :=
  let a := fieldOf p off 8
  if a % align != 0 then [(off, 5)] else need (s.rangeOk sp a n rights) off 4

/-- FLAGS with the bits that may be set. -/
def flagsField (p : List Byte) (allowed : Nat) : Offences := need (fieldOf p 1 1 / allowed == 0) 1 2

/-- What is wrong with a packet of one slot. DEDUCED, log entry 62; DEDUCED, log entry 65. -/
def State.offences (s : State) (q : Queue) (p : List Byte) : Offences :=
  let sp := s.spaceOfVdev (vkeyOfQ q.key)
  let le := fieldOf p
  match le 0 1 with
  | 0 => flagsField p 2 ++ zeroBytes p 2 62
  | 1 =>
    flagsField p 4 ++ need (le 2 1 ≤ 7) 2 3 ++ need (le 3 1 ≤ 63 || le 3 1 == 0xFF) 3 3 ++ need (1 ≤ le 4 4) 4 3
      ++ need (1 ≤ le 8 2) 8 3 ++ need (1 ≤ le 10 2) 10 3 ++ need (le 4 4 * le 8 2 * le 10 2 < 2 ^ 32) 4 3
      ++ need (1 ≤ le 12 4) 12 3 ++ need (le 16 4 % 16 == 0) 16 3 ++ zeroField p 0x14 4 ++ s.addrField sp p 0x18 1 256 1
      ++ s.addrField sp p 0x20 1 (le 16 4) 1 ++ s.addrField sp p 0x28 64 64 3 ++ s.addrField sp p 0x30 256 256 2
      ++ s.addrField sp p 0x38 256 256 3
  | 2 => need (1 ≤ le 1 1 && le 1 1 ≤ 12) 1 3 ++ zeroBytes p 2 62
  | 3 =>
    (if q.pkind == 3 then [(0, 6)] else []) ++ need (1 ≤ le 1 1 && le 1 1 ≤ 4) 1 3 ++ need (le 2 1 ≤ 15) 2 3
      ++ need (le 3 1 ≤ 15) 3 3 ++ zeroBytes p 4 4 ++ s.addrField sp p 8 8 8 1 ++ zeroBytes p 24 40
  | 4 =>
    flagsField p 16 ++ need (le 2 1 ≤ 63) 2 3 ++ zeroBytes p 3 5
      ++ (let n := if bit (le 1 1) 3 then 8 else 4; s.addrField sp p 8 n n 3) ++ zeroBytes p 24 40
  | 5 =>
    flagsField p 2 ++ zeroBytes p 2 6 ++ s.addrField sp p 8 1 (le 24 8) 2 ++ s.addrField sp p 16 1 (le 24 8) 1
      ++ zeroBytes p 32 32
  | 6 => flagsField p 2 ++ zeroBytes p 2 6 ++ zeroBytes p 16 48
  | _ => [(0, 1)]

/-- What is wrong with a condition packet that holds `m` conditions (R304). DEDUCED, log entry 63. -/
def State.condOffences (s : State) (q : Queue) (p : List Byte) (m : Nat) : Offences :=
  let sp := s.spaceOfVdev (vkeyOfQ q.key)
  (List.range m).flatMap (fun i =>
    let a := fieldOf p (16 * i) 7
    let op := fieldOf p (16 * i + 7) 1
    (if a % 8 != 0 then [(16 * i, 5)] else need (s.rangeOk sp a 8 1) (16 * i) 4) ++ need (1 ≤ op && op ≤ 4) (16 * i + 7) 3)
    ++ zeroBytes p (16 * m) (64 - 16 * m)

/-! ## Words that packets write -/

/-- The places of bytes of a virtual device's space that the command complex may write. -/
def State.vlocs (s : State) (sp : VSpace) (va n : Nat) : List Loc :=
  (List.range n).filterMap (fun i => (s.vkeyOf sp (va + i) 2).map (fun k => ({ space := .phys, addr := k } : Loc)))

/-- Writes a value at sys scope as an agent that is no team. -/
def State.vput (s : State) (sp : VSpace) (va : Nat) (bs : List Byte) : State :=
  let ls := s.vlocs sp va bs.length
  if ls.length == bs.length then s.performBytes none (bytesAt ls bs) else s

/-! ## FENCE (R304) -/

/-- A FENCE packet starts when its condition packets are in the ring. DEDUCED, log entry 63. -/
def State.startFence (s : State) (q : Queue) (p : List Byte) : State :=
  let n := fieldOf p 1 1
  let m := condPackets n
  if q.backlog < 1 + m then s
  else
    let bad := (List.range m).findSome? (fun j =>
      lowest (s.condOffences q (s.packetBytes q (q.rdIdx + 1 + BitVec.ofNat 32 j)) (min 4 (n - 4 * j))))
    match bad with
    | some (off, code) => s.queueError q code off
    | none => (s.setQueue { q with pkIdx := q.rdIdx, condMask := 0, pkind := 2 }).testFence q.key

/-- FENCE_RETEST (R304). DEDUCED, log entry 63. -/
def execFenceRetest (q : QueueKey) (s : State) : Out := .next (s.testFence q)

/-! ## PRED (R305) -/

/-- A PRED packet tests its word as soon as it stands at the head: one arm runs, and the other is skipped as its packets come
into the ring. DEDUCED, log entry 63. -/
def State.pred (s : State) (q : Queue) (p : List Byte) : State :=
  let yes := fieldOf p 2 1
  let no := fieldOf p 3 1
  let holds := condHolds (fieldOf p 1 1) (s.vle (s.spaceOfVdev (vkeyOfQ q.key)) (fieldOf p 8 8) 8) (fieldOf p 16 8)
  let (before, arm, skip) := if holds then (0, yes, no) else if no == 0 then (0, 0, yes) else (yes, no, 0)
  let q := { q with
    pkIdx := q.rdIdx, rdIdx := q.rdIdx + 1, pkind := 3, armLeft := arm, skipLeft := skip, skipNow := before }
  (s.setQueue q.skip).refill q.key

/-! ## SIGNAL, COPY, MARK (R302, R306, R328) -/

/-- A SIGNAL packet: the write or add, then the completion that it counts, and the queue's fields in memory. -/
def State.signal (s : State) (q : Queue) (p : List Byte) : State :=
  let sp := s.spaceOfVdev (vkeyOfQ q.key)
  let f := fieldOf p 1 1
  let n := if bit f 3 then 8 else 4
  let a := fieldOf p 8 8
  let v := fieldOf p 16 n
  let s := s.vput sp a (leBytes (if bit f 1 then s.vle sp a n + v else v) n)
  let s := s.performed q.key
  let s := s.saveQueue (s.queue q.key)
  let s := if bit f 2 then s.addCompletion (s.fnOf (vkeyOfQ q.key)) (fieldOf p 2 1) q.key else s
  s.testFences

/-- A COPY packet starts on the hub die. DEDUCED, log entry 64. -/
def State.startCopy (s : State) (q : Queue) (p : List Byte) : State :=
  { s with hubCopies := s.hubCopies ++ [{ queue := q.key, dst := BitVec.ofNat 64 (fieldOf p 8 8)
                                          src := BitVec.ofNat 64 (fieldOf p 16 8), bytes := fieldOf p 24 8 }] }

/-- The channels of both ends of a COPY packet are ready (R347). DEDUCED, log entry 110. -/
def State.copyReady (s : State) (c : HubCopy) : Bool :=
  let sp := s.spaceOfVdev (vkeyOfQ c.queue)
  s.vready sp c.src.toNat c.bytes && s.vready sp c.dst.toNat c.bytes

/-- COPY_PACKET_COMPLETE: the bytes have been copied, once their channels are ready (R347). -/
def State.endCopy (s : State) (k : QueueKey) : State :=
  match s.hubCopies.find? (fun c => c.queue = k) with
  | none => s
  | some c =>
    if !s.copyReady c then s
    else
      let sp := s.spaceOfVdev (vkeyOfQ k)
      let s : State := { s with hubCopies := s.hubCopies.filter (fun x => x.queue ≠ k) }
      (s.vput sp c.dst.toNat (s.vread sp c.src.toNat c.bytes)).performed k

def execCopyPacketComplete (q : QueueKey) (s : State) : Out := .next (s.byFw (fun s => s.endCopy q))

/-! ## Performing a packet -/

/-- Performs a packet that has passed its checks and waits for nothing. -/
def State.perform (s : State) (q : Queue) (p : List Byte) : State :=
  match fieldOf p 0 1 with
  | 1 => if s.drains.isEmpty then ((s.admitLaunch q.key p).performed q.key).rechoose else s
  | 2 => s.startFence q p
  | 3 => s.pred q p
  | 4 => s.signal q p
  | 5 => s.startCopy q p
  | 6 => (s.route (rbQueue q.key 11 0 (fieldOf p 8 8) q.slot)).performed q.key
  | _ => s.performed q.key

/-- Whether a packet has WAITPREV: FLAGS[0] of every type but FENCE and PRED. DEDUCED, log entry 63. -/
def waitPrev (p : List Byte) : Bool := fieldOf p 0 1 != 2 && fieldOf p 0 1 != 3 && bit (fieldOf p 1 1) 0

/-- The slot of a queue parses the packet at its head, of a type. -/
def State.parse (s : State) (k : QueueKey) (type : Nat) : State :=
  match s.head k with
  | none => s
  | some (q, p) =>
    if fieldOf p 0 1 != type then s
    else match lowest (s.offences q p) with
      | some (off, code) => s.queueError q code off
      | none =>
        if waitPrev p && !q.earlier.isEmpty then s.setQueue { q with waiting := true } else s.perform q p

def execNopPacket (q : QueueKey) (s : State) : Out := .next (s.parse q 0)
def execLaunchPacket (q : QueueKey) (s : State) : Out := .next (s.parse q 1)
def execFencePacket (q : QueueKey) (s : State) : Out := .next (s.parse q 2)
def execPredPacket (q : QueueKey) (s : State) : Out := .next (s.parse q 3)
def execSignalPacket (q : QueueKey) (s : State) : Out := .next (s.parse q 4)
def execCopyPacket (q : QueueKey) (s : State) : Out := .next (s.parse q 5)
def execMarkPacket (q : QueueKey) (s : State) : Out := .next (s.parse q 6)

/-- RESERVED_PACKET_TYPE: a type from 7 up at the head (R307). -/
def State.reservedPacket (s : State) (k : QueueKey) : State :=
  match s.head k with
  | some (q, p) => if 7 ≤ fieldOf p 0 1 then s.queueError q 1 0 else s
  | none => s

def execReservedPacketType (q : QueueKey) (s : State) : Out := .next (s.reservedPacket q)

/-- WAITPREV_RELEASE: every earlier launch and copy of the queue has completed, so the packet that waits is performed. -/
def State.releasePrev (s : State) (k : QueueKey) : State :=
  let q := s.queue k
  if !s.fwUp || !s.served k.district || q.state != 3 || !q.waiting || !q.earlier.isEmpty || s.copying k || q.backlog == 0
      || !s.headReady q then s
  else
    let q := { q with waiting := false }
    (s.setQueue q).perform q (s.packetBytes q q.rdIdx)

def execWaitprevRelease (q : QueueKey) (s : State) : Out := .next (s.releasePrev q)

end Sys2Proof.Machine
end

