-- ==== Sys2Proof/Machine/Host.lean ====
section
/-! DEFINITION. What reaches the device from outside, and what it does about itself: kicks, registers, mailbox commands but
those of the debugger, apertures, peers, interrupts, clocks, power, row activation (00 R5, R6; 16 R298 to R300, R326, R327,
R330; 17; 19 R379, R383; 21 R393, R394). -/

namespace Sys2Proof.Machine

/-! ## Kicks (R298, R299) -/

/-- The virtual device that a function is. -/
def State.vdevOf (s : State) (f : Fn) : Option Vdev := s.vdevs.find? (fun v => v.fn = f)

/-- The device takes accesses: verified firmware has been started and no critical trip has come (R351, R352). -/
def State.answers (s : State) : Bool := !s.ready.trip && (s.ready.cc != 0 || !s.reloads.isEmpty)

/-- KICK: a write to the kick page of a function; an unbound one ignores it, and a value above 63 is ignored. -/
def State.kick (s : State) (f : Fn) (val : Dword) : State :=
  match s.vdevOf f with
  | none => s
  | some v =>
    if !s.answers || 64 ≤ val.toNat then s
    else (s.kickQueue { district := v.key.district, vdev := v.key.vdev, idx := val.toNat }).testFences

def execKick (f : Fn) (val : Dword) (s : State) : Out := .next (s.kick f val)

/-- Sets whether a virtual device is scheduled. -/
def State.setScheduled (s : State) (k : VdevKey) (on : Bool) : State :=
  { s with vdevs := s.vdevs.map (fun x => if x.key = k then { x with scheduled := on } else x) }

/-- A virtual device is descheduled: its kicks wait (R299). DESIGN CHOICE, log entry 106. -/
def State.deschedule (s : State) (k : VdevKey) : State := s.setScheduled k false

/-- VIRTUAL_DEVICE_SCHEDULED: the kicks deferred while it was descheduled are acted on. DEDUCED, log entry 81. -/
def State.schedule (s : State) (k : VdevKey) : State :=
  match s.vdev? k with
  | none => s
  | some v => if v.scheduled then s else ((s.setScheduled k true).kickPending k v.pending).testFences

def execVirtualDeviceScheduled (v : VdevKey) (s : State) : Out := .next (s.byFw (fun s => s.schedule v))

/-! ## Registers of a function (R5, R6, R326, R327, R332, R344) -/

/-- REGISTER_WRITE: eight bytes at an offset of BAR0. ARGS of the mailbox and the MSI-X table are RW; every other register
without a row of its own ignores a write. -/
def State.registerWrite (s : State) (f : Fn) (off : Nat) (val : Dword) : State :=
  let put := fun (l : List Host.Cell) (base top : Nat) => cellWrites l (off - base) (leBytes val.toNat (min 8 (top - off)))
  if !s.answers then s
  else if 0x1008 ≤ off && off < 0x1040 then
    s.modFn f (fun x => { x with mailbox := { x.mailbox with args := put x.mailbox.args 0x1008 0x1040 } })
  else if 0x2000 ≤ off && off < 0x2400 then s.modFn f (fun x => { x with msix := put x.msix 0x2000 0x2400 })
  else s

def execRegisterWrite (f : Fn) (off : Nat) (val : Dword) (s : State) : Out := .next (s.registerWrite f off val)

/-- VECTOR_COALESCING_WRITE: a write whose T or D is zero is ignored as a whole. -/
def State.coalesce (s : State) (f : Fn) (v : Nat) (val : Dword) : State :=
  let t : BitVec 8 := val.extractLsb' 16 8
  let d : BitVec 16 := val.extractLsb' 0 16
  if !s.answers || 64 ≤ v || t == 0 || d == 0 then s
  else s.modFn f (fun x => { x with vectors := insertKey x.vectors v { x.vector v with t := t, d := d } })

def execVectorCoalescingWrite (f : Fn) (v : Nat) (val : Dword) (s : State) : Out := .next (s.coalesce f v val)

/-- VECTOR_DELAY_EXPIRY: D cycles after the oldest pending completion. -/
def State.vectorDelay (s : State) (f : Fn) (v : Nat) : State :=
  let x := (s.fnState f).vector v
  if x.pending != 0 && x.due ≤ s.hostClk then s.fireVector f v else s

def execVectorDelayExpiry (f : Fn) (v : Nat) (s : State) : Out := .next (s.vectorDelay f v)

/-- A queue is idle: RDIDX = WRIDX and no launch of it is running (R326). -/
def State.queueIdle (s : State) (k : QueueKey) : Bool :=
  (s.queue k).rdIdx == (s.queue k).wrIdx && !s.launches.any (fun l => l.queue = k && l.phase == .running)

/-- A vector has completions pending, and the queue of its last SIGNAL is idle. -/
def State.vectorRests (s : State) (x : Vector) : Bool := x.pending != 0 && (x.last.map s.queueIdle).getD false

/-- VECTOR_IDLE_FIRE: the queue of the vector's last SIGNAL is idle. -/
def State.vectorIdle (s : State) (f : Fn) (v : Nat) : State :=
  if s.vectorRests ((s.fnState f).vector v) then s.fireVector f v else s

def execVectorIdleFire (f : Fn) (v : Nat) (s : State) : Out := .next (s.vectorIdle f v)

/-! ## Reading a register (R5, R6) -/

/-- Byte `i` of a number. -/
def byteAt (n i : Nat) : Byte := BitVec.ofNat 8 (n / 256 ^ i)

/-- READY0 (Table 17.6). -/
def ReadyRegs.word0 (r : ReadyRegs) : Nat :=
  r.clu.toNat + 2 ^ 8 * r.cc.toNat + 2 ^ 16 * r.cxl.toNat + 2 ^ 20 * r.peer.toNat + 2 ^ 36 * r.link.toNat
    + 2 ^ 62 * r.trip.toNat + 2 ^ 63 * r.done.toNat

/-- Bytes 0x00 to 0x7F of the mailbox (Table 17.4). -/
def MailboxRegs.byte (m : MailboxRegs) (i : Nat) : Byte :=
  if i < 4 then byteAt m.cmd.toNat i
  else if 8 ≤ i && i < 0x40 then cellRead m.args (i - 8)
  else if 0x40 ≤ i && i < 0x44 then byteAt (m.busy.toNat + 2 * m.done.toNat + 256 * m.result) (i - 0x40)
  else if 0x48 ≤ i && i < 0x80 then m.out.getD (i - 0x48) 0
  else 0

/-- The last-error record (Table 19.4). -/
def LastError.bytes (e : LastError) : List Byte :=
  leBytes e.mech 1 ++ leBytes e.kind 1 ++ leBytes e.unit 2 ++ leBytes 0 4 ++ leBytes e.loc.toNat 8 ++ leBytes e.cycle 8
    ++ leBytes e.seq 8

/-- A channel's row-activation registers (Table 19.5). -/
def RowAct.word (r : RowAct) : Nat :=
  r.cycle.toNat + 2 ^ 32 * r.row.toNat + 2 ^ 52 * r.bank.toNat + 2 ^ 64 * r.rfms.toNat + 2 ^ 96 * r.alerts.toNat

/-- A mechanism with an error counter (R381). -/
def counted (mech : Nat) : Bool := (1 ≤ mech && mech ≤ 9) || (16 ≤ mech && mech ≤ 18)

/-- The bytes that every PF shows alike: the error block and the row-activation registers, from 0x4000. -/
def State.blockByte (s : State) (off : Nat) : Byte :=
  if off < 0x4100 then
    let e := lookupD s.errs ((off - 0x4000) / 8) (0, 0)
    if counted ((off - 0x4000) / 8) then byteAt (e.1.toNat + 2 ^ 32 * e.2.toNat) (off % 8) else 0
  else if off < 0x4120 then s.lastError.bytes.getD (off - 0x4100) 0
  else if 0x4200 ≤ off && off < 0x4200 + 16 * 192 then
    byteAt (lookupD s.rowAct ((off - 0x4200) / 16) {}).word (off % 16)
  else 0

/-- The byte at an offset of BAR0 of a function: a write-only field, a reserved one and an offset without a register read
zero; READY and the error block are those of a PF (R5, R6, R298, R327, R332, R344, R346, R381, R383). -/
def State.registerByte (s : State) (f : Fn) (off : Nat) : Byte :=
  let x := s.fnState f
  if off < 0x1000 then
    if 8 ≤ off && off < 16 then byteAt (((s.vdevOf f).map Vdev.pending).getD 0).toNat (off - 8) else 0
  else if off < 0x1080 then x.mailbox.byte (off - 0x1000)
  else if 0x2000 ≤ off && off < 0x2400 then cellRead x.msix (off - 0x2000)
  else if 0x2800 ≤ off && off < 0x2A00 then
    let v := x.vector ((off - 0x2800) / 8)
    byteAt (v.d.toNat + 2 ^ 16 * v.t.toNat) (off % 8)
  else if f.num != 0 then 0
  else if 0x3000 ≤ off && off < 0x3008 then byteAt s.ready.word0 (off - 0x3000)
  else if 0x3008 ≤ off && off < 0x3020 then byteAt s.ready.chan.toNat (off - 0x3008)
  else if 0x4000 ≤ off then s.blockByte off
  else 0

/-- The device answers a read of BAR0: of READY always, of the mailbox also after the critical trip, and else while it takes
accesses (R351, R352). DEDUCED, log entry 74. -/
def State.answersAt (s : State) (off : Nat) : Bool :=
  s.answers || (0x3000 ≤ off && off < 0x3020) || (s.ready.trip && 0x1000 ≤ off && off < 0x1080)

/-- What a read of eight bytes of BAR0 returns, which changes nothing; none where the device does not answer. -/
def State.registerRead (s : State) (f : Fn) (off : Nat) : Option (List Byte) :=
  if s.answersAt off then some ((List.range 8).map (fun i => s.registerByte f (off + i))) else none

/-! ## The mailbox (R344, R345) -/

/-- A function that the device has. -/
def fnExists (f : Fn) : Bool := f.link < 2 && f.num ≤ 64

/-- A write of CMD starts a command, unless one is in progress, the trip has been taken or no firmware runs. A command that a
virtual function may not issue gives result 2; `act` does the others, and replies.
DESIGN CHOICE, log entry 68. -/
def State.command (s : State) (f : Fn) (mb : MbCtl) (code : Nat) (vf : Bool) (act : State → State) : State :=
  if !fnExists f || !s.fwUp || (s.fnState f).mailbox.busy then s
  else
    let word : Word := BitVec.ofNat 32 (code % 2 ^ 16 + mb.vector.toNat * 2 ^ 24 + mb.irq.toNat * 2 ^ 30)
    let s := s.modFn f (fun x => { x with mailbox := { x.mailbox with cmd := word, busy := true, done := false } })
    if f.num != 0 && !vf then s.reply f mb 2 else act s

/-- A command that ends at once, with result 3 when an argument is out of range. -/
def State.simply (s : State) (f : Fn) (mb : MbCtl) (ok : Bool) (act : State → State) : State :=
  if ok then (act s).reply f mb 0 else s.reply f mb 3

/-- UNKNOWN_COMMAND: an unassigned code (R344). DESIGN CHOICE, log entry 68. -/
def execUnknownCommand (f : Fn) (mb : MbCtl) (code : Nat) (s : State) : Out :=
  .next (if 1 ≤ code && code ≤ 0x18 then s else s.command f mb code false (fun s => s.reply f mb 1))

/-- SETQCB: the QCB table of the function's virtual device. DEDUCED, log entry 80;
DEDUCED, log entry 123. -/
def execSetqcb (f : Fn) (mb : MbCtl) (addr : Dword) (s : State) : Out :=
  .next (s.command f mb 0x01 true (fun s => s.simply f mb (s.vdevOf f).isSome (fun s =>
    { s with vdevs := s.vdevs.map (fun v => if v.fn = f then { v with qcbTable := addr } else v) })))

/-- SETQUOTA (R317). DEDUCED, log entry 66. -/
def execSetquota (f : Fn) (mb : MbCtl) (district : Nat) (q : Quota) (s : State) : Out :=
  .next (s.command f mb 0x02 false (fun s =>
    let others := (othersOf district).map (fun d => ((s.districts[d]?).bind (·.quotaDue)).getD (s.quota d))
    s.simply f mb (district < 8 && quotaOk q others) (fun s =>
      ((s.modDistrict district (fun x => { x with quotaDue := some q })).settleQuota district).settleQuotas)))

/-- SETASID: a root table for an ASID, and the ASID of a virtual device (R341). -/
def execSetasid (f : Fn) (mb : MbCtl) (asid : Nat) (root : Dword) (vdev : Option VdevKey) (s : State) : Out :=
  .next (s.command f mb 0x03 false (fun s =>
    s.simply f mb (asid < 65536 && root.toNat % 2 ^ 15 == 0 && (match vdev with
        | some k => (s.vdev? k).isSome
        | none => true)) (fun s =>
      { s with
        asids := insertKey s.asids asid root
        vdevs := s.vdevs.map (fun v => if vdev = some v.key then { v with asid := asid } else v) })))

/-- An address lies in the range of an INVAL. -/
def inRange (range : Option (Dword × Nat)) (va : Dword) : Bool :=
  match range with
  | none => true
  | some (base, len) => base.toNat ≤ va.toNat && va.toNat < base.toNat + len

/-- A replay whose address an INVAL covers is to be walked again (R374). -/
def Replay.mark (r : Replay) (range : Option (Dword × Nat)) : Replay :=
  if inRange range r.va then { r with rewalk := true } else r

/-- Marks every replay of an address space that an INVAL covers. DEDUCED, log entry 16. -/
def State.markReplays (s : State) (asid : Nat) (range : Option (Dword × Nat)) : State :=
  { s with
    teams := s.teams.map (fun t =>
      if (s.launchSpace t.ref.launch).asid != asid then t
      else (t.mapGroups (fun g => { g with replay := g.replay.map (·.mark range) })).modCur (fun c =>
        { c with copies := c.copies.map (fun k => { k with replay := k.replay.map (·.mark range) }) }))
    engines := s.engines.map (fun e => (e.1, { e.2 with entries := e.2.entries.map (fun x =>
      if (s.launchSpace x.group.launch).asid != asid then x else { x with replay := x.replay.map (·.mark range) }) })) }

/-- INVAL (R342): it waits for INVAL_COMPLETE. DEDUCED, log entry 16. -/
def execInval (f : Fn) (mb : MbCtl) (asid : Nat) (range : Option (Dword × Nat)) (s : State) : Out :=
  .next (s.command f mb 0x04 false (fun s =>
    if 65536 ≤ asid then s.reply f mb 3
    else { s.markReplays asid range with invals := s.invals ++ [{ fn := f, mb := mb, asid := asid, range := range }] }))

/-- Every store that was translated in an address space is performed. -/
def State.storesOut (s : State) (asid : Nat) : Bool :=
  s.teams.all (fun t => (s.launchSpace t.ref.launch).asid != asid || t.cur.parts.all (fun q => q.groups.all (fun g => g.st.all (·.done))))

/-- INVAL_COMPLETE: every access that used an old entry has been performed. -/
def execInvalComplete (f : Fn) (s : State) : Out :=
  .next (s.byFw fun s => match s.invals.find? (fun i => i.fn = f) with
    | none => s
    | some i => if s.storesOut i.asid then (({ s with invals := s.invals.filter (· ≠ i) } : State).reply f i.mb 0).catchUp else s)

/-- APERTURE: the BAR2 base of a link's PF. -/
def execAperture (f : Fn) (mb : MbCtl) (base : Dword) (s : State) : Out :=
  .next (s.command f mb 0x05 false (fun s => s.simply f mb (base.toNat < Config.lpddrBytes) (fun s =>
    { s with apertures := insertKey s.apertures f.link base })))

/-- CXLMAP: a port's HDM decoder (R333). -/
def execCxlmap (f : Fn) (mb : MbCtl) (port : Nat) (hpa : Dword) (size : Nat) (s : State) : Out :=
  .next (s.command f mb 0x06 false (fun s => s.simply f mb (port < 4) (fun s =>
    { s with cxlMap := sortBy (fun a b => a.1 ≤ b.1) (insertKey s.cxlMap port (hpa, size)) })))

/-- PEERWIN: the exported window (R334). -/
def execPeerwin (f : Fn) (mb : MbCtl) (base : Dword) (size : Nat) (s : State) : Out :=
  .next (s.command f mb 0x07 false (fun s => s.simply f mb (base.toNat + size ≤ Config.lpddrBytes) (fun s =>
    { s with peerWin := some (base, size) })))

/-- SETPOWER: 600 W to 2,200 W in steps of 25 W (R351). -/
def execSetpower (f : Fn) (mb : MbCtl) (watts : Nat) (s : State) : Out :=
  .next (s.command f mb 0x0B false (fun s => s.simply f mb (600 ≤ watts && watts ≤ 2200 && watts % 25 == 0) (fun s =>
    { s with power := watts })))

/-! ## Firmware (R348, R352, R393) -/

/-- The districts that a command-complex core serves. -/
def State.districtsOf (s : State) (core : Nat) : List Nat := (List.range 8).filter (fun d => s.ccOf d == core)

/-- The mapped queues of some districts are saved as they are handed over. -/
def State.handOver (s : State) (ds : List Nat) : State :=
  (s.queues.filter (fun q => q.state == 3 && ds.contains q.key.district)).foldl (fun s q => s.saveQueue q) s

/-- The FWLOAD entries of a core in the districts that it serves. DEDUCED, log entry 21. -/
def State.noteReload (s : State) (core : Nat) : State :=
  (s.districtsOf core).foldl (fun s d => (s.bumpDistrict d 0x48 1).route { type := 14, district := d }) s

/-- Every bit of READY0 [37:0] and of READY1 to READY3 is set. -/
def ReadyRegs.full (r : ReadyRegs) : Bool :=
  r.clu == BitVec.allOnes 8 && r.cc == BitVec.allOnes 8 && r.cxl == BitVec.allOnes 4 && r.peer == BitVec.allOnes 16
    && r.link == BitVec.allOnes 2 && r.chan == BitVec.allOnes 192

/-- DONE is set once every bit is, and stays set (R347). -/
def State.noteDone (s : State) : State := { s with ready := { s.ready with done := s.ready.done || s.ready.full } }

/-- The bit of a core in READY0.CC. -/
def ccBit (core : Nat) : BitVec 8 := BitVec.ofNat 8 1 <<< core

/-- A command-complex core runs verified firmware. -/
def State.ccRuns (s : State) (core : Nat) : Bool := s.ready.cc &&& ccBit core != 0

/-- A core is taken out of service to be reloaded or reset: the queues of its districts are saved, and the districts wait for
another core. One that a fault is resetting takes the command's image too. DESIGN CHOICE, log entry 105. -/
def State.startReload (s : State) (core : Nat) (job : Option (Fn × MbCtl × Dword)) : State :=
  if s.reloads.any (fun r => r.core == core) then
    { s with reloads := s.reloads.map (fun r => if r.core == core && job.isSome then { r with job := job } else r) }
  else
    let s := s.handOver (s.districtsOf core)
    { s with
      ready := { s.ready with cc := s.ready.cc &&& ~~~(ccBit core) }
      reloads := s.reloads ++ [{ core := core, job := job }] }

/-- Kicks that came during a hand-over are acted on by the core that has taken the districts (R394). -/
def State.kickDistricts (s : State) (ds : List Nat) : State :=
  ((s.vdevs.filter (fun v => ds.contains v.key.district && v.scheduled)).foldl (fun s v => s.kickPending v.key v.pending) s).testFences

/-- A running core takes over the districts that wait (R348, R393). DESIGN CHOICE, log entry 105. -/
def State.takeOver (s : State) (core : Nat) : State :=
  let from_ := (s.reloads.filter (fun r => !r.taken)).map (·.core)
  let ds := (List.range 8).filter (fun d => from_.contains (s.ccOf d))
  ({ s with
     serving := ds.foldl (fun m d => insertKey m d core) s.serving
     reloads := s.reloads.map (fun r => { r with taken := true }) } : State).kickDistricts ds

/-- A core resumes, and serves its own districts again. -/
def State.backInService (s : State) (core : Nat) : State :=
  let ds := (List.range 8).filter (fun d => d % 8 == core)
  let s := s.handOver ds
  ({ s with
     ready := { s.ready with cc := s.ready.cc ||| ccBit core }, reloads := s.reloads.filter (fun r => r.core != core)
     serving := s.serving.filter (fun e => e.1 % 8 != core) } : State).noteDone.kickDistricts ds

/-- What the boot ROM and FWLOAD accept: a signature that verifies, a security version that is at least the fused minimum, and
at most 16 MiB (R352). -/
def State.accepts (s : State) (signed : Bool) (version length : Nat) : Bool := signed && s.fwMin ≤ version && length ≤ 2 ^ 24

/-- The checks of a firmware image. DESIGN CHOICE, log entry 79. -/
def State.imageOk (s : State) (image : Dword) : Bool :=
  s.accepts (Config.signatureValid s.mem image.toNat) (Config.imageVersion s.mem image.toNat)
    (Config.imageLength s.mem image.toNat)

/-- The channels of a firmware image are ready (R347). DEDUCED, log entry 110. -/
def State.imageReady (s : State) (image : Dword) : Bool :=
  (List.range (Config.imageLength s.mem image.toNat / 2048 + 2)).all (fun i => s.keyReady (image.toNat + 2048 * i))

/-- The checks of the boot image at a reset. DEDUCED, log entry 4. -/
def State.bootOk (s : State) : Bool :=
  s.accepts (Config.bootSignatureValid s.free) (Config.bootImageVersion s.free) (Config.bootImageLength s.free)

/-- The image that a core takes from memory. DESIGN CHOICE, log entry 79. -/
def State.loadImage (s : State) (core : Nat) (image : Dword) : State :=
  let x : FwImage := { addr := image, version := Config.imageVersion s.mem image.toNat, digest := Config.imageDigest s.mem image.toNat }
  { s with fw := insertKey s.fw core x }

/-- A command that waited for another FWLOAD begins; it waits as an entry of no core. -/
def State.nextJob (s : State) : State :=
  match s.reloads.find? (fun r => r.core == 8) with
  | some r => ({ s with reloads := s.reloads.erase r } : State).startReload 0 r.job
  | none => s

/-- The reload of a core ends: without a command it takes its verified image again; a command's image is verified first, and
after the last core the command completes. An image that fails its checks gives result 4 (R348, R352, R393).
DESIGN CHOICE, log entry 79; DESIGN CHOICE, log entry 105. -/
def State.endReload (s : State) (r : Reload) : State :=
  match r.job with
  | none => (s.backInService r.core).noteReload r.core
  | some (f, mb, image) =>
    if !s.imageReady image then s
    else if !s.imageOk image then ((s.backInService r.core).reply f mb 4).nextJob
    else
      let s := ((s.loadImage r.core image).backInService r.core).noteReload r.core
      if r.core < 7 then s.startReload (r.core + 1) r.job else (s.reply f mb 0).nextJob

/-- A reload or reset goes on at a clock of a command-complex core: a running core takes the districts that wait; a core whose
districts have been taken, or that has no running core beside it, comes back. DESIGN CHOICE, log entry 105. -/
def State.reloadTick (s : State) (core : Nat) : State :=
  if s.reloads.isEmpty then s
  else match s.reloads.find? (fun r => r.core == core) with
    | some r => if r.taken || s.ready.cc == 0 then s.endReload r else s
    | none => if s.ccRuns core && s.reloads.any (fun r => !r.taken) then s.takeOver core else s

/-- FWLOAD: the cores are reloaded one at a time, from core 0, once no other FWLOAD is in progress (R348).
DESIGN CHOICE, log entry 105. -/
def execFwload (f : Fn) (mb : MbCtl) (image : Dword) (s : State) : Out :=
  .next (s.command f mb 0x08 false (fun s =>
    if s.reloads.any (·.job.isSome) then { s with reloads := s.reloads ++ [{ core := 8, taken := true, job := some (f, mb, image) }] }
    else s.startReload 0 (some (f, mb, image))))

/-- FIRMWARE_CORE_FAULT: a core that faults outside a parse is reset, its queues and districts pass to the others, and it
reloads its verified image (R393). DESIGN CHOICE, log entry 105. -/
def execFirmwareCoreFault (core : Nat) (s : State) : Out :=
  .next (if 8 ≤ core || s.ready.trip || !s.ccRuns core then s else s.startReload core none)

/-! ## Drains and retrains (R349, R350, R394) -/

/-- DRAIN: every running launch is pre-empted; the cluster is recalibrated when they are saved. -/
def execDrain (f : Fn) (mb : MbCtl) (cluster : Nat) (s : State) : Out :=
  .next (s.command f mb 0x09 false (fun s =>
    if 8 ≤ cluster then s.reply f mb 3
    else
      let s : State := { s with drains := s.drains ++ [(cluster, f, mb)] }
      (s.launches.foldl (fun s l => s.startPreempt l.num 8) s).settle))

/-- Resumes the launches that drains pre-empted as they were, in the order of their places, while they fit; a reclaim and a
choice that came meanwhile follow (R349, R394). DEDUCED, log entry 69. -/
def State.resumeDrained (s : State) : State :=
  let drained := sortBy launchBefore (s.launches.filter (fun l => l.phase == .saved && l.savedBy == 8 && l.stopDue.isNone))
  let back := drained.foldl (fun ls l => if s.fits (ls ++ [l]) then ls ++ [l] else ls) []
  let s := back.foldl (fun s l => s.resume l) s
  ((List.range 8).foldl State.settleLending s).rechoose

/-- DRAIN_END: the first drain's recalibration ends; after the last the launches resume, with reason HOST.
DEDUCED, log entry 69. -/
def State.drainEnd (s : State) (cluster : Nat) : State :=
  match s.drains with
  | [] => s
  | d :: ds =>
    if d.1 != cluster || s.launches.any (fun l => l.phase == .running) then s
    else
      let s := ({ s with drains := ds } : State).reply d.2.1 d.2.2 0
      if ds.isEmpty then s.resumeDrained else s

def execDrainEnd (cluster : Nat) (s : State) : Out := .next (s.byFw (fun s => s.drainEnd cluster))

/-- RETRAIN: a channel leaves service from a clock of the host interface on; accesses to it only wait. DEDUCED, log entry 48. -/
def execRetrain (f : Fn) (mb : MbCtl) (channel : Nat) (s : State) : Out :=
  .next (s.command f mb 0x0A false (fun s =>
    if 192 ≤ channel then s.reply f mb 3 else { s with retrains := s.retrains ++ [(channel, s.hostClk, f, mb)] }))

/-- RETRAIN_END. DEDUCED, log entry 48. -/
def execRetrainEnd (channel : Nat) (s : State) : Out :=
  .next (s.byFw fun s => match s.retrains.find? (fun e => e.1 == channel) with
    | none => s
    | some e => ({ s with retrains := s.retrains.erase e } : State).reply e.2.2.1 e.2.2.2 0)

/-! ## Other commands -/

/-- READCYC: a unit's local cycle count and the host interface's (R358). DEDUCED, log entry 66. -/
def execReadcyc (f : Fn) (mb : MbCtl) (u : CycleUnit) (s : State) : Out :=
  .next (s.command f mb 0x14 true (fun s =>
    let count := match u with
      | .core i => if i < 512 then some (s.clk i) else none
      | .commandCore i => if i < 8 then some (s.ccClk.getD i 0) else none
      | .channel i => if i < 192 then some (lookupD s.chanClk i 0) else none
      | .cluster i => if i < 8 then some (s.clocks.getD i 0) else none
      | .host => some s.hostClk
    match count with
    | some n => s.reply f mb 0 (leBytes n 8 ++ leBytes s.hostClk 8)
    | none => s.reply f mb 3))

/-- The quotas in force, as bytes in the order of Table 16.8. DESIGN CHOICE, log entry 60. -/
def quotaBytes (q : Quota) : List Byte :=
  [q.groupSlots, q.registerRows, q.compactWords, q.scratchRows, q.tiles, q.ropeLanes, q.engineWeight, q.queueSlots, q.capacity,
    q.slice, q.campInt].flatMap (fun n => leBytes n 4)

/-- The measurements of R353 by index: the boot ROM's version, the digest of the command complex's firmware, that of the
cluster control's, and that of the district quotas in force. DESIGN CHOICE, log entry 60. -/
def State.measurements (s : State) : List (Nat × List Byte) :=
  [(1, Config.bootRomVersion), (2, (lookupD s.fw 0 { digest := Config.bootImageDigest }).digest), (3, Config.clusterControlDigest),
    (4, Config.sha384 (s.districts.flatMap (fun d => quotaBytes d.quota)))]

/-- The responder's answer to a request: it knows the device's identity key and certificate chain and the measurements, and
takes a fresh number for each answer (R353). DESIGN CHOICE, log entry 60. -/
def State.spdmAnswer (s : State) (req : List Byte) : State × List Byte :=
  ({ s with free := s.free + 1 }, Config.spdmResponse Config.identityKey Config.certificateChain s.measurements s.free req)

/-- SPDM: one message through a buffer of the function's virtual device. The responder works without firmware (R352).
DESIGN CHOICE, log entry 60; DEDUCED, log entry 66. -/
def execSpdm (f : Fn) (mb : MbCtl) (buf : Dword) (len : Nat) (s : State) : Out :=
  .next (if s.ready.trip || !fnExists f || (s.fnState f).mailbox.busy then s
    else
      let sp := ((s.vdevOf f).map Vdev.space).getD {}
      let s0 := s
      let (s, out) := s.spdmAnswer (s.vread sp buf.toNat len)
      let word : Word := BitVec.ofNat 32 (0x15 + mb.vector.toNat * 2 ^ 24 + mb.irq.toNat * 2 ^ 30)
      let s := s.modFn f (fun x => { x with mailbox := { x.mailbox with cmd := word, busy := true, done := false } })
      if s0.vready sp buf.toNat (max len out.length) then (s.vput sp buf.toNat out).reply f mb 0 (leBytes out.length 4) else s0)

/-- SPDM_DOE_MESSAGE: the responder answers over DOE. DESIGN CHOICE, log entry 60. -/
def execSpdmDoeMessage (f : Fn) (req : List Byte) (s : State) : Out :=
  .next (if s.ready.trip then s
    else
      let (s, out) := s.spdmAnswer req
      { s with replies := s.replies ++ [(64 + 65 * f.link + f.num, out)] })

/-- DISTREC: the address of a district record (R316). -/
def execDistrec (f : Fn) (mb : MbCtl) (district : Nat) (addr : Dword) (s : State) : Out :=
  .next (s.command f mb 0x16 false (fun s =>
    s.simply f mb (district < 8 && addr.toNat + 256 ≤ Config.lpddrBytes) (fun s =>
      s.modDistrict district (fun x => { x with record := some addr }))))

/-- Every queue of a virtual device has STATE 0 or 4, and no launch of it is uncompleted (R300). -/
def State.vdevQuiet (s : State) (k : VdevKey) : Bool :=
  (List.range 64).all (fun i =>
    let st := (s.queue { district := k.district, vdev := k.vdev, idx := i }).state
    st == 0 || st == 4)
  && !s.launches.any (fun l => vkeyOfQ l.queue = k)

/-- SETVDEV: binds a function to a place of a district, or unbinds it (R300). -/
def execSetvdev (f : Fn) (mb : MbCtl) (target : Fn) (vdev : Option VdevKey) (s : State) : Out :=
  .next (s.command f mb 0x17 false (fun s =>
    let old := s.vdevOf target
    let quiet := match old with
      | some v => s.vdevQuiet v.key
      | none => true
    let free := match vdev with
      | some k => k.district < 8 && k.vdev < 16 && (match s.vdev? k with
        | some v => v.fn = target
        | none => true)
      | none => true
    s.simply f mb (fnExists target && quiet && free) (fun s =>
      let rest := s.vdevs.filter (fun v => v.fn ≠ target)
      { s with
        vdevs := match vdev with
          | some k => rest ++ [{ key := k, fn := target }]
          | none => rest
        queues := s.queues.filter (fun q => match old with
          | some v => vkeyOfQ q.key ≠ v.key
          | none => true) })))

/-- Whether a function may stop a launch: a PF those of itself and its VFs, a VF its own virtual device's (R313). -/
def State.mayStop (s : State) (f : Fn) (l : Launch) : Bool :=
  match s.vdev? (vkeyOfQ l.queue) with
  | none => f.num == 0
  | some v => v.fn = f || (f.num == 0 && v.fn.link == f.link)

/-- STOP (R313): the teams issue nothing more, and the launch ends when its outbound work has.
DEDUCED, log entry 69; DESIGN CHOICE, log entry 120. -/
def execStop (f : Fn) (mb : MbCtl) (launch : Nat) (s : State) : Out :=
  .next (s.command f mb 0x18 true (fun s =>
    match s.launch? launch with
    | none => s.reply f mb 3
    | some l =>
      if !s.mayStop f l then s.reply f mb 2
      else if l.stopDue.isSome then s.reply f mb 3
      else
        let s := s.modLaunch launch (fun l => { l with stopDue := some (f, mb) })
        let s : State := { s with teams := s.teams.map (fun t =>
          if t.ref.launch == launch && !t.saved then { t with rollDue := true } else t) }
        s.settleStop launch))

/-! ## Start (R346, R352) -/

/-- DEVICE_RESET: the state of reset; memory, the fused minimum version and what the model keeps for itself stay. The boot
image decides whether the command complex runs. DEDUCED, log entry 4; DESIGN CHOICE, log entry 101. -/
def State.deviceReset (s : State) : State :=
  { State.reset with
    mem := s.mem, memPoison := s.memPoison, fwMin := s.fwMin, agenda := s.agenda, cur := s.cur, free := s.free + 1
    irqs := s.irqs, replies := s.replies
    ready := { cc := if s.bootOk then 0xFF else 0 } }

def execDeviceReset (s : State) : Out := .next s.deviceReset

/-- Sets a bit. -/
def setBit {n : Nat} (b : BitVec n) (i : Nat) : BitVec n := b ||| (BitVec.ofNat n 1 <<< i)

/-- A group that waited for a channel issues again (R347). -/
def Group.unchannel (g : Group) : Group := if g.hold = some .channel then { g with hold := none } else g

/-- A unit sets its READY bit; a port with a partner learns the partner's size. -/
def State.setReady (s : State) (u : TrainedUnit) : State :=
  match u with
  | .cluster i => { s with ready := { s.ready with clu := setBit s.ready.clu i } }
  | .channel i => { s with ready := { s.ready with chan := setBit s.ready.chan i } }
  | .hostLink i => { s with ready := { s.ready with link := setBit s.ready.link i } }
  | .cxl i size =>
    { s with
      ready := { s.ready with cxl := setBit s.ready.cxl i }
      cxlSize := match size with
        | some n => insertKey s.cxlSize i n
        | none => s.cxlSize }
  | .peer i window =>
    { s with
      ready := { s.ready with peer := setBit s.ready.peer i }
      peerSize := match window with
        | some n => insertKey s.peerSize i n
        | none => s.peerSize }

/-- UNIT_TRAINED: the unit's READY bit, DONE, and the accesses that waited for a channel (R346, R347). -/
def State.trained (s : State) (u : TrainedUnit) : State :=
  let s := (s.setReady u).noteDone
  match u with
  | .channel _ => ({ s with teams := s.teams.map (fun t => t.mapGroups Group.unchannel) } : State).catchUp
  | _ => s

def execUnitTrained (u : TrainedUnit) (s : State) : Out := .next (if s.ready.trip then s else s.trained u)

/-! ## Heat and power (R14, R15, R330, R351) -/

/-- Steps the clock of a cluster by 50 MHz, between 550 MHz and 1.1 GHz. DEDUCED, log entry 72. -/
def State.stepClock (s : State) (cluster : Nat) (up : Bool) : State :=
  if 8 ≤ cluster || s.ready.trip then s
  else
    let s := s.repay cluster
    { s with freq := modAt s.freq cluster (fun f => if up then min 1100 (f + 50) else max 550 (f - 50)) }

def execThermalStep (cluster : Nat) (up : Bool) (s : State) : Out := .next (s.stepClock cluster up)
def execPowerLimitStep (clusters : List Nat) (s : State) : Out :=
  .next (s.byFw (fun s => clusters.foldl (fun s c => s.stepClock c false) s))

/-- CRITICAL_TRIP: every compute-die clock stops. -/
def execCriticalTrip (s : State) : Out := .next { s with ready := { s.ready with trip := true } }

/-! ## Accesses that reach LPDDR6 from outside (R332, R334) -/

/-- Performs an access at a device physical address of LPDDR6 as a sys-scope access, and the bytes that it returns. -/
def State.busAccess (s : State) (pa : Nat) (acc : BusAccess) : State × List Byte :=
  let locs := fun (n : Nat) => ({ space := .phys, addr := physKey 0 pa } : Loc).span n
  match acc with
  | .read n => (s, (locs n).map s.readLoc)
  | .write bs => (s.performBytes none (bytesAt (locs bs.length) bs), [])
  | .atomic op wide b c =>
    let n := if wide then 8 else 4
    let old := (locs n).map s.readLoc
    let new := atomOp op.toNat (8 * n) (leNat old) (b.toNat % 2 ^ (8 * n)) (c.toNat % 2 ^ (8 * n))
    (s.performBytes none (bytesAt (locs n) (leBytes new n)), old)

/-- Bytes of an access. -/
def busSize : BusAccess → Nat
  | .read n => n
  | .write bs => bs.length
  | .atomic _ wide _ _ => if wide then 8 else 4

/-- The channels of the bytes of an access are ready; until then the access waits (R347). -/
def State.busReady (s : State) (pa : Nat) (acc : BusAccess) : Bool :=
  (({ space := .phys, addr := physKey 0 pa } : Loc).span (busSize acc)).all s.locReady

/-- Sends a response to a requester. DESIGN CHOICE, log entry 71. -/
def State.respond (s : State) (to_ : Nat) (bs : List Byte) : State := { s with replies := s.replies ++ [(to_, bs)] }

/-- PEER_ACCESS: within the exported window it is performed; outside it the requester is told, with no bytes.
DEDUCED, log entry 73. -/
def State.peerAccess (s : State) (port off : Nat) (acc : BusAccess) : State :=
  if 16 ≤ port || !s.answers then s
  else match s.peerWin with
    | none => s.respond (16 + port) []
    | some (base, size) =>
      if size < off + busSize acc then s.respond (16 + port) []
      else if !s.busReady (base.toNat + off) acc then s
      else
        let r := s.busAccess (base.toNat + off) acc
        match acc with
        | .write _ => r.1
        | _ => r.1.respond (16 + port) r.2

def execPeerAccess (port off : Nat) (acc : BusAccess) (s : State) : Out := .next (s.peerAccess port off acc)

/-- HOST_APERTURE_ACCESS: through BAR2 of a PF; the device completes no AtomicOp. DEDUCED, log entry 73. -/
def State.hostAccess (s : State) (f : Fn) (off : Nat) (acc : BusAccess) : State :=
  let pa := (lookupD s.apertures f.link 0).toNat + off
  if f.num != 0 || 2 ≤ f.link || !s.answers || 2 ^ 36 < off + busSize acc || Config.lpddrBytes < pa + busSize acc
    || !s.busReady pa acc then s
  else match acc with
    | .atomic _ _ _ _ => s
    | .write _ => (s.busAccess pa acc).1
    | .read _ => (s.busAccess pa acc).1.respond f.link (s.busAccess pa acc).2

def execHostApertureAccess (f : Fn) (off : Nat) (acc : BusAccess) (s : State) : Out := .next (s.hostAccess f off acc)

/-! ## Row activation and scrubbing (R379, R383) -/

/-- A channel's row-activation registers. -/
def State.rows (s : State) (ch : Nat) : RowAct := lookupD s.rowAct ch {}

/-- Activations of a row in this refresh window. -/
def RowAct.count (r : RowAct) (bank row : Nat) : Nat := ((r.counts.find? (fun e => e.1 == (bank, row))).map (·.2)).getD 0

/-- Sets the count of a row. -/
def RowAct.setCount (r : RowAct) (bank row n : Nat) : RowAct :=
  { r with counts := if n == 0 then r.counts.filter (fun e => e.1 != (bank, row)) else
      (r.counts.filter (fun e => e.1 != (bank, row))) ++ [((bank, row), n)] }

/-- A row of a bank that serves: its channel, its bank and its number exist, and the bank is not backed off. -/
def State.rowServes (s : State) (ch bank row : Nat) : Bool :=
  ch < 192 && bank < 16 && row < 2 ^ 20 && !(s.rows ch).backoff.contains bank

/-- ROW_ACTIVATION_ALERT: the activation that brings a row of a bank that serves to 1,024 (R383). DEDUCED, log entry 70. -/
def State.rowAlert (s : State) (ch bank row : Nat) : State :=
  let r := s.rows ch
  if !s.rowServes ch bank row || r.count bank row != 1023 then s
  else
    let clk := lookupD s.chanClk ch 0
    let (s, seq) := s.takeChanSeq ch
    let near := (min row 2) + 2
    { s with
      rowAct := insertKey s.rowAct ch { r.setCount bank row 0 with
        alerts := r.alerts + 1, rfms := r.rfms + BitVec.ofNat 32 near, bank := BitVec.ofNat 4 bank, row := BitVec.ofNat 20 row
        cycle := BitVec.ofNat 32 clk, backoff := r.backoff ++ [bank] }
      lastError := { mech := 32, kind := 0, unit := ch, loc := BitVec.ofNat 64 (bank * 2 ^ 52 + row * 2 ^ 32 + ch), cycle := clk,
                     seq := seq } }

def execRowActivationAlert (channel bank row : Nat) (s : State) : Out := .next (s.onDie (fun s => s.rowAlert channel bank row))

/-- A row is activated: it is counted, and the activation that brings it to 1,024 raises the alert (R383).
DESIGN CHOICE, log entry 107. -/
def State.activate (s : State) (ch bank row : Nat) : State :=
  if !s.rowServes ch bank row then s
  else if (s.rows ch).count bank row == 1023 then s.rowAlert ch bank row
  else { s with rowAct := insertKey s.rowAct ch ((s.rows ch).setCount bank row ((s.rows ch).count bank row + 1)) }

/-- BANK_BACKOFF_END. -/
def execBankBackoffEnd (channel bank : Nat) (s : State) : Out :=
  .next (s.onDie (fun s => { s with rowAct := insertKey s.rowAct channel { s.rows channel with
    backoff := (s.rows channel).backoff.filter (· != bank) } }))

/-- REFRESH_WINDOW_START: the counts are cleared. -/
def execRefreshWindowStart (channel : Nat) (s : State) : Out :=
  .next (s.onDie (fun s => { s with rowAct := insertKey s.rowAct channel { s.rows channel with counts := [] } }))

/-- What a scrub of a channel finds at an address of the channel is counted and corrected, or the sector is marked poisoned
(R379). DESIGN CHOICE, log entry 77. -/
def State.scrubbed (s : State) (ch : Nat) (e : DataErr) : State :=
  if chanOf e.loc.toNat != ch || Config.lpddrBytes ≤ e.loc.toNat then s
  else
    let s := s.countErr 0 { e with mech := 8, unit := ch }
    if e.fatal then s.markUnit .phys (physKey 0 e.loc.toNat) (some 0) else s

/-- PATROL_SCRUB. DESIGN CHOICE, log entry 77. -/
def execPatrolScrub (channel : Nat) (found : List DataErr) (s : State) : Out :=
  .next (s.onDie (fun s => found.foldl (fun s e => s.scrubbed channel e) s))

end Sys2Proof.Machine
end

