-- ==== Sys2Proof/Machine/Debug.lean ====
section
/-! DEFINITION. The debugger: rights, halts, steps, reads and writes (17 R354 to R357; 21 R391). -/

namespace Sys2Proof.Machine

/-- Runs a command that needs the function's debug right over a launch; without it the result is 2. -/
def State.debugCommand (s : State) (f : Fn) (mb : MbCtl) (code launch : Nat) (act : DebugRight → State → State) : State :=
  s.command f mb code false (fun s => match s.right? launch with
    | some r => if r.fn = f then act r s else s.reply f mb 2
    | none => s.reply f mb 2)

/-! ## Rights (R354, R356, R391) -/

/-- A ring size: a power of two from 16 to 65,536. -/
def ringSizeOk (n : Nat) : Bool := (List.range 13).any (fun i => n == 16 * 2 ^ i)

/-- DBGGRANT: one right for each launch; the ring's header is written. DEDUCED, log entry 67. -/
def execDbggrant (f : Fn) (mb : MbCtl) (launch : Nat) (ring : Dword) (size : Nat) (s : State) : Out :=
  .next (s.command f mb 0x0C false (fun s =>
    let fits := ring.toNat % 64 == 0 && ringSizeOk size && ring.toNat + 64 + 64 * size ≤ Config.lpddrBytes
    if (s.right? launch).isSome then s.reply f mb 2
    else s.simply f mb ((s.launch? launch).isSome && fits) (fun s =>
      let s := s.pwrite ring.toNat (leBytes 0 8 ++ leBytes 0 8 ++ leBytes size 4 ++ leBytes 0 4 ++ List.replicate 40 0)
      { s with rights := s.rights ++ [{ launch := launch, fn := f, ring := ring, size := size }] })))

/-- A group when the right over its launch ends: a halt ends, and a group held after a fault stops. -/
def Group.unright (g : Group) : Group :=
  if g.state == .faulted then { g with halted := false, stopped := true } else { g with halted := false }

/-- What revoking a right does to the groups of the launch (R391). -/
def State.releaseAll (s : State) (launch : Nat) : State :=
  (s.teams.filter (fun t => t.ref.launch == launch)).foldl (fun s t =>
    let s := t.allGroups.foldl (fun s e => if e.2.state == .faulted && !e.2.stopped then s.putBlockRecord e.1 2 else s) s
    s.modTeam t.ref (fun t => { t.mapGroups Group.unright with haltDue := false })) s

/-- DBGREVOKE. -/
def execDbgrevoke (f : Fn) (mb : MbCtl) (launch : Nat) (s : State) : Out :=
  .next (s.command f mb 0x0D false (fun s => match s.right? launch with
    | none => s.reply f mb 3
    | some r => if r.fn ≠ f then s.reply f mb 2 else ((s.releaseAll launch).endRight r).reply f mb 0))

/-! ## Halts and steps (R355) -/

/-- A group halts before its next instruction; the rope that it leads completes first. -/
def Group.halt (g : Group) : Group := if g.over_ then g else { g with halted := true }

/-- DBGHALT. DEDUCED, log entry 67. -/
def execDbghalt (f : Fn) (mb : MbCtl) (launch team : Nat) (s : State) : Out :=
  let t : TeamRef := { launch := launch, team := team }
  .next (s.debugCommand f mb 0x0E launch (fun _ s => s.simply f mb (s.team? t).isSome (fun s =>
    s.modTeam t (fun m => { m.mapGroups Group.halt with haltDue := true }))))

/-- The group that the event record of a team's halt names: the first that has not exited. -/
def Team.haltGroup (t : Team) : GroupRef :=
  ((t.allGroups.find? (fun e => e.2.state != .exited)).map (·.1)).getD
    { launch := t.ref.launch, team := t.ref.team, part := 0, grp := 0 }

/-- A team stands between two instructions of every group, so that its halt takes effect: no rope is active, and no group is at
an instruction that waits for its earlier accesses, the emulation or a service (R54, R355). -/
def Team.haltReady (t : Team) : Bool :=
  !t.roped && t.cur.parts.all (fun q => q.groups.all (fun g => match g.hold with
    | some (.release _ _) => false
    | some (.emulated _ _ _ _) => false
    | some (.svc _ _ _ _) => false
    | _ => true))

/-- TEAM_HALTED: every group of a team that was to halt is halted, so its camp falls due and an event record is written. -/
def State.halted (s : State) (r : TeamRef) : State :=
  match s.team? r with
  | none => s
  | some t =>
    if !t.haltDue || !t.haltReady || t.saved then s
    else
      let s := s.modTeam r (fun t => { t with haltDue := false })
      let s := match s.right? r.launch with
        | some d => s.groupEvent d 1 t.haltGroup
        | none => s
      s.modTeam r (fun t => t.due .debug)

/-- TEAM_HALTED (R355). DEDUCED, log entry 67. -/
def execTeamHalted (t : TeamRef) (s : State) : Out := .next (s.onDie (fun s => s.halted t))

/-- DBGSTEP: one halted group is to issue one instruction; the command completes after it. DEDUCED, log entry 67. -/
def execDbgstep (f : Fn) (mb : MbCtl) (g : GroupRef) (s : State) : Out :=
  .next (s.debugCommand f mb 0x0F g.launch (fun _ s => match s.group? g with
    | none => s.reply f mb 3
    | some x =>
      if !x.halted || x.over_ || x.state == .exited then s.reply f mb 3
      else s.modGroup g (fun x => { (if x.state == .faulted then { x.release with halted := true } else x) with
        stepDue := some (f, mb) })))

/-- DBGRESUME. -/
def execDbgresume (f : Fn) (mb : MbCtl) (launch team : Nat) (s : State) : Out :=
  let t : TeamRef := { launch := launch, team := team }
  .next (s.debugCommand f mb 0x10 launch (fun _ s => s.simply f mb (s.team? t).isSome (fun s =>
    s.modTeam t (fun m => { m.mapGroups Group.release with haltDue := false }))))

/-! ## Reads and writes (R355, R357) -/

/-- The places of `n` bytes of a window, read-only ones too. -/
def State.windowLocs (s : State) (l : Launch) (core kind off n : Nat) : Option (List Loc) :=
  let va := Config.windowBase + core * 2 ^ 32 + kind * 2 ^ 28 + off
  (List.range n).foldl (fun r i => r.bind (fun ls =>
    if 2 ^ 28 ≤ off + i then none
    else match s.windowLoc l (va + i) 1 false with
      | .ok p => some (ls ++ [p])
      | .error _ => none)) (some [])

/-- DBGREAD: up to 32 bytes of window state, without effect. -/
def execDbgread (f : Fn) (mb : MbCtl) (launch core kind offset n : Nat) (s : State) : Out :=
  .next (s.debugCommand f mb 0x11 launch (fun _ s =>
    match (s.launch? launch).bind (fun l => if 32 < n || 3 < kind || 512 ≤ core then none else s.windowLocs l core kind offset n) with
    | none => s.reply f mb 3
    | some ls => s.reply f mb 0 (ls.map s.readLoc)))

/-- A register after the debugger's write: a lane word of v, m or h; a whole w or s; a mask. -/
def Group.debugWrite (g : Group) (code : Byte) (lane : Nat) (data : List Byte) : Option Group :=
  let w : Word := BitVec.ofNat 32 (leNat (data.take 4))
  let r := g.reg code
  match clsOf code with
  | .v | .m =>
    if g.width ≤ lane || data.length != 4 then none
    else
      let g := g.setReg code { r.setLanes g.width (fun l => if l = lane then some w else none) with tag := .g }
      some (if clsOf code == .m then g.putMail code.toNat 0xFE else g)
  | .s => if data.length != 4 then none else some (g.setReg code (r.writeWhole { tag := .u, base := w }))
  | .w =>
    if data.length == 4 then some (g.setReg code (r.writeWhole { tag := .u, base := w }))
    else if data.length == 8 then
      some (g.setReg code (r.writeWhole { tag := .a, base := w, stride := BitVec.ofNat 32 (leNat (data.drop 4)) }))
    else none
  | .k => if data.length != 8 then none
    else some { g with ks := kWrite g.ks g.width (code.toNat - 0xE0) (BitVec.ofNat 64 (leNat data)) none }
  | .h => g.rope.bind (fun q =>
    if q.n ≤ lane || data.length != 4 then none
    else
      let h := (q.hregs.getD (codeNum code) {}).setLanes q.n (fun l => if l = lane then some w else none)
      some { g with rope := some { q with hregs := setPad q.hregs (codeNum code) { h with tag := .g } {} } })
  | _ => none

/-- A register that a launch declares. -/
def debugCode (d : Desc) (code : Byte) : Bool :=
  match clsOf code with
  | .v | .w | .s => isDeclared d code
  | .m | .k | .h => true
  | _ => false

/-- Sets EDITED in the launch and in the groups that an edit reaches; a camp follows (R355).
DEDUCED, log entry 67. -/
def State.edited (s : State) (t : TeamRef) (only : Option GroupRef) : State :=
  let s := s.modLaunch t.launch (fun l => { l with edited := true })
  let s := match only with
    | some g => s.modGroup g (fun x => { x with edited := true })
    | none => s.modTeam t (fun m => m.mapGroups (fun x => { x with edited := true }))
  s.modTeam t (fun m => m.due .debug)

/-- A byte that the debugger writes into a register word which a program's window write may not change: the word becomes the
value of the whole w or s register, or half of a mask. DESIGN CHOICE, log entry 111. -/
def Group.debugByte (g : Group) (code : Byte) (lane byte : Nat) (v : Byte) : Group :=
  let w := setWordByte (g.windowWord code lane) byte v
  match clsOf code with
  | .w | .s => if g.width ≤ lane then g else g.setReg code ((g.reg code).writeWhole { tag := .u, base := w })
  | .k =>
    let m := kMask g.ks g.width (code.toNat - 0xE0)
    if lane == 0 then { g with ks := kWrite g.ks g.width (code.toNat - 0xE0) (m.extractLsb' 32 32 ++ w) none }
    else if lane == 1 then { g with ks := kWrite g.ks g.width (code.toNat - 0xE0) (w ++ m.extractLsb' 0 32) none }
    else g
  | _ => g

/-- A byte lies in a w, s or k register. -/
def StoreByte.locked (b : StoreByte) : Bool :=
  match b.space with
  | .reg _ => (match clsOf (BitVec.ofNat 8 (b.addr / 256)) with
    | .w | .s | .k => true
    | _ => false)
  | _ => false

/-- Writes the debugger's bytes into window locations. -/
def State.debugBytes (s : State) (bs : List StoreByte) : State :=
  let s := s.applyBytes none (bs.filter (fun b => !b.locked))
  (bs.filter (·.locked)).foldl (fun s b => match b.space with
    | .reg g => s.modGroup g (fun x => x.debugByte (BitVec.ofNat 8 (b.addr / 256)) (b.addr / 4 % 64) (b.addr % 4) b.val)
    | _ => s) s

/-- DBGWRITE: a window location of kinds 0 to 2, or a declared register. DEDUCED, log entry 67. -/
def execDbgwrite (f : Fn) (mb : MbCtl) (launch core : Nat) (target : DbgTarget) (data : List Byte) (s : State) : Out :=
  .next (s.debugCommand f mb 0x12 launch (fun _ s =>
    match s.launch? launch, s.teamOnCore launch core with
    | some l, some t =>
      match target with
      | .window kind off =>
        match if 32 < data.length || 2 < kind || 512 ≤ core then none else s.windowLocs l core kind off data.length with
        | none => s.reply f mb 3
        | some ls =>
          let only := ls.findSome? (fun p => match p.space with
            | .reg g => some g
            | _ => none)
          ((s.debugBytes (bytesAt ls data)).edited t.ref only).reply f mb 0
      | .register part grp code lane =>
        let g : GroupRef := { launch := launch, team := t.ref.team, part := 4 * (core - t.core) + part, grp := grp }
        match if debugCode l.desc code && part < 4 then (s.group? g).bind (fun x => x.debugWrite code lane data) else none with
        | none => s.reply f mb 3
        | some x => ((s.modGroup g (fun _ => x)).edited t.ref (some g)).reply f mb 0
    | _, _ => s.reply f mb 3))

/-- SHADOW: the tag and all lanes of one register of a running group (R357). DEDUCED, log entry 67. -/
def execShadow (f : Fn) (mb : MbCtl) (launch core part grp : Nat) (code : Byte) (s : State) : Out :=
  .next (s.debugCommand f mb 0x13 launch (fun _ s =>
    match s.launch? launch, s.teamOnCore launch core with
    | some l, some t =>
      let g : GroupRef := { launch := launch, team := t.ref.team, part := 4 * (core - t.core) + part, grp := grp }
      match s.group? g with
      | some x =>
        if !windowCode l.desc code || 4 ≤ part then s.reply f mb 3
        else
          let tag := match (x.reg code).tag with
            | .u => 0
            | .a => 1
            | .g => 2
          s.reply f mb 0 (leBytes tag 4 ++ (List.range x.width).flatMap (fun i => leBytes (x.windowWord code i).toNat 4))
      | none => s.reply f mb 3
    | _, _ => s.reply f mb 3))

end Sys2Proof.Machine
end

