-- ==== Sys2Proof/Machine/Mtx.lean ====
section
/-! DEFINITION. The MTX family (11 R258 to R276, Tables 11.2 and 11.3). -/

namespace Sys2Proof.Machine

/-! ## Leases (R266) -/

/-- An operation that is complete as soon as it issues takes a TL credit. -/
def Ctx.addDoneTl (c : Ctx) (s : State) : State :=
  s.modGroup c.ref (fun g => { g with tl := g.tl ++ [{ seq := g.nextSeq, pc := c.pc, done := true }], nextSeq := g.nextSeq + 1 })

/-- MLEASE: of a team that holds the lease it replaces the count, else it waits in the table.
DEDUCED, log entry 83. -/
def planMlease (x : XF) (c : Ctx) (s : State) : Plan :=
  let quad := quadOf c.core
  let mine := (s.engine quad).leasedTo (teamOf c.ref)
  { partialMask := c.divided
    hold := if mine then c.counterHold .tl else c.engHold s .tl
    effect := c.advance (
      if mine then c.addDoneTl (s.modEngine quad (fun g => { g with lease := some (teamOf c.ref, x.f.toNat) }))
      else c.addEng (.mlease x.f.toNat) [] [] [] [] false false s) }

/-- MREL ends the team's lease and cancels its leases that have not been granted. DEDUCED, log entry 83. -/
def planMrel (c : Ctx) (s : State) : Plan :=
  let quad := quadOf c.core
  let t := teamOf c.ref
  let waits := (s.engine quad).entries.filter (fun e => teamOf e.group = t && (match e.op with
    | .mlease _ => true
    | _ => false))
  let s1 := waits.foldl (fun s e => s.finishOp e none) (s.modEngine quad (fun g => { g with
    lease := if g.leasedTo t then none else g.lease
    entries := g.entries.filter (fun e => !waits.any (fun w => w.age == e.age)) }))
  { hold := c.counterHold .tl
    effect := c.advance ((c.addDoneTl s1).unretryQuad quad) }

/-! ## Passes -/

/-- The element width of a format code, none for an ill-formed record (R259). -/
def Ctx.codeWidth (c : Ctx) (code : Nat) : Option Nat :=
  if 8 ≤ code && !Fp.wellFormed (c.group.fmt.getD (code - 8) 0) then none else some (c.elemFmt code).width

/-- OPERAND of MMA: a scaled pass of a narrower group, formats of different widths, and sel (R259, R260, R97). -/
def Ctx.mmaOperand (c : Ctx) (x : XF) : Option FaultInfo :=
  let fa := bits x.f.toNat 0 4
  let fb := bits x.f.toNat 4 4
  let scaled := clsOf x.c != .vz
  let w := (c.codeWidth fa).orElse (fun _ => c.codeWidth fb)
  let differ := match c.codeWidth fa, c.codeWidth fb with
    | some a, some b => a != b
    | _, _ => false
  let sel := scaled && (match w with
    | some w => selBad w x.asub.toNat
    | none => false)
  (firstField ((if scaled && c.group.width != 64 then [(1, 24)] else []) ++ (if differ then [(2, 0)] else [])
    ++ (if sel then [(1, 2)] else []))).map (fun e => c.pathFault 0x02 (256 * e.1 + e.2))

/-- MMA. -/
def planMma (x : XF) (c : Ctx) (s : State) : Plan :=
  let p := c.path.mask
  let l := lowLane p
  let fa := bits x.f.toNat 0 4
  let fb := bits x.f.toNat 4 4
  let scaled := clsOf x.c != .vz
  let a := c.read x.a l
  let b := c.read x.b l
  let d := tileNum x.d
  let errs := fun (v : Word) => (s.slabErr c.launch c.core v.toNat).toList.flatMap (fun e => c.sharedErr p v.toNat e)
  { operand := c.mmaOperand x
    uniform := c.uniformOps p [(x.a, false), (x.b, false)]
    partialMask := c.divided
    format := (c.codeFault fa).orElse (fun _ => c.codeFault fb)
    mem := memCheck (errs a ++ errs b)
    data := if scaled then c.wholePoison [x.c, x.c + 1] else none
    hold := c.engHold s .tl
    effect := c.advance (c.addEng
      (.mma d a b (c.elemFmt fa) (c.elemFmt fb) (if scaled then some (c.lanes64 x.c, c.lanes64 (x.c + 1)) else none)
        x.asub.toNat x.round.toNat)
      [d] [] (tileLogs c.coreIdx d) [] false false s) }

/-! ## Tiles -/

/-- MZERO. -/
def planMzero (x : XF) (c : Ctx) (s : State) : Plan :=
  let d := tileNum x.d
  { partialMask := c.divided
    hold := c.engHold s .tl
    effect := c.advance (c.addEng (.mzero d) [d] [] (tileLogs c.coreIdx d) [] false false s) }

/-- ALIGN of an endpoint and a pitch (R271). -/
def Ctx.epAlign (c : Ctx) (ep : Dword) (pitch : Nat) : MemCheck :=
  let a := if isScratchEp ep then bits ep.toNat 0 32 else ep.toNat
  memCheck ((if a % 32 != 0 then c.sharedErr c.path.mask a (alignErr 32) else [])
    ++ (if pitch % 32 != 0 then c.sharedErr c.path.mask pitch (alignErr 32) else []))

/-- MLD. -/
def planMld (x : XF) (c : Ctx) (s : State) : Plan :=
  let p := c.path.mask
  let l := lowLane p
  let ep := c.read64 x.a 0 0 l
  let pitch := (c.read x.b l).toNat
  let code := bits x.f.toNat 0 4
  let d := tileNum x.d
  { uniform := c.uniformOps p [(x.a, true), (x.b, false)]
    range := if badEp ep then some (c.pathFault 0x02 8) else none
    partialMask := c.divided
    format := c.codeFault code
    mem := c.epAlign ep pitch
    hold := c.engHold s .tl
    effect := c.advance (c.addEng (.mld d ep pitch (c.elemFmt code)) [d] [] (tileLogs c.coreIdx d) [] false false s) }


/-- MST. -/
def planMst (x : XF) (c : Ctx) (s : State) : Plan :=
  let p := c.path.mask
  let l := lowLane p
  let ep := c.read64 x.a 0 0 l
  let pitch := (c.read x.b l).toNat
  let code := bits x.f.toNat 0 4
  let d := tileNum x.d
  let fmt := c.elemFmt code
  let sr := if x.round == 4 then (List.range 4).map (fun i => c.read (x.c + BitVec.ofNat 8 i) 0) else []
  let ps := s.rowPlaces c.launch c.core ep pitch fmt 2
  let outbound := ps.any (fun q => q.outward (teamOf c.ref))
  let own := ps.filter (fun q => q.space.owner = some (teamOf c.ref))
  { uniform := c.uniformOps p [(x.a, true), (x.b, false)]
    range := if badEp ep then some (c.pathFault 0x02 8) else none
    partialMask := c.divided
    format := c.codeFault code
    mem := c.epAlign ep pitch
    hold := c.engHold s .tl
    effect := c.advance (c.addEng (.mst d ep pitch fmt x.round.toNat sr) [d] []
      (dedup (own.flatMap (fun q => logKeyOf { space := q.space, addr := q.addr, val := 0 })))
      (dedup ((ps.filter (fun q => q.space = .phys)).map (fun q => q.addr / 32))) outbound false s) }

/-- The column of MCOL and MPUT, and OPERAND of one past 63 (R274). -/
def Ctx.column (c : Ctx) (x : XF) : Nat := (c.opC x (lowLane c.path.mask)).toNat
def Ctx.columnFault (c : Ctx) (x : XF) : Option FaultInfo :=
  if 64 ≤ c.column x then some (c.pathFault 0x02 (256 + 24)) else none
def Ctx.columnUniform (c : Ctx) (x : XF) : Option FaultInfo :=
  if c.immC.isSome then none else c.uniformOps c.path.mask [(x.c, false)]

/-- MCOL. -/
def planMcol (x : XF) (c : Ctx) (s : State) : Plan :=
  let d := tileNum x.a
  { operand := c.need64 16
    uniform := c.columnUniform x
    range := c.columnFault x
    partialMask := c.divided
    hold := c.engHold s .ld
    effect := c.advance (c.addEng (.mcol x.d d (c.column x) (c.exec x.mask.toNat)) [d] [x.d] [] [] false true s) }

/-- MPUT. -/
def planMput (x : XF) (c : Ctx) (s : State) : Plan :=
  let d := tileNum x.d
  { operand := c.need64 16
    uniform := c.columnUniform x
    range := c.columnFault x
    partialMask := c.divided
    data := c.wholePoison [x.a]
    hold := c.engHold s .tl
    effect := c.advance (c.addEng (.mput d (c.lanes64 x.a) (c.column x)) [d] [] (tileLogs c.coreIdx d) [] false false s) }

/-- MLINK (R275). -/
def planMlink (x : XF) (c : Ctx) (s : State) : Plan :=
  let p := c.path.mask
  let o := c.read64 x.a 0 0 (lowLane p)
  let d := tileNum x.d
  let vz := clsOf x.a == .vz
  { uniform := if vz then none else c.uniformOps p [(x.a, true)]
    mem := if !vz && o.toNat % 32 != 0 then memCheck (c.sharedErr p o.toNat (alignErr 32)) else .ok
    effect := c.advance (s.modGroup c.ref (fun g => { g with
      links := if vz then eraseKey g.links d else insertKey g.links d o })) }

/-! ## Meanings -/

def execMlease (x : XF) (s : State) : Out := runX 0x0D 0x00 x (planMlease x) s
def execMrel (x : XF) (s : State) : Out := runX 0x0D 0x01 x planMrel s
def execMma (x : XF) (s : State) : Out := runX 0x0D 0x02 x (planMma x) s
def execMzero (x : XF) (s : State) : Out := runX 0x0D 0x03 x (planMzero x) s
def execMld (x : XF) (s : State) : Out := runX 0x0D 0x04 x (planMld x) s
def execMst (x : XF) (s : State) : Out := runX 0x0D 0x05 x (planMst x) s
def execMcol (x : XF) (s : State) : Out := runX 0x0D 0x06 x (planMcol x) s
def execMput (x : XF) (s : State) : Out := runX 0x0D 0x07 x (planMput x) s
def execMlink (x : XF) (s : State) : Out := runX 0x0D 0x08 x (planMlink x) s

def execEngineOpStart (quad : Nat) (s : State) : Out := .next (s.onDie (fun s => s.engineStart quad))
def execEngineOpComplete (quad : Nat) (err : Option DataErr) (s : State) : Out := .next (s.onDie (fun s => s.engineDone quad err))
def execLeaseIdleTimeout (quad : Nat) (s : State) : Out := .next (s.onDie (fun s => s.leaseIdle quad))

end Sys2Proof.Machine
end

