-- ==== Sys2Proof/Machine/Orth.lean ====
section
/-! DEFINITION. The ORTH family (11 R277 to R284; 14 R292, R293). -/

namespace Sys2Proof.Machine

/-- The binding of a q slot of the issuing group's core as its earlier operations leave it. -/
def Ctx.bind_ (c : Ctx) (s : State) (q : Nat) : Option QBind := s.bindOf c.ref c.core c.coreIdx q

/-- The tiles that an operation on a q slot is an operation on (R292), with a key of the slot itself, past every tile. -/
def Ctx.slotTiles (c : Ctx) (s : State) (q : Nat) : List Nat := (256 + q) :: ((c.bind_ s q).map QBind.tiles).getD []

/-- The undo-log entries of the tiles of a slot. -/
def Ctx.slotLogs (c : Ctx) (s : State) (q : Nat) : List LogKey :=
  (((c.bind_ s q).map QBind.tiles).getD []).flatMap (tileLogs c.coreIdx)

/-- QINIT (R279). -/
def planQinit (x : XF) (c : Ctx) (s : State) : Plan :=
  let q := slotNum x.d
  let tA := tileNum x.a
  let tB := if clsOf x.b == .vz then none else some (tileNum x.b)
  let cap := bits x.f.toNat 0 6
  let policy := bits x.f.toNat 6 2
  let taken := ((List.range 4).filter (· != q)).flatMap (fun p => ((c.bind_ s p).map QBind.tiles).getD [])
  let badB := match tB with
    | none => policy == 0
    | some t => t == tA || taken.contains t
  { operand := if taken.contains tA then some (c.pathFault 0x02 8) else if badB then some (c.pathFault 0x02 0) else none
    partialMask := c.divided
    hold := c.engHold s .tl
    effect := c.advance (c.addEng (.qinit q tA tB cap policy) ((256 + q) :: tA :: tB.toList) [] (tileLogs c.coreIdx tA) []
      false false s) }

/-- QACC (R280). -/
def planQacc (x : XF) (c : Ctx) (s : State) : Plan :=
  let q := slotNum x.d
  { operand := c.need64 16
    partialMask := c.divided
    data := c.wholePoison [x.a, x.b]
    hold := c.engHold s .tl
    effect := c.advance (c.addEng (.qacc q (c.lanes64 x.a) (c.read x.b 0) x.round.toNat) (c.slotTiles s q) []
      (c.slotLogs s q) [] false false s) }

/-- QAPL and QAPR (R281). -/
def planQap (left : Bool) (x : XF) (c : Ctx) (s : State) : Plan :=
  let q := slotNum x.a
  let tr := bit x.f.toNat 0
  let exec := c.exec x.mask.toNat
  if clsOf x.d == .t then
    let d := tileNum x.d
    { operand := if (c.slotTiles s q).contains d then some (c.pathFault 0x02 16) else none
      partialMask := c.divided
      hold := c.engHold s .tl
      effect := c.advance (c.addEng (.qapTile left d q tr x.round.toNat) (d :: c.slotTiles s q) [] (tileLogs c.coreIdx d) []
        false false s) }
  else
    { operand := c.need64 16
      partialMask := c.divided
      data := c.wholePoison [x.d]
      hold := c.engHold s .tl
      effect := c.advance (c.addEng (.qapReg left x.d (c.lanes64 x.d) exec q tr x.round.toNat) (c.slotTiles s q) [x.d]
        (regRows c.ref.part c.ref.grp x.d c.n exec) [] false false s) }

/-- QFOLD (R282). -/
def planQfold (x : XF) (c : Ctx) (s : State) : Plan :=
  let q := slotNum x.d
  { partialMask := c.divided
    hold := c.engHold s .tl
    effect := c.advance (c.addEng (.qfold q x.round.toNat) (c.slotTiles s q) [] (c.slotLogs s q) [] false false s) }

/-- QSTAT (R283). -/
def planQstat (x : XF) (c : Ctx) (s : State) : Plan :=
  let q := slotNum x.a
  { partialMask := c.divided
    hold := c.engHold s .ld
    effect := c.advance (c.addEng (.qstat x.d q) (c.slotTiles s q) [x.d] [] [] false true s) }

/-- QCLR (R283). -/
def planQclr (x : XF) (c : Ctx) (s : State) : Plan :=
  let q := slotNum x.d
  { partialMask := c.divided
    hold := c.engHold s .tl
    effect := c.advance (c.addEng (.qclr q) (c.slotTiles s q) [] (c.slotLogs s q) [] false false s) }

/-- HHGEN (R284). -/
def planHhgen (x : XF) (c : Ctx) (s : State) : Plan :=
  let exec := c.exec x.mask.toNat
  { operand := c.need64 16
    partialMask := c.divided
    data := c.wholePoison [x.a]
    hold := c.engHold s .tl
    effect := c.advance (c.addEng (.hhgen x.d (c.lanes64 x.a) exec (bits x.f.toNat 0 6) x.b x.round.toNat) []
      [x.d, x.b, x.b + 1] (regRows c.ref.part c.ref.grp x.d c.n exec) [] false false s) }

/-! ## Meanings -/

def execQinit (x : XF) (s : State) : Out := runX 0x0E 0x00 x (planQinit x) s
def execQacc (x : XF) (s : State) : Out := runX 0x0E 0x01 x (planQacc x) s
def execQapl (x : XF) (s : State) : Out := runX 0x0E 0x02 x (planQap true x) s
def execQapr (x : XF) (s : State) : Out := runX 0x0E 0x03 x (planQap false x) s
def execQfold (x : XF) (s : State) : Out := runX 0x0E 0x04 x (planQfold x) s
def execQstat (x : XF) (s : State) : Out := runX 0x0E 0x05 x (planQstat x) s
def execQclr (x : XF) (s : State) : Out := runX 0x0E 0x06 x (planQclr x) s
def execHhgen (x : XF) (s : State) : Out := runX 0x0E 0x07 x (planHhgen x) s

end Sys2Proof.Machine
end

