-- ==== Sys2Proof/Machine/Dispatch.lean ====
section
/-! DEFINITION. The meaning of every instruction and event of the table, one arm each. -/

namespace Sys2Proof.Machine

/-- The outcome of an instruction that the issuing group `s.cur` issues, or of an event. -/
def exec (i : Instr) (s : State) : Host.Outcome State Fault Refusal :=
  match i with
  | .pfx m w r f next => Sys2Proof.Machine.execPfx m w r f next s
  | .iadd d a b => Sys2Proof.Machine.execIadd d a b s
  | .isub d a b => Sys2Proof.Machine.execIsub d a b s
  | .imul d a b => Sys2Proof.Machine.execImul d a b s
  | .imad d a b => Sys2Proof.Machine.execImad d a b s
  | .and d a b => Sys2Proof.Machine.execAnd d a b s
  | .or d a b => Sys2Proof.Machine.execOr d a b s
  | .xor d a b => Sys2Proof.Machine.execXor d a b s
  | .shl d a b => Sys2Proof.Machine.execShl d a b s
  | .shr d a b => Sys2Proof.Machine.execShr d a b s
  | .sar d a b => Sys2Proof.Machine.execSar d a b s
  | .imin d a b => Sys2Proof.Machine.execImin d a b s
  | .imax d a b => Sys2Proof.Machine.execImax d a b s
  | .iaddi d a i0 => Sys2Proof.Machine.execIaddi d a i0 s
  | .shli d a s0 => Sys2Proof.Machine.execShli d a s0 s
  | .shri d a s0 => Sys2Proof.Machine.execShri d a s0 s
  | .sari d a s0 => Sys2Proof.Machine.execSari d a s0 s
  | .andi d a i0 => Sys2Proof.Machine.execAndi d a i0 s
  | .movi d i0 => Sys2Proof.Machine.execMovi d i0 s
  | .mov d a => Sys2Proof.Machine.execMov d a s
  | .fadd d a b => Sys2Proof.Machine.execFadd d a b s
  | .fsub d a b => Sys2Proof.Machine.execFsub d a b s
  | .fmul d a b => Sys2Proof.Machine.execFmul d a b s
  | .ffma d a b => Sys2Proof.Machine.execFfma d a b s
  | .fmin d a b => Sys2Proof.Machine.execFmin d a b s
  | .fmax d a b => Sys2Proof.Machine.execFmax d a b s
  | .hadd2 d a b => Sys2Proof.Machine.execHadd2 d a b s
  | .hmul2 d a b => Sys2Proof.Machine.execHmul2 d a b s
  | .hfma2 d a b => Sys2Proof.Machine.execHfma2 d a b s
  | .bfma2 d a b => Sys2Proof.Machine.execBfma2 d a b s
  | .idp4 d a b => Sys2Proof.Machine.execIdp4 d a b s
  | .idp8 d a b => Sys2Proof.Machine.execIdp8 d a b s
  | .sfu d a f => Sys2Proof.Machine.execSfu d a f s
  | .ld32 d a i0 => Sys2Proof.Machine.execLd32 d a i0 s
  | .st32 v a i0 => Sys2Proof.Machine.execSt32 v a i0 s
  | .lds32 d a i0 => Sys2Proof.Machine.execLds32 d a i0 s
  | .sts32 v a i0 => Sys2Proof.Machine.execSts32 v a i0 s
  | .bra o => Sys2Proof.Machine.execBra o s
  | .call o => Sys2Proof.Machine.execCall o s
  | .ret => Sys2Proof.Machine.execRet s
  | .exit => Sys2Proof.Machine.execExit s
  | .xfer s0 a b => Sys2Proof.Machine.execXfer s0 a b s
  | .wait l s0 c t u => Sys2Proof.Machine.execWait l s0 c t u s
  | .join k s0 => Sys2Proof.Machine.execJoin k s0 s
  | .split k => Sys2Proof.Machine.execSplit k s
  | .tfetch d => Sys2Proof.Machine.execTfetch d s
  | .iaddBl d a lit => Sys2Proof.Machine.execIaddBl d a lit s
  | .isubBl d a lit => Sys2Proof.Machine.execIsubBl d a lit s
  | .imulBl d a lit => Sys2Proof.Machine.execImulBl d a lit s
  | .imadBl d b lit => Sys2Proof.Machine.execImadBl d b lit s
  | .andBl d a lit => Sys2Proof.Machine.execAndBl d a lit s
  | .orBl d a lit => Sys2Proof.Machine.execOrBl d a lit s
  | .xorBl d a lit => Sys2Proof.Machine.execXorBl d a lit s
  | .shlBl d a lit => Sys2Proof.Machine.execShlBl d a lit s
  | .shrBl d a lit => Sys2Proof.Machine.execShrBl d a lit s
  | .sarBl d a lit => Sys2Proof.Machine.execSarBl d a lit s
  | .iminBl d a lit => Sys2Proof.Machine.execIminBl d a lit s
  | .imaxBl d a lit => Sys2Proof.Machine.execImaxBl d a lit s
  | .movBl d lit => Sys2Proof.Machine.execMovBl d lit s
  | .faddBl d a lit => Sys2Proof.Machine.execFaddBl d a lit s
  | .fsubBl d a lit => Sys2Proof.Machine.execFsubBl d a lit s
  | .fmulBl d a lit => Sys2Proof.Machine.execFmulBl d a lit s
  | .ffmaBl d b lit => Sys2Proof.Machine.execFfmaBl d b lit s
  | .fminBl d a lit => Sys2Proof.Machine.execFminBl d a lit s
  | .fmaxBl d a lit => Sys2Proof.Machine.execFmaxBl d a lit s
  | .ld32Bl d a lit => Sys2Proof.Machine.execLd32Bl d a lit s
  | .st32Bl v a lit => Sys2Proof.Machine.execSt32Bl v a lit s
  | .lds32Bl d a lit => Sys2Proof.Machine.execLds32Bl d a lit s
  | .sts32Bl v a lit => Sys2Proof.Machine.execSts32Bl v a lit s
  | .braBl lit => Sys2Proof.Machine.execBraBl lit s
  | .callBl lit => Sys2Proof.Machine.execCallBl lit s
  | .iaddX x => Sys2Proof.Machine.execIaddX x s
  | .isubX x => Sys2Proof.Machine.execIsubX x s
  | .iaddc x => Sys2Proof.Machine.execIaddc x s
  | .isubb x => Sys2Proof.Machine.execIsubb x s
  | .imulX x => Sys2Proof.Machine.execImulX x s
  | .imulhS x => Sys2Proof.Machine.execImulhS x s
  | .imulhU x => Sys2Proof.Machine.execImulhU x s
  | .imadX x => Sys2Proof.Machine.execImadX x s
  | .iminX x => Sys2Proof.Machine.execIminX x s
  | .imaxX x => Sys2Proof.Machine.execImaxX x s
  | .iabs x => Sys2Proof.Machine.execIabs x s
  | .ineg x => Sys2Proof.Machine.execIneg x s
  | .andX x => Sys2Proof.Machine.execAndX x s
  | .orX x => Sys2Proof.Machine.execOrX x s
  | .xorX x => Sys2Proof.Machine.execXorX x s
  | .andn x => Sys2Proof.Machine.execAndn x s
  | .not x => Sys2Proof.Machine.execNot x s
  | .shlX x => Sys2Proof.Machine.execShlX x s
  | .shrX x => Sys2Proof.Machine.execShrX x s
  | .sarX x => Sys2Proof.Machine.execSarX x s
  | .rotl x => Sys2Proof.Machine.execRotl x s
  | .rotr x => Sys2Proof.Machine.execRotr x s
  | .popc x => Sys2Proof.Machine.execPopc x s
  | .clz x => Sys2Proof.Machine.execClz x s
  | .ctz x => Sys2Proof.Machine.execCtz x s
  | .brev x => Sys2Proof.Machine.execBrev x s
  | .bfx x => Sys2Proof.Machine.execBfx x s
  | .bfi x => Sys2Proof.Machine.execBfi x s
  | .icmp x => Sys2Proof.Machine.execIcmp x s
  | .isel x => Sys2Proof.Machine.execIsel x s
  | .lea x => Sys2Proof.Machine.execLea x s
  | .movX x => Sys2Proof.Machine.execMovX x s
  | .ldi x => Sys2Proof.Machine.execLdi x s
  | .faddX x => Sys2Proof.Machine.execFaddX x s
  | .fsubX x => Sys2Proof.Machine.execFsubX x s
  | .fmulX x => Sys2Proof.Machine.execFmulX x s
  | .ffmaX x => Sys2Proof.Machine.execFfmaX x s
  | .fminX x => Sys2Proof.Machine.execFminX x s
  | .fmaxX x => Sys2Proof.Machine.execFmaxX x s
  | .fabs x => Sys2Proof.Machine.execFabs x s
  | .fneg x => Sys2Proof.Machine.execFneg x s
  | .fcmp x => Sys2Proof.Machine.execFcmp x s
  | .fsel x => Sys2Proof.Machine.execFsel x s
  | .fclass x => Sys2Proof.Machine.execFclass x s
  | .fdiv x => Sys2Proof.Machine.execFdiv x s
  | .fsqrt x => Sys2Proof.Machine.execFsqrt x s
  | .frcp x => Sys2Proof.Machine.execFrcp x s
  | .frsq x => Sys2Proof.Machine.execFrsq x s
  | .fexp2 x => Sys2Proof.Machine.execFexp2 x s
  | .flog2 x => Sys2Proof.Machine.execFlog2 x s
  | .fsinpi x => Sys2Proof.Machine.execFsinpi x s
  | .fcospi x => Sys2Proof.Machine.execFcospi x s
  | .ftanh x => Sys2Proof.Machine.execFtanh x s
  | .fscale x => Sys2Proof.Machine.execFscale x s
  | .cvt x => Sys2Proof.Machine.execCvt x s
  | .cvtn x => Sys2Proof.Machine.execCvtn x s
  | .packn x => Sys2Proof.Machine.execPackn x s
  | .unpackn x => Sys2Proof.Machine.execUnpackn x s
  | .scaleb x => Sys2Proof.Machine.execScaleb x s
  | .idp2 x => Sys2Proof.Machine.execIdp2 x s
  | .idp4X x => Sys2Proof.Machine.execIdp4X x s
  | .idp8X x => Sys2Proof.Machine.execIdp8X x s
  | .fdp2 x => Sys2Proof.Machine.execFdp2 x s
  | .perm x => Sys2Proof.Machine.execPerm x s
  | .redux x => Sys2Proof.Machine.execRedux x s
  | .scan x => Sys2Proof.Machine.execScan x s
  | .vote x => Sys2Proof.Machine.execVote x s
  | .matchLanes x => Sys2Proof.Machine.execMatchLanes x s
  | .kand x => Sys2Proof.Machine.execKand x s
  | .kor x => Sys2Proof.Machine.execKor x s
  | .kxor x => Sys2Proof.Machine.execKxor x s
  | .knot x => Sys2Proof.Machine.execKnot x s
  | .kmov x => Sys2Proof.Machine.execKmov x s
  | .kpop x => Sys2Proof.Machine.execKpop x s
  | .kffs x => Sys2Proof.Machine.execKffs x s
  | .kset x => Sys2Proof.Machine.execKset x s
  | .braX x => Sys2Proof.Machine.execBraX x s
  | .brd x => Sys2Proof.Machine.execBrd x s
  | .jmpi x => Sys2Proof.Machine.execJmpi x s
  | .callX x => Sys2Proof.Machine.execCallX x s
  | .calli x => Sys2Proof.Machine.execCalli x s
  | .retX x => Sys2Proof.Machine.execRetX x s
  | .splitX x => Sys2Proof.Machine.execSplitX x s
  | .joinX x => Sys2Proof.Machine.execJoinX x s
  | .exitX x => Sys2Proof.Machine.execExitX x s
  | .trap x => Sys2Proof.Machine.execTrap x s
  | .brk x => Sys2Proof.Machine.execBrk x s
  | .nop x => Sys2Proof.Machine.execNop x s
  | .xferX x => Sys2Proof.Machine.execXferX x s
  | .xfera x => Sys2Proof.Machine.execXfera x s
  | .belay x => Sys2Proof.Machine.execBelay x s
  | .park x => Sys2Proof.Machine.execPark x s
  | .waitX x => Sys2Proof.Machine.execWaitX x s
  | .ld x => Sys2Proof.Machine.execLd x s
  | .st x => Sys2Proof.Machine.execSt x s
  | .lds x => Sys2Proof.Machine.execLds x s
  | .sts x => Sys2Proof.Machine.execSts x s
  | .stm x => Sys2Proof.Machine.execStm x s
  | .pref x => Sys2Proof.Machine.execPref x s
  | .spill x => Sys2Proof.Machine.execSpill x s
  | .fill x => Sys2Proof.Machine.execFill x s
  | .atom x => Sys2Proof.Machine.execAtom x s
  | .xadd x => Sys2Proof.Machine.execXadd x s
  | .xrd x => Sys2Proof.Machine.execXrd x s
  | .xclr x => Sys2Proof.Machine.execXclr x s
  | .bind x => Sys2Proof.Machine.execBind x s
  | .unbind x => Sys2Proof.Machine.execUnbind x s
  | .acq x => Sys2Proof.Machine.execAcq x s
  | .tryacq x => Sys2Proof.Machine.execTryacq x s
  | .rel x => Sys2Proof.Machine.execRel x s
  | .fence x => Sys2Proof.Machine.execFence x s
  | .barinit x => Sys2Proof.Machine.execBarinit x s
  | .barrive x => Sys2Proof.Machine.execBarrive x s
  | .bardrop x => Sys2Proof.Machine.execBardrop x s
  | .barwait x => Sys2Proof.Machine.execBarwait x s
  | .syncset x => Sys2Proof.Machine.execSyncset x s
  | .syncw x => Sys2Proof.Machine.execSyncw x s
  | .bcopy x => Sys2Proof.Machine.execBcopy x s
  | .gather x => Sys2Proof.Machine.execGather x s
  | .scatter x => Sys2Proof.Machine.execScatter x s
  | .qfence x => Sys2Proof.Machine.execQfence x s
  | .mlease x => Sys2Proof.Machine.execMlease x s
  | .mrel x => Sys2Proof.Machine.execMrel x s
  | .mma x => Sys2Proof.Machine.execMma x s
  | .mzero x => Sys2Proof.Machine.execMzero x s
  | .mld x => Sys2Proof.Machine.execMld x s
  | .mst x => Sys2Proof.Machine.execMst x s
  | .mcol x => Sys2Proof.Machine.execMcol x s
  | .mput x => Sys2Proof.Machine.execMput x s
  | .mlink x => Sys2Proof.Machine.execMlink x s
  | .qinit x => Sys2Proof.Machine.execQinit x s
  | .qacc x => Sys2Proof.Machine.execQacc x s
  | .qapl x => Sys2Proof.Machine.execQapl x s
  | .qapr x => Sys2Proof.Machine.execQapr x s
  | .qfold x => Sys2Proof.Machine.execQfold x s
  | .qstat x => Sys2Proof.Machine.execQstat x s
  | .qclr x => Sys2Proof.Machine.execQclr x s
  | .hhgen x => Sys2Proof.Machine.execHhgen x s
  | .recruit x => Sys2Proof.Machine.execRecruit x s
  | .ropeend x => Sys2Proof.Machine.execRopeend x s
  | .ropered x => Sys2Proof.Machine.execRopered x s
  | .rand x => Sys2Proof.Machine.execRand x s
  | .fmtset x => Sys2Proof.Machine.execFmtset x s
  | .fmtget x => Sys2Proof.Machine.execFmtget x s
  | .tfetchX x => Sys2Proof.Machine.execTfetchX x s
  | .launch x => Sys2Proof.Machine.execLaunch x s
  | .svc x => Sys2Proof.Machine.execSvc x s
  | .ckpt x => Sys2Proof.Machine.execCkpt x s
  | .rdcnt x => Sys2Proof.Machine.execRdcnt x s
  | .illegalEncoding word lowBit => Sys2Proof.Machine.execIllegalEncoding word lowBit s
  | .deviceReset => Sys2Proof.Machine.execDeviceReset s
  | .unitTrained u => Sys2Proof.Machine.execUnitTrained u s
  | .registerWrite f off val => Sys2Proof.Machine.execRegisterWrite f off val s
  | .kick f val => Sys2Proof.Machine.execKick f val s
  | .vectorCoalescingWrite f v val => Sys2Proof.Machine.execVectorCoalescingWrite f v val s
  | .setqcb f mb addr => Sys2Proof.Machine.execSetqcb f mb addr s
  | .setquota f mb district q => Sys2Proof.Machine.execSetquota f mb district q s
  | .setasid f mb asid root vdev => Sys2Proof.Machine.execSetasid f mb asid root vdev s
  | .inval f mb asid range => Sys2Proof.Machine.execInval f mb asid range s
  | .invalComplete f => Sys2Proof.Machine.execInvalComplete f s
  | .aperture f mb base => Sys2Proof.Machine.execAperture f mb base s
  | .cxlmap f mb port hpa size => Sys2Proof.Machine.execCxlmap f mb port hpa size s
  | .peerwin f mb base size => Sys2Proof.Machine.execPeerwin f mb base size s
  | .fwload f mb image => Sys2Proof.Machine.execFwload f mb image s
  | .drain f mb cluster => Sys2Proof.Machine.execDrain f mb cluster s
  | .drainEnd cluster => Sys2Proof.Machine.execDrainEnd cluster s
  | .retrain f mb channel => Sys2Proof.Machine.execRetrain f mb channel s
  | .retrainEnd channel => Sys2Proof.Machine.execRetrainEnd channel s
  | .setpower f mb watts => Sys2Proof.Machine.execSetpower f mb watts s
  | .dbggrant f mb launch ring size => Sys2Proof.Machine.execDbggrant f mb launch ring size s
  | .dbgrevoke f mb launch => Sys2Proof.Machine.execDbgrevoke f mb launch s
  | .dbghalt f mb launch team => Sys2Proof.Machine.execDbghalt f mb launch team s
  | .teamHalted t => Sys2Proof.Machine.execTeamHalted t s
  | .dbgstep f mb g => Sys2Proof.Machine.execDbgstep f mb g s
  | .dbgresume f mb launch team => Sys2Proof.Machine.execDbgresume f mb launch team s
  | .dbgread f mb launch core kind offset n => Sys2Proof.Machine.execDbgread f mb launch core kind offset n s
  | .dbgwrite f mb launch core target data => Sys2Proof.Machine.execDbgwrite f mb launch core target data s
  | .shadow f mb launch core part grp code => Sys2Proof.Machine.execShadow f mb launch core part grp code s
  | .readcyc f mb u => Sys2Proof.Machine.execReadcyc f mb u s
  | .spdm f mb buf len => Sys2Proof.Machine.execSpdm f mb buf len s
  | .spdmDoeMessage f req => Sys2Proof.Machine.execSpdmDoeMessage f req s
  | .distrec f mb district addr => Sys2Proof.Machine.execDistrec f mb district addr s
  | .setvdev f mb target vdev => Sys2Proof.Machine.execSetvdev f mb target vdev s
  | .stop f mb launch => Sys2Proof.Machine.execStop f mb launch s
  | .nopPacket q => Sys2Proof.Machine.execNopPacket q s
  | .launchPacket q => Sys2Proof.Machine.execLaunchPacket q s
  | .fencePacket q => Sys2Proof.Machine.execFencePacket q s
  | .fenceRetest q => Sys2Proof.Machine.execFenceRetest q s
  | .predPacket q => Sys2Proof.Machine.execPredPacket q s
  | .signalPacket q => Sys2Proof.Machine.execSignalPacket q s
  | .copyPacket q => Sys2Proof.Machine.execCopyPacket q s
  | .copyPacketComplete q => Sys2Proof.Machine.execCopyPacketComplete q s
  | .markPacket q => Sys2Proof.Machine.execMarkPacket q s
  | .waitprevRelease q => Sys2Proof.Machine.execWaitprevRelease q s
  | .firmwareCoreFault core => Sys2Proof.Machine.execFirmwareCoreFault core s
  | .sliceBoundary district => Sys2Proof.Machine.execSliceBoundary district s
  | .launchPlacement launch => Sys2Proof.Machine.execLaunchPlacement launch s
  | .teamResume launch => Sys2Proof.Machine.execTeamResume launch s
  | .campInterval t => Sys2Proof.Machine.execCampInterval t s
  | .camp t => Sys2Proof.Machine.execCamp t s
  | .undoLogFull core => Sys2Proof.Machine.execUndoLogFull core s
  | .thermalStep cluster up => Sys2Proof.Machine.execThermalStep cluster up s
  | .powerLimitStep clusters => Sys2Proof.Machine.execPowerLimitStep clusters s
  | .criticalTrip => Sys2Proof.Machine.execCriticalTrip s
  | .squareGrant t part => Sys2Proof.Machine.execSquareGrant t part s
  | .stopConditionMet g => Sys2Proof.Machine.execStopConditionMet g s
  | .starvationEvent t part => Sys2Proof.Machine.execStarvationEvent t part s
  | .starvationResponse t part => Sys2Proof.Machine.execStarvationResponse t part s
  | .loadDataArrival g seq err => Sys2Proof.Machine.execLoadDataArrival g seq err s
  | .storePerformed g seq => Sys2Proof.Machine.execStorePerformed g seq s
  | .creditRetire g cls => Sys2Proof.Machine.execCreditRetire g cls s
  | .releasePerformed g => Sys2Proof.Machine.execReleasePerformed g s
  | .copyUnitDelivery t copy err => Sys2Proof.Machine.execCopyUnitDelivery t copy err s
  | .copyComplete t copy => Sys2Proof.Machine.execCopyComplete t copy s
  | .engineOpStart quad => Sys2Proof.Machine.execEngineOpStart quad s
  | .engineOpComplete quad err => Sys2Proof.Machine.execEngineOpComplete quad err s
  | .leaseIdleTimeout quad => Sys2Proof.Machine.execLeaseIdleTimeout quad s
  | .emulatedOpComplete g => Sys2Proof.Machine.execEmulatedOpComplete g s
  | .svcComplete g => Sys2Proof.Machine.execSvcComplete g s
  | .teamRetire t => Sys2Proof.Machine.execTeamRetire t s
  | .launchComplete launch => Sys2Proof.Machine.execLaunchComplete launch s
  | .replayTimeout w => Sys2Proof.Machine.execReplayTimeout w s
  | .linkTimeout w => Sys2Proof.Machine.execLinkTimeout w s
  | .peerAccess port off acc => Sys2Proof.Machine.execPeerAccess port off acc s
  | .hostApertureAccess f off acc => Sys2Proof.Machine.execHostApertureAccess f off acc s
  | .vectorDelayExpiry f v => Sys2Proof.Machine.execVectorDelayExpiry f v s
  | .vectorIdleFire f v => Sys2Proof.Machine.execVectorIdleFire f v s
  | .rowActivationAlert channel bank row => Sys2Proof.Machine.execRowActivationAlert channel bank row s
  | .bankBackoffEnd channel bank => Sys2Proof.Machine.execBankBackoffEnd channel bank s
  | .refreshWindowStart channel => Sys2Proof.Machine.execRefreshWindowStart channel s
  | .patrolScrub channel found => Sys2Proof.Machine.execPatrolScrub channel found s
  | .walkComplete w => Sys2Proof.Machine.execWalkComplete w s
  | .unknownCommand f mb code => Sys2Proof.Machine.execUnknownCommand f mb code s
  | .reservedPacketType q => Sys2Proof.Machine.execReservedPacketType q s
  | .virtualDeviceScheduled v => Sys2Proof.Machine.execVirtualDeviceScheduled v s

end Sys2Proof.Machine
end

