-- ==== Sys2Proof/Machine/Policy.lean ====
section
/-! DEFINITION. Clocks, and what happens next when the agenda does not say (01 R14, R396; 16 R304; 17 R351, R358). -/

namespace Sys2Proof.Machine

/-! ## What a clock waits for (R396)

Where the manual fixes the time of an event, the clock by which it counts does not pass that time. -/

/-- A square can grant at a clock (R41). -/
def Part.grants (q : Part) (clk : Nat) : Bool := (q.stray clk).isSome && (squareRecipient q).isSome

/-- A group must issue, a stop of it must end, or its replay must fail, in this clock (R32, R40, R286, R374). -/
def State.groupDue (s : State) (t : Team) (e : GroupRef × Group) : Bool :=
  s.mustIssue e.1 || (s.stopDue e.1 && (t.cur.parts.getD e.1.part {}).lastGrant != some (s.partClk t e.1.part)) || s.replayDue t e

/-- A periodic camp falls due (R322). -/
def State.intervalDue (s : State) (t : Team) : Bool :=
  t.campDue.isNone && decide (t.lastCamp + 2 ^ (((s.districts[t.district]?).map (·.quota.campInt)).getD 20) ≤ s.clk t.core)

/-- Something of a team must happen in this clock of its cluster (R32, R40, R41, R55, R322, R366, R374). -/
def State.teamDue (s : State) (t : Team) : Bool :=
  s.ropeLogNow t || t.allGroups.any (s.groupDue t)
    || t.cur.parts.zipIdx.any (fun (q, p) => q.grants (s.partClk t p) || (decide (2 ^ 16 ≤ q.starve) && !q.starved))
    || s.intervalDue t
    || t.cur.copies.any (fun k => k.fail.isNone && replayLate k.replay (s.clk (t.copyCore k)))

/-- A quad engine must end its lease, or its operation's replay, in this clock (R266, R374). -/
def State.engineDue (s : State) (e : Engine) : Bool :=
  (e.lease.isSome && decide (64 ≤ e.idle)) || (match e.current with
    | some x => replayLate x.replay (s.clk x.core)
    | none => false)

/-- Something must happen in this clock of a cluster, so that it waits. -/
def State.clusterDue (s : State) (cluster : Nat) : Bool :=
  (s.teams.filter (fun t => !t.saved && clusterOf t.core == cluster)).any s.teamDue
    || (s.engines.filter (fun e => e.1 / 16 == cluster)).any (fun e => s.engineDue e.2)

/-- An access over a link of a group has been out for 1 ms. -/
def State.groupLinkDue (s : State) (g : Group) : Bool :=
  match g.hold with
  | some (.link seq _ _ since) => s.linkLate since && (g.ld.any (fun o => o.seq == seq) || g.st.any (fun o => o.seq == seq))
  | _ => false

/-- The next unit of a copy has been out for 1 ms over a link. -/
def State.copyLinkDue (s : State) (t : Team) (k : Copy) : Bool :=
  s.linkLate k.since && (k.started || t.mayStart k) && k.fail.isNone && k.replay.isNone && !decide (k.total ≤ k.delivered)
    && (match s.launch? t.ref.launch with
      | some l => (s.copyFar l t k).isSome && s.unitReady l (t.copyCore k) k
      | none => false)

/-- The operation of an engine has been out for 1 ms over a link. -/
def State.engineLinkDue (s : State) (e : Engine) : Bool :=
  s.linkLate e.since && (match e.current with
    | some x => x.replay.isNone && (match s.launch? x.group.launch with
      | some l => (s.engineFar l x).isSome && s.moveReady l x
      | none => false)
    | none => false)

/-- A vector must fire: the delay of its oldest completion has passed, or its queue has been idle for 200 ns (R326). -/
def State.vectorDue (s : State) (x : Vector) : Bool := x.pending != 0 && (decide (x.due ≤ s.hostClk) || decide (200 ≤ x.idleFor))

/-- The firmware must answer a starvation event: 10 µs have passed (R367). -/
def State.responseDue (s : State) (t : Team) : Bool :=
  t.cur.parts.any (fun q => q.starved && q.starving t.share && q.longestHeld.isSome && decide (q.starvedAt + 10000 ≤ s.hostClk))

/-- A slice of a district has ended (R314, R319). -/
def District.sliceOver (d : District) (clk : Nat) : Bool := decide (d.lastSlice + 1000 * d.quota.slice ≤ clk)

/-- The end of a slice can be taken up. -/
def State.sliceDue (s : State) (d : Nat) : Bool := ((s.districts[d]?).map (·.sliceOver s.hostClk)).getD false && s.sliceReady d

/-- Something must happen in this clock of the host interface, so that it waits (R326, R350, R367, R319; chapter 19, Links). -/
def State.hostDue (s : State) : Bool :=
  s.fns.any (fun f => f.vectors.any (fun v => s.vectorDue v.2))
    || (!s.ready.trip && (s.allGroups.any (fun e => s.groupLinkDue e.2)
        || (s.teams.filter (fun t => !t.saved)).any (fun t => t.cur.copies.any (s.copyLinkDue t))
        || s.engines.any (fun e => s.engineLinkDue e.2)))
    || (s.fwUp && (s.retrains.any (fun r => decide (r.2.1 + 20000 ≤ s.hostClk))
        || (s.teams.filter (fun t => !t.saved)).any s.responseDue
        || (List.range 8).any s.sliceDue))

/-! ## Clocks -/

/-- A clock of a cluster: its cycle count, the stall counters of its groups, the starvation counts and the engines' leases
(R76, R266, R366). The firmware then does what it can of what is due. A clock in which something must still happen does not
pass. DEDUCED, log entry 56. -/
def State.passCluster (s : State) (cluster : Nat) : State :=
  let clk := s.clocks.getD cluster 0
  let s : State := { s with clocks := modAt s.clocks cluster (· + 1) }
  let s := s.tickEngines cluster
  ({ s with teams := s.teams.map (fun t =>
      if t.saved || clusterOf t.core != cluster then t
      else t.modCur (fun c => { c with parts := c.parts.map (fun q =>
        { q.starveTick t.share with groups := q.groups.map (fun g => g.stall clk t.camping) }) })) } : State).settle

/-- A clock of a cluster, when nothing must still happen in the one before it. -/
def State.tickCluster (s : State) (cluster : Nat) : State := if s.clusterDue cluster then s else s.passCluster cluster

/-- A copy whose next unit is not under way begins its access no earlier than now. -/
def Team.waitCopies (t : Team) (clk : Nat) : Team :=
  t.modCur (fun c => { c with copies := c.copies.map (fun k =>
    if t.saved || k.replay.isSome || !(k.started || t.mayStart k) then { k with since := clk } else k) })

/-- An engine whose operation waits for a translation begins its access no earlier than now. -/
def Engine.waitOp (e : Engine) (clk : Nat) : Engine :=
  if (e.current.bind (·.replay)).isSome then { e with since := clk } else e

/-- One clock of a vector: how long the queue of its last SIGNAL has been idle. -/
def State.restVector (s : State) (x : Vector) : Vector := { x with idleFor := if s.vectorRests x then x.idleFor + 1 else 0 }

/-- A clock of the host interface, of 1 GHz: every 2 µs the firmware re-tests the FENCEs in progress (R304, R358). -/
def State.passHost (s : State) : State :=
  let clk := s.hostClk + 1
  let s : State := { s with
    hostClk := clk
    teams := s.teams.map (fun t => if t.cur.copies.isEmpty then t else t.waitCopies clk)
    engines := s.engines.map (fun e => (e.1, e.2.waitOp clk))
    fns := s.fns.map (fun f => { f with vectors := f.vectors.map (fun v => (v.1, s.restVector v.2)) }) }
  if clk % 2000 == 0 then s.testFences else s

/-- A clock of the host interface, when nothing must still happen in the one before it. -/
def State.tickHost (s : State) : State := if s.hostDue then s else s.passHost

/-- A clock of a command-complex core, at which a reload goes on (R348). DESIGN CHOICE, log entry 105. -/
def State.tickCommand (s : State) (core : Nat) : State :=
  let s : State := { s with ccClk := modAt s.ccClk core (· + 1) }
  if s.ready.trip then s else s.reloadTick core

/-- A clock of a channel, which is a clock of its compute die. -/
def State.tickChannel (s : State) (ch : Nat) : State := { s with chanClk := insertKey s.chanClk ch (lookupD s.chanClk ch 0 + 1) }

/-- A clock of one unit (`Act.tick`); after the critical trip no clock of a compute die runs (R351). -/
def State.tick (s : State) (clock : Nat) : State :=
  if clock < 8 then s.onDie (fun s => s.tickCluster clock)
  else if clock == 8 then s.tickHost
  else if 16 ≤ clock && clock < 24 then s.tickCommand (clock - 16)
  else if 32 ≤ clock && clock < 224 then s.onDie (fun s => s.tickChannel (clock - 32))
  else s

/-! ## What happens next (R396)

The manual fixes no time for most operations, so any of the acts below could come first. The agenda says which does; when
it is empty the model takes the first of a fixed list. -/

/-- The next unit of a copy can be delivered, or fails. -/
def State.unitGoes (s : State) (t : Team) (k : Copy) : Bool :=
  k.replay.isNone && !k.logWait && (k.started || t.mayStart k) && (match s.launch? t.ref.launch with
    | none => false
    | some l =>
      let core := t.copyCore k
      let n := k.unitLen k.delivered
      let off := k.byteAt k.delivered
      let src := s.epPlaces l core k.src off.1 n 1
      let dst := k.dests.flatMap (fun ep => s.epPlaces l core ep off.2 n 2)
      let err := s.unitErr l core k
      !err.any (fun e => e.2.2.wait) && (err.isSome || !s.unitBlocked l t k dst && (src ++ dst).all s.locReady))

/-- An event of a team, if one is possible: its camp, its halt, its retirement, or a copy of it. -/
def State.teamEvent (s : State) (t : Team) : Option Out :=
  let copy := (t.cur.copies.findSome? (fun k =>
    if k.fail.isSome || k.total ≤ k.delivered then some (execCopyComplete t.ref k.id s)
    else if s.unitGoes t k then some (execCopyUnitDelivery t.ref k.id none s)
    else none))
  if t.saved then none
  else if s.campGoes t then some (execCamp t.ref s)
  else if t.haltDue && t.haltReady then some (execTeamHalted t.ref s)
  else if s.intervalDue t then some (execCampInterval t.ref s)
  else if s.mayRetire t then some (execTeamRetire t.ref s)
  else copy

/-- A grant of the square, or a starvation event or act, of a partition. -/
def State.partEvent (s : State) (t : Team) : Option Out :=
  t.cur.parts.zipIdx.findSome? (fun (q, p) =>
    if q.grants (s.partClk t p) && s.tested t p then some (execSquareGrant t.ref p s)
    else if 2 ^ 16 ≤ q.starve && !q.starved then some (execStarvationEvent t.ref p s)
    else if s.fwUp && q.starved && q.starving t.share && q.longestHeld.isSome then some (execStarvationResponse t.ref p s)
    else none)

/-- The stop of a group ends. -/
def State.stopEvent (s : State) (r : GroupRef) : Option Out :=
  match s.team? (teamOf r) with
  | none => none
  | some t =>
    match s.group? r with
    | some g => if s.stopDue r && s.stopTurn t r g then some (execStopConditionMet r s) else none
    | none => none

/-- The stores of a group that can be performed: their channels are ready. -/
def State.storeGoes (s : State) (g : Group) (o : StOp) : Bool :=
  !o.done && (storesBefore (fun x => x.seq == o.seq) g.st.reverse []).all (fun o =>
    o.bytes.all (fun b => s.locReady { space := b.space, addr := b.addr }))

/-- An event of a group: data that arrive, a store that is performed, a credit, or the end of a hold. -/
def State.nextOfGroup (s : State) (r : GroupRef) (g : Group) : Option Out :=
  match g.ld.find? (fun (o : LdOp) => !o.done && !o.engine && o.places.all s.locReady), g.st.find? (s.storeGoes g) with
    | some o, _ => some (execLoadDataArrival r o.seq none s)
    | none, some o => some (execStorePerformed r o.seq s)
    | none, none =>
      match [CreditClass.ld, .st, .cp, .tl].find? (fun c => (g.oldest c).isSome) with
      | some c => some (execCreditRetire r c s)
      | none => match g.hold with
        | some (.release _ _) =>
          if g.quiet && (g.rope.isSome || !((s.team? (teamOf r)).elim true Team.camping)) then some (execReleasePerformed r s) else none
        | some (.link _ _ _ _) => if s.groupLinkDue g then some (execLinkTimeout (.group r) s) else none
        | some (.emulated _ _ _ _) => some (execEmulatedOpComplete r s)
        | some (.svc _ _ _ _) => some (execSvcComplete r s)
        | some .xlate => match g.replay with
          | some x => if x.rewalk then some (execWalkComplete (.group r) s)
            else if replayLate g.replay (s.clk ((s.team? (teamOf r)).elim 0 (fun t => t.coreOf r.part)))
              then some (execReplayTimeout (.group r) s)
            else none
          | none => none
        | _ => none

/-- An event of a quad engine. -/
def State.engineEvent (s : State) (quad : Nat) (e : Engine) : Option Out :=
  if e.lease.isSome && 64 ≤ e.idle then some (execLeaseIdleTimeout quad s)
  else match e.current with
  | none => if (s.arbiter e).isSome then some (execEngineOpStart quad s) else none
  | some x => match x.replay with
    | none => if s.engineLinkDue e then some (execLinkTimeout (.engine quad) s)
      else if (match s.launch? x.group.launch with
        | some l => s.moveReady l x
        | none => false) then some (execEngineOpComplete quad none s) else none
    | some r => if r.rewalk then some (execWalkComplete (.engine quad) s)
      else if replayLate x.replay (s.clk x.core) then some (execReplayTimeout (.engine quad) s) else none

/-- A translation that a copy waits for ends, or its unit has been out over a link for too long. -/
def State.copyReplay (s : State) (t : Team) : Option Out :=
  t.cur.copies.findSome? (fun k => match k.replay with
    | some r => if t.saved || k.fail.isSome then none
      else if r.rewalk then some (execWalkComplete (.copy t.ref k.id) s)
      else if replayLate k.replay (s.clk (t.copyCore k)) then some (execReplayTimeout (.copy t.ref k.id) s) else none
    | none => if !t.saved && s.copyLinkDue t k then some (execLinkTimeout (.copy t.ref k.id) s) else none)

/-- The undo log of a core is full. -/
def State.logEvent (s : State) : Option Out :=
  (s.teams.find? (fun t => !t.saved && t.logWaits && (s.teamsIn t.core).any (fun m =>
    if m.roped then s.ropeLogNow m else m.campDue.isNone))).map (fun t => execUndoLogFull t.core s)

/-- An event of a user queue: the packet at its head, a copy that ends, or the end of WAITPREV. -/
def State.queueEvent (s : State) (q : Queue) : Option Out :=
  let k := q.key
  if s.copying k then (if s.hubCopies.all (fun c => c.queue != k || s.copyReady c) then some (execCopyPacketComplete k s) else none)
  else match s.head k with
    | some (x, p) => match fieldOf p 0 1 with
      | 0 => some (execNopPacket k s)
      | 1 => if s.drains.isEmpty then some (execLaunchPacket k s) else none
      | 2 => if x.backlog < 1 + condPackets (fieldOf p 1 1) && (s.offences x p).isEmpty then none else some (execFencePacket k s)
      | 3 => some (execPredPacket k s)
      | 4 => some (execSignalPacket k s)
      | 5 => some (execCopyPacket k s)
      | 6 => some (execMarkPacket k s)
      | _ => some (execReservedPacketType k s)
    | none =>
      let x := s.queue k
      if x.waiting && x.state == 3 && x.earlier.isEmpty && x.backlog != 0
          && !(fieldOf (s.packetBytes x x.rdIdx) 0 1 == 1 && !s.drains.isEmpty)
      then some (execWaitprevRelease k s) else none

/-- An event of a launch: its completion, its placement or its resumption. -/
def State.launchEvent (s : State) : Option Out :=
  match s.launches.find? (fun l => l.phase != .admitted && l.stopDue.isNone && !s.teams.any (fun t => t.ref.launch == l.num)) with
  | some l => some (execLaunchComplete l.num s)
  | none =>
    if s.unsettled || !s.noRopes then none
    else (s.choose.find? (fun l => l.phase != .running && s.startReady l)).map (fun l =>
      if l.phase == .admitted then execLaunchPlacement l.num s else execTeamResume l.num s)

/-- Commands of the mailbox that can end, vectors that fire, and slices that end. -/
def State.hostEvent (s : State) : Option Out :=
  match s.invals.find? (fun i => s.storesOut i.asid) with
  | some i => some (execInvalComplete i.fn s)
  | none => match s.retrains with
    | e :: _ => some (execRetrainEnd e.1 s)
    | [] => match s.drains with
      | e :: _ => if s.launches.any (fun l => l.phase == .running) then none else some (execDrainEnd e.1 s)
      | [] => none

/-- A slice that ends. -/
def State.sliceEvent (s : State) : Option Out :=
  ((List.range 8).find? (fun d => s.sliceDue d)).map (fun d => execSliceBoundary d s)

/-- A vector that fires. -/
def State.vectorEvent (s : State) : Option Out :=
  s.fns.findSome? (fun f => f.vectors.findSome? (fun v =>
    if v.2.pending == 0 then none
    else if v.2.due ≤ s.hostClk then some (execVectorDelayExpiry f.fn v.1 s)
    else if s.vectorRests v.2 then some (execVectorIdleFire f.fn v.1 s)
    else none))

/-- An event that can come in this clock: it changes the machine, and makes no stop condition true after a grant (R219). -/
def State.timely (s : State) (o : Option Out) : Option Out :=
  o.filter (fun o => match o with
    | .next t => !s.lateStop t && decide (t ≠ s)
    | _ => true)

/-- The event that a compute die or the firmware comes to next. DESIGN CHOICE, log entry 6. -/
def State.nextEvent (s : State) : Option Out :=
  let running := s.teams.filter (fun t => !t.saved)
  let groups := s.allGroups
  (groups.findSome? (fun e => s.timely (s.stopEvent e.1))).orElse fun _ =>
  (running.findSome? (fun t => s.timely (s.partEvent t))).orElse fun _ =>
  (groups.findSome? (fun e => s.timely (s.nextOfGroup e.1 e.2))).orElse fun _ =>
  (running.findSome? (fun t => s.timely (s.teamEvent t))).orElse fun _ =>
  (s.engines.findSome? (fun e => s.timely (s.engineEvent e.1 e.2))).orElse fun _ =>
  (running.findSome? (fun t => s.timely (s.copyReplay t))).orElse fun _ =>
  (s.timely s.logEvent).orElse fun _ =>
  s.vectorEvent.orElse fun _ =>
  if !s.fwUp then none
  else s.sliceEvent.orElse fun _ =>
    (s.queues.findSome? s.queueEvent).orElse fun _ => (s.timely s.launchEvent).orElse fun _ => s.timely s.hostEvent

/-- Nothing must still happen in a clock before it passes. -/
def State.passes (s : State) (clock : Nat) : Bool :=
  if clock < 8 then !s.clusterDue clock else if clock == 8 then !s.hostDue else true

/-- The clock that has counted least, of those of the clusters, the host interface and the command complex that can pass; the
host interface's after the critical trip. DESIGN CHOICE, log entry 6. -/
def State.nextClock (s : State) : Nat :=
  if s.ready.trip then 8
  else
    let counts := s.clocks.zipIdx ++ [(s.hostClk, 8)] ++ s.ccClk.zipIdx.map (fun e => (e.1, e.2 + 16))
    match counts.filter (fun e => s.passes e.2) with
    | [] => 8
    | e :: es => (es.foldl (fun (r : Nat × Nat) e => if e.1 < r.1 then e else r) e).2

/-- A team whose camp can be taken. DESIGN CHOICE, log entry 6. -/
def State.nextCamp (s : State) : Option TeamRef :=
  (s.teams.find? s.campGoes).map (·.ref)

end Sys2Proof.Machine
end

