-- ==== Sys2Proof/Machine/Issue.lean ====
section
/-! DEFINITION. One act of the machine, and placing one instruction before the next step (01 R396, 02 R44, 07 R149). -/

namespace Sys2Proof.Machine

/-- Runs the instruction that the issuing group `s.cur` fetches (R149 to R151). -/
def issue (s : State) (c : Ctx) : Host.Outcome State Fault Refusal :=
  match s.fetch c.launch c.pc c.path.mask with
  | .instr i => exec i s
  | .illegal w b => exec (.illegalEncoding w b) s
  | .check (.fault f) => .next (takeFault c f s)
  | .check (.replay f) => .next (c.takeReplay f s)
  | .check .ok => .next s
  | .check .wait => .next (c.setHold .channel s)
  | .noNext a => .next (takeFault c { code := 0x03, inner := 1, address := a, lanes := c.path.mask } s)
  | .wait => .next (c.setHold .channel s)

/-! ## The order of the issues of one clock (R38, R287, R361, R365)

The groups that can issue in one clock issue one after another. Those of a partition that hand on batons or mail, or fault,
go in the order of their slots; each of them finds those FAULTED that fault in the same clock, and these issue before
anything else happens. DEDUCED, log entry 8. -/

/-- The machine after the instruction that a group would issue now. -/
def State.tried (s : State) (r : GroupRef) : Option State :=
  let s : State := { s with cur := r }
  match ctxOf s with
  | none => none
  | some c => match issue s c with
    | .next t => some t
    | _ => none

/-- The other groups of a group's partition and the partition's square. -/
def State.around (s : State) (r : GroupRef) : List Group × List (Nat × Nat) :=
  match (s.team? (teamOf r)).bind (fun t => t.cur.parts[r.part]?) with
  | some q => (q.groups.eraseIdx r.grp, q.square)
  | none => ([], [])

/-- An instruction of a group hands on mail or the baton: what stands around the group in its partition changes. -/
def State.hands (s : State) (r : GroupRef) (t : State) : Bool := decide (t.around r ≠ s.around r)

/-- The instruction that a group can issue now hands on mail or the baton. -/
def State.giver (s : State) (r : GroupRef) : Bool := s.issues r && (s.tried r).any (s.hands r)

/-- The instruction that a group can issue now faults. -/
def State.faulter (s : State) (r : GroupRef) : Bool := s.issues r && (s.tried r).any (·.faulted r)

/-- What a group of a lower slot does in this clock comes before an instruction that hands on mail or the baton: another that
does, an instruction of this very clock, and a fault that an event raises in it (R38). -/
def State.goesFirst (s : State) (t : Team) (g : Group) (e : GroupRef × Group) : Bool :=
  slotBefore e.2 g && (s.mustIssue e.1 || s.replayDue t e || s.groupLinkDue e.2 || s.giver e.1)

/-- A step on a sync word that another group can make in this clock comes before a group's (R287). -/
def State.stepWaits (s : State) (r : GroupRef) : Bool :=
  match s.stepOf r with
  | none => false
  | some p => s.allGroups.any (fun e => e.1 != r && s.issues e.1 && !s.faulter e.1 && (s.stepOf e.1).any (stepBefore · p))

/-- A group of the partition is one that must fault next, and a group's instruction does not come before it. -/
def State.doomWaits (s : State) (r : GroupRef) (g : Group) (hands : Bool) : Bool :=
  s.doomed.any (fun d => d != r && !(hands && teamOf d == teamOf r && d.part == r.part && (s.group? d).any (slotBefore g)))

/-- The square of some partition has granted in this clock of it. -/
def State.granted (s : State) : Bool :=
  s.teams.any (fun m => m.cur.parts.zipIdx.any (fun (q, p) => q.lastGrant == some (s.partClk m p)))

/-- An instruction that a group can issue comes next in its clock: deliveries of a partition go by slot and precede its stop
tests and its grant (R38, R219, R365), steps on a sync word go by partition and slot (R287), and no stop condition becomes true
in a partition after its grant. DEDUCED, log entry 8. -/
def State.inTurn (s : State) (r : GroupRef) : Bool :=
  match s.team? (teamOf r), s.group? r with
  | some t, some g =>
    let hands := (s.tried r).any (s.hands r)
    (((t.cur.parts.getD r.part {}).turn (s.partClk t r.part) (g.slot.getD 0)
        && (t.partGroups r.part).all (fun e => !s.goesFirst t g e)) || !hands)
      && !s.doomWaits r g hands && (!(s.stepPassed r || s.stepWaits r) || (s.tried r).any (·.faulted r))
      && !(s.granted && (s.tried r).any s.lateStop)
  | _, _ => true

/-- The groups of the partition that fault in the clock in which a group hands on mail or the baton, with their states: its
instruction finds them FAULTED (R361, R365). -/
def State.found (s : State) (r : GroupRef) : List (GroupRef × GState) :=
  match s.team? (teamOf r) with
  | none => []
  | some t =>
    let fs := (t.partGroups r.part).filter (fun e => e.1 != r && s.faulter e.1)
    if fs.isEmpty || !s.giver r then [] else fs.map (fun e => (e.1, e.2.state))

/-- The machine as a group's instruction finds it. -/
def State.begins (s : State) (r : GroupRef) : State :=
  let fs := s.found r
  let s := fs.foldl (fun s e => s.modGroup e.1 (fun g => { g with state := .faulted })) s
  { s with cur := r, doomed := s.doomed.filter (fun d => d != r && fs.all (fun e => e.1 != d)) ++ fs.map (·.1) }

/-- The groups that an instruction found FAULTED still have their own to issue. -/
def State.unfound (s : State) (fs : List (GroupRef × GState)) : State :=
  fs.foldl (fun s e => s.modGroup e.1 (fun g => { g with state := e.2 })) s

/-- Notes the step on a sync word that a group has made in this clock (R287). -/
def State.noteStep (s : State) (r : GroupRef) (p : Option ((Space × Nat) × Nat × Nat × Nat × Nat)) : State :=
  match p, s.group? r with
  | some p, some g =>
    if g.hold.isSome || g.state == .faulted then s
    else { s with steps := p :: s.steps.filter (fun e => e.1 != p.1 && (e.2.1 == p.2.1 || clusterOf e.2.2.1 != clusterOf p.2.2.1)) }
  | _, _ => s

/-- What follows an instruction: the groups that it found FAULTED are to issue, its step on a sync word is noted, and a debug
step is complete (R355). -/
def finish (r : GroupRef) (fs : List (GroupRef × GState)) (p : Option ((Space × Nat) × Nat × Nat × Nat × Nat))
    (o : Host.Outcome State Fault Refusal) : Host.Outcome State Fault Refusal :=
  match o with
  | .next t => .next (((t.unfound fs).noteStep r p).afterStep r)
  | .fault f => .fault f
  | .refused x => .refused x

/-- What the agenda may hold as an event: no instruction, and no encoding, which a group fetches.
DESIGN CHOICE, log entry 7. -/
def isEvent (i : Instr) : Bool :=
  match i with
  | .illegalEncoding _ _ => false
  | i => (encode i).isEmpty

/-- What an event leads to, unless it makes a stop condition true in a partition after its grant of the clock; it then comes in
a later one (R40, R219). DEDUCED, log entry 8. -/
def State.unlessLate (s : State) (o : Host.Outcome State Fault Refusal) : Host.Outcome State Fault Refusal :=
  match o with
  | .next t => if s.lateStop t then .next s else .next t
  | o => o

/-- One act: a group issues an instruction, an event of the table takes place, a clock advances, a virtual device is
descheduled, or a row is activated. A group that does not issue leaves the machine as it is, and so does anything else while a
group must fault next.
DESIGN CHOICE, log entry 6; DESIGN CHOICE, log entry 7; DEDUCED, log entry 8; DESIGN CHOICE, log entry 106; DESIGN CHOICE, log entry 107. -/
def act (s : State) (a : Act) : Host.Outcome State Fault Refusal :=
  match a with
  | .event i => if isEvent i && s.doomed.isEmpty then s.unlessLate (exec i s) else .next s
  | .tick c => if s.doomed.isEmpty then .next (s.tick c) else .next s
  | .deschedule v => .next (s.deschedule v)
  | .activate ch bank row => .next (s.onDie (fun s => s.activate ch bank row))
  | .issue r =>
    if s.issues r && s.inTurn r then
      let t := s.begins r
      match ctxOf t with
      | some c => finish r (s.found r) (s.stepOf r) (issue t c)
      | none => .next t
    else .next s

/-- A group that issues. DESIGN CHOICE, log entry 6. -/
def State.nextIssue (s : State) : Option GroupRef :=
  (s.allGroups.find? (fun e => s.issues e.1 && s.inTurn e.1)).map (·.1)

/-- What happens next when the agenda is empty: a camp that can be taken, an instruction, an event, or a clock; after the
critical trip, a vector that fires or a clock of the host interface. DESIGN CHOICE, log entry 6. -/
def idle (s : State) : Host.Outcome State Fault Refusal :=
  if s.ready.trip then s.vectorEvent.getD (.next (s.tick 8))
  else match (if s.doomed.isEmpty then s.nextCamp else none), s.nextIssue with
    | some t, _ => execCamp t s
    | none, some r => act s (.issue r)
    | none, none => s.nextEvent.getD (.next (s.tick s.nextClock))

/-! ## Placing one instruction -/

/-- The launch whose one team runs a placed instruction: every register, tile and slot declared, and the instruction at
virtual address 0x1000. DEDUCED, log entry 5. -/
def fetchLaunch : Launch :=
  { num := 1, queue := { district := 0, vdev := 0, idx := 0 }, cls := 0, childQ := 0xFF, split := false,
    x := 1, y := 1, z := 1, iters := 1, argLen := 0, args := 0, descAddr := 0
    desc := { width16 := 1, groups := 1, nv := 128, nw := 32, ns := 32, helpers := true, lend := true, budget := 65535,
              tiles := 8, orth := 4, calls := 0, scratch := 0x100000, entry := 0x1000, fmt := List.replicate 8 0 }
    faultQ := 0x2000, blockRec := 0x3000, save := 0x4000, n := 1, order := 0, phase := .running }

/-- The group that runs a placed instruction. DEDUCED, log entry 5. -/
def fetchGroup : GroupRef := { launch := 1, team := 0, part := 0, grp := 0 }

/-- The memory of a placed instruction: the words at physical address 0x1000, and a page table that maps the first 2 GiB of
the space onto LPDDR6. DEDUCED, log entry 5. -/
def placedMem (mem : List Host.Cell) (nbits w : Nat) : List Host.Cell :=
  let mem := cellWrites mem 0x1000 (leBytes (w % 2 ^ nbits) 20)
  let mem := cellWrites mem 0x10000 (leBytes 0x18003 8)
  cellWrites mem 0x18000 (leBytes 0x39 8)

/-- A machine with the team of a placed instruction on core 0, and the group's issue at the head of the agenda.
DEDUCED, log entry 5. -/
def State.placed (s : State) (nbits w : Nat) : State :=
  { s with
    mem := placedMem s.mem nbits w
    ready := { s.ready with trip := false, chan := BitVec.allOnes 192 }
    asids := (0, 0x10000) :: s.asids
    vdevs := { key := { district := 0, vdev := 0 }, fn := { link := 0, num := 0 } } :: s.vdevs
    launches := fetchLaunch :: s.launches
    teams := newTeam fetchLaunch { launch := 1, team := 0 } 0 4 0 (s.clk 0) :: s.teams
    agenda := .issue fetchGroup :: s.agenda }

end Sys2Proof.Machine
end

