-- ==== Sys2Proof/Machine/Step.lean ====
section
/-! DEFINITION. One step of the machine: the next act of the agenda, or what the policy chooses (01 R396). -/

namespace Sys2Proof.Machine

/-- One step: the first act of the agenda, or what comes next when the agenda is empty.
DESIGN CHOICE, log entry 6. -/
def step (s : State) : Host.Outcome State Fault Refusal :=
  match s.agenda with
  | [] => idle s
  | a :: rest => act { s with agenda := rest } a

/-- Puts an instruction where the next step fetches it. DEDUCED, log entry 5. -/
def State.withFetchWord (s : State) (nbits w : Nat) : State := s.placed nbits w

end Sys2Proof.Machine
end

