-- ==== Sys2Proof/Safety.lean ====
section
/-! DEFINITION. What a safe state is, and the terms in which statements about instructions are made: when an instruction
goes through, what is seen of a register afterwards, and what has not changed. -/

namespace Sys2Proof.Machine

/-- A state whose memory has its canonical form. -/
def State.Safe (s : State) : Prop := Memory.wf s.mem = true

/-- The context of the issuing group for an operation: the PC after it, and its immediates. -/
def Op.issuer (o : Op) (s : State) : Option Ctx :=
  (ctxOf s).map (fun c => { c with next := c.pc + BitVec.ofNat 64 (4 * o.len), immB := o.immB, immC := o.immC })

/-- The state in which the checks of an instruction leave the machine, where its effect starts (R151, R35, R54). -/
def Ctx.start (c : Ctx) (o : Op) (s : State) : State := c.begin_ o s

/-- The state that an effect is committed to: JOINs that it lets complete are complete, a rope's undo log is charged. -/
def Ctx.done (c : Ctx) (effect : State) : State := c.chargeRope (effect.modGroup c.ref Group.settle)

/-- An instruction of the issuing group, seen in the context `c`, passes every check of R151, R363 and R373, nothing holds
it (R74, R95, R261, R264, R295), and the undo log has room (R322). A condition on the state and the operands alone. -/
structure Runs (o : Op) (plan : Ctx → State → Plan) (s : State) (c : Ctx) : Prop where
  issuer : o.issuer s = some c
  clear : c.verdict o false (plan c (c.start o s)) = .go
  room : (c.done (plan c (c.start o s)).effect).logFits c.core = true

/-- A register of a group by its code; a helper register is one of the group's rope (R51, R66). -/
def Group.regAt (g : Group) (code : Byte) : Reg :=
  match clsOf code with
  | .h => (g.rope.map (fun r => r.hregs.getD (codeNum code) {})).getD {}
  | _ => g.reg code

/-- The word of a register at a lane as an instruction of the group that `c` names would read it. -/
def State.seen (s : State) (c : Ctx) (code : Byte) (l : Nat) : Word :=
  ((s.group? c.ref).map (fun g => (g.regAt code).at_ (clsOf code) l)).getD 0

/-- The tag of a register of the group that `c` names. -/
def State.tagOf (s : State) (c : Ctx) (code : Byte) : Tag := ((s.group? c.ref).map (fun g => (g.regAt code).tag)).getD .u

/-- The paths of a group, or of its rope. -/
def Group.curPaths (g : Group) : List Path := (g.rope.map (·.paths)).getD g.paths

/-- The mask registers of a group, or of its rope. -/
def Group.curKs (g : Group) : List KMask := (g.rope.map (·.ks)).getD g.ks

def State.pathsOf (s : State) (c : Ctx) : List Path := ((s.group? c.ref).map Group.curPaths).getD []
def State.masksOf (s : State) (c : Ctx) : List KMask := ((s.group? c.ref).map Group.curKs).getD []

/-- The path that issued goes on at a PC with its lanes (R44, R151). -/
def State.goesOn (s : State) (c : Ctx) (pc : Dword) : Prop := ∃ p ∈ s.pathsOf c, p.pc = pc ∧ p.mask = c.path.mask ∧ p.join = none

/-! ## What an instruction leaves as it was -/

/-- A rope without the registers, masks, paths and counts that its own instructions change. -/
def Rope.rest (r : Rope) : Rope := { r with hregs := [], ks := [], paths := [], used := [], logBytes := 0 }

/-- A group without its registers, flags and mailboxes, without its masks and paths unless its rope has its own, and without
what says when it issues next. -/
def Group.rest (g : Group) : Group :=
  { g with
    regs := [], flags := 0, m0 := {}, m1 := {}, hold := none, replay := none, readyAt := 0, busyUntil := 0, prompt := false
    ks := if g.rope.isSome then g.ks else []
    paths := if g.rope.isSome then g.paths else []
    rope := g.rope.map Rope.rest }

/-- A team without its groups and the log of what it has written. -/
def Team.rest (t : Team) : Team :=
  { t with cur := { t.cur with parts := t.cur.parts.map (fun p => { p with groups := [] }) }, log := [] }

/-- The machine without its teams and its counts of errors. -/
def State.rest (s : State) : State := { s with teams := [], errs := [], lastError := {}, coreSeq := [] }

/-- Nothing has changed but the issuing group's registers, masks, paths, flags, mailboxes and pipe, what `f` changes of it,
the undo log, and the error counts of R380: not memory, no scratchpad, no tile, no other group, and no special register. -/
structure Same (f : Group → Group) (c : Ctx) (s t : State) : Prop where
  rest : t.rest = s.rest
  teams : ∀ u, (t.team? u).map Team.rest = (s.team? u).map Team.rest
  others : ∀ r, r ≠ c.ref → t.group? r = s.group? r
  own : (t.group? c.ref).map Group.rest = (s.group? c.ref).map (fun g => (f g).rest)

/-- The sticky flags of the group that `c` names. -/
def State.flagsOf (s : State) (c : Ctx) : Flags := ((s.group? c.ref).map (·.flags)).getD 0

/-- The mailboxes of the group that `c` names. -/
def State.mailsOf (s : State) (c : Ctx) : Mailbox × Mailbox := ((s.group? c.ref).map (fun g => (g.m0, g.m1))).getD ({}, {})

/-- A destination of an instruction: its code, the result of each lane, and the shape of the result. -/
structure Dest where
  code : Byte
  val : Nat → Word
  shape : Shape

/-- The word of a destination at a lane in a write mode (R66, R162): the result where the lane executes, zero in the path's
other lanes in zero mode, else what it was, or what a result of tag U or A says of every lane; a w or s register is whole. -/
def Ctx.after (c : Ctx) (x : XF) (d : Dest) (old : Nat → Word) (l : Nat) : Word :=
  match clsOf d.code with
  | .v | .m => if laneBit (c.exec x.mask.toNat) l then d.val l
      else if x.wmode == 2 && laneBit c.path.mask l then 0
      else if (lanesTag d.shape (c.exec x.mask.toNat) c.live).tag == .g then old l else d.shape.at_ l
  | .h => if !c.inRope then old l
      else if laneBit (c.exec x.mask.toNat) l then d.val l
      else if (lanesTag d.shape (c.exec x.mask.toNat) c.live).tag == .g then old l else d.shape.at_ l
  | .w => d.shape.base + d.shape.stride * BitVec.ofNat 32 l
  | .s => d.shape.base
  | _ => old l

/-- The tag of a destination (Table 3.3): that of the result, or G where a live lane keeps its word. -/
def Ctx.tagAfter (c : Ctx) (x : XF) (d : Dest) (old : Tag) : Tag :=
  match clsOf d.code with
  | .v | .m => if c.live &&& ~~~(c.exec x.mask.toNat) == 0 then d.shape.tag else .g
  | .h => if !c.inRope then old else if c.live &&& ~~~(c.exec x.mask.toNat) == 0 then d.shape.tag else .g
  | .w | .s => d.shape.tag
  | _ => old

/-- A mailbox after an instruction: reading empties it, and the group's own write fills it (R68). -/
def Ctx.mailAfter (c : Ctx) (o : Op) (ds : List Dest) (code : Byte) (m : Mailbox) : Mailbox :=
  if (ds.map (·.code)).contains code then { m with full := true, writer := BitVec.ofNat 8 c.ref.grp }
  else if (c.reads o).contains code then { m with full := false } else m

/-- What an instruction does to its group: destinations, sticky flags, masks, other fields, and the PC at which its path
goes on. -/
structure Eff where
  dsts : List Dest := []
  flags : Flags := 0
  masks : List KMask → List KMask := id
  group : Group → Group := id
  next : Dword

/-- An instruction has had an effect, and nothing else of the machine has changed but the path that issued it. -/
structure Left (o : Op) (e : Eff) (c : Ctx) (s t : State) : Prop where
  dst : ∀ d ∈ e.dsts, ∀ l, l < c.n → t.seen c d.code l = c.after o.x d (s.seen c d.code) l
  tag : ∀ d ∈ e.dsts, t.tagOf c d.code = c.tagAfter o.x d (s.tagOf c d.code)
  regs : ∀ k, k ∉ e.dsts.map (·.code) → t.tagOf c k = s.tagOf c k ∧ ∀ l, t.seen c k l = s.seen c k l
  masks : t.masksOf c = e.masks (s.masksOf c)
  flags : t.flagsOf c = s.flagsOf c ||| e.flags
  mails : t.mailsOf c = (c.mailAfter o e.dsts 0xC0 (s.mailsOf c).1, c.mailAfter o e.dsts 0xC1 (s.mailsOf c).2)
  same : Same e.group c s t
  paths : ∀ p ∈ s.pathsOf c, p ≠ c.path → p.join = none → p ∈ t.pathsOf c

/-- As `Left`, and the path that issued goes on with its lanes. -/
structure Wrote (o : Op) (e : Eff) (c : Ctx) (s t : State) : Prop extends Left o e c s t where
  on : t.goesOn c e.next

/-- An instruction that goes through answers a next state, and what that state is. -/
def Completes (i : Instr) (o : Op) (plan : Ctx → State → Plan) (p : Ctx → State → State → Prop) : Prop :=
  ∀ s c, Runs o plan s c → ∃ t, exec i s = .next t ∧ p c s t

/-- What an operation makes of operands A, B, C and the old D of a lane, after patterns and sub-selects (R175). -/
def Ctx.lane (c : Ctx) (o : Op) (op : LaneOp) (l : Nat) : Word × Flags :=
  op (c.opA o.sig o.x l) (c.opB o.sig o.x l) (c.opC o.x l) (c.read o.x.d l) l

/-- The word of an operation on the bases of its operands, the result where every operand is uniform. -/
def Ctx.whole (c : Ctx) (o : Op) (op : LaneOp) : Word × Flags :=
  let (a, b, k, d) := c.shapes o.family o.func o.sig o.x
  op a.base b.base k.base d.base 0

/-- The shape of an operation's result (R66, R176). -/
def Ctx.laneShape (c : Ctx) (o : Op) (aff : Affine) (laneDep : Bool) (op : LaneOp) : Shape :=
  let (a, b, k, d) := c.shapes o.family o.func o.sig o.x
  resultShape aff laneDep (c.whole o op).1 a b k d

/-- The flags of an operation: those of its executing lanes, or of its one value for a w or s destination (R75, R177). -/
def Ctx.laneFlags (c : Ctx) (o : Op) (op : LaneOp) : Flags :=
  if clsOf o.x.d == .w || clsOf o.x.d == .s then (c.whole o op).2
  else orFlags ((lanesOf c.n (c.exec o.x.mask.toNat)).map (fun l => (c.lane o op l).2))

/-- What a function that writes one word to D does. -/
def Ctx.laneEff (c : Ctx) (o : Op) (aff : Affine) (laneDep : Bool) (op : LaneOp) : Eff :=
  { dsts := [{ code := o.x.d, val := fun l => (c.lane o op l).1, shape := c.laneShape o aff laneDep op }]
    flags := c.laneFlags o op, next := c.next }

/-- An instruction that goes through applies an operation to every executing lane. -/
def Gives (i : Instr) (o : Op) (plan : Ctx → State → Plan) (aff : Affine) (laneDep : Bool) (op : Ctx → LaneOp) : Prop :=
  Completes i o plan (fun c s t => Wrote o (c.laneEff o aff laneDep (op c)) c s t)

/-- The destinations of a 64-bit result: none for vz, else a pair (R65). -/
def pairDests (d : Byte) (vals : Nat → Dword) (lo hi : Shape) : List Dest :=
  if clsOf d == .vz then []
  else [{ code := d, val := fun l => loWord (vals l), shape := lo },
    { code := succCode d, val := fun l => hiWord (vals l), shape := hi }]

/-- What a function of 64-bit operands does: U when every operand is U, else G (R65). -/
def Ctx.wideEff (c : Ctx) (o : Op) (tags : List Tag) (whole : Dword) (res : Nat → Dword) : Eff :=
  let tag := if tags.all (· == .u) then Tag.u else .g
  { dsts := pairDests o.x.d res { tag := tag, base := loWord whole } { tag := tag, base := hiWord whole }, next := c.next }

/-- An LD-class operation joins the group's (R74); `srcs` are the places that the words of its result come from, and `lds`
marks an LDS (R347, R380). -/
def Ctx.withLdFrom (c : Ctx) (ds : List Deliver) (srcs : List (Byte × Nat × Loc)) (lds : Bool) (g : Group) : Group :=
  { g with
    ld := g.ld ++ [{ seq := g.nextSeq, pc := c.pc, delivers := ds, lds := lds
                     srcs := srcs.map (fun e => (e.1, e.2.1, e.2.2.space, e.2.2.addr)) }]
    nextSeq := g.nextSeq + 1 }

/-- An LD-class operation whose result comes from no place of memory. -/
def Ctx.withLd (c : Ctx) (ds : List Deliver) (g : Group) : Group := c.withLdFrom ds [] false g

/-- An ST-class operation joins the group's (R74). -/
def Ctx.withSt (c : Ctx) (scope : Nat) (bytes : List StoreByte) (irrevocable : Bool) (g : Group) : Group :=
  { g with
    st := g.st ++ [{ seq := g.nextSeq, pc := c.pc, scope := scope, bytes := bytes, irrevocable := irrevocable }]
    nextSeq := g.nextSeq + 1 }

/-- The partition of a team that holds a group. -/
def State.part? (s : State) (r : GroupRef) : Option Part := (s.team? (teamOf r)).bind (fun t => t.cur.parts[r.part]?)

/-- The issuing group's baton has reached a target of its partition: the square, or a group that is READY, WAITING or PARKED,
which holds it now (R36). `own` is what is then true of the group that gave it up. -/
def Hands (c : Ctx) (own : Group → Prop) (to_ : Nat) (s t : State) : Prop := ∀ slot, c.group.slot = some slot →
  (to_ = 0x21 → (∃ g', t.group? c.ref = some g' ∧ own g') ∧ ∃ q, t.part? c.ref = some q ∧ (slot, c.clk + 1) ∈ q.square) ∧
  ∀ g, to_ ≠ 0x21 → to_ ≠ c.ref.grp → s.group? { c.ref with grp := to_ } = some g →
    g.state = .ready ∨ g.state = .waiting ∨ g.state = .parked →
    (∃ g', t.group? c.ref = some g' ∧ own g') ∧
    ∃ g', t.group? { c.ref with grp := to_ } = some g' ∧ g'.slot = some slot
      ∧ g'.state = if g.state = .waiting then .heldWaiting else .holding

/-- The issuing group has given its baton up, in state `st` and with its pipe taken, and the groups of its partition stand as
the delivery of R36 leaves them. A group that issues without a baton (R355) gives none. -/
def Sends (c : Ctx) (st : GState) (to_ : Nat) (s t : State) : Prop :=
  (∀ q slot, s.part? c.ref = some q → c.group.slot = some slot →
    let stand := fun (g : Group) => (g.state, g.slot, g.readyAt, g.prompt, g.heldSince)
    let d := deliver { q with groups := modAt q.groups c.ref.grp (fun g => { g with
      state := st, slot := none, readyAt := c.clk + c.pipe, prompt := false }) } to_ true slot c.clk c.group.width
    ∃ q', t.part? c.ref = some q' ∧ q'.square = d.square ∧ q'.groups.map stand = d.groups.map stand) ∧
  (c.group.slot = none → ∀ r, r ≠ c.ref →
    (t.group? r).map (fun g => (g.state, g.slot)) = (s.group? r).map (fun g => (g.state, g.slot)))

/-- A group has stopped at an instruction and holds no baton (R39). -/
def Ctx.Stands (c : Ctx) (what : Stop) (st : GState) (g : Group) : Prop :=
  g.state = st ∧ g.slot = none ∧ g.stop = some { what := what, pc := c.pc, next := c.next }

/-- No check of an instruction finds a fault before its own (R151, R363, R373). -/
structure Clear (o : Op) (p : Plan) (c : Ctx) : Prop where
  word : c.wordFault o p = none
  awaits : c.awaits (c.named o ++ p.codes) = false
  issue : c.issueFault o p = none
  mem : p.mem = .ok
  poison : c.poisonOf o.family o.func o.sig o.x (c.exec o.x.mask.toNat) = none

/-! ## Steps on memory, and on what a team shares -/

/-- A group without what a step on memory may note in it: the result of a re-test, and the pin of its rope (R55, R245). -/
def Group.still (g : Group) : Group :=
  { g with
    stop := g.stop.map (fun r => { r with res := none })
    rope := g.rope.map (fun r => { r with pinned := false }) }

/-- A team without its groups, its undo log, its due camp and the cells of its scratchpads. -/
def Team.still (t : Team) : Team :=
  { t.rest with
    undo := [], campDue := none
    cur := { t.rest.cur with cores := t.rest.cur.cores.map (fun h => { h with scratch := [], scratchPoison := [] }) } }

/-- The machine without its teams, memory, engines and counts of errors. -/
def State.still (s : State) : State := { s.rest with mem := [], memPoison := [], engines := [] }

/-- What an instruction changes: its effect on its group, and on its team and its quad's engine. -/
structure Chg extends Eff where
  team : Team → Team := id
  engine : Engine → Engine := id

/-- An instruction has made its change from a state `s` on and its path goes on. Nothing else has changed but memory and
scratchpad, of which `Stores` speaks, and what a step on them notes in groups that wait. -/
structure Stepped (o : Op) (e : Chg) (c : Ctx) (s t : State) : Prop where
  dst : ∀ d ∈ e.dsts, ∀ l, l < c.n → t.seen c d.code l = c.after o.x d (s.seen c d.code) l
  tag : ∀ d ∈ e.dsts, t.tagOf c d.code = c.tagAfter o.x d (s.tagOf c d.code)
  regs : ∀ k, k ∉ e.dsts.map (·.code) → t.tagOf c k = s.tagOf c k ∧ ∀ l, t.seen c k l = s.seen c k l
  masks : t.masksOf c = s.masksOf c
  flags : t.flagsOf c = s.flagsOf c ||| e.flags
  mails : t.mailsOf c = s.mailsOf c
  still : t.still = s.still
  engines : ∀ q, t.engine q = if q = quadOf c.core then e.engine (s.engine q) else s.engine q
  teams : ∀ u, (t.team? u).map Team.still = (s.team? u).map (fun m => (if u = teamOf c.ref then e.team m else m).still)
  others : ∀ r, r ≠ c.ref → (t.group? r).map Group.still = (s.group? r).map Group.still
  own : (t.group? c.ref).map (fun g => g.still.rest) = (s.group? c.ref).map (fun g => (e.group g).still.rest)
  paths : ∀ p ∈ s.pathsOf c, p ≠ c.path → p.join = none → p ∈ t.pathsOf c
  on : t.goesOn c e.next

/-- The bytes at some places of memory or on chip, no two the same, have been replaced, and no byte elsewhere but those of
registers. -/
def Stores (ls : List Loc) (bs : List Byte) (s t : State) : Prop :=
  (ls.Nodup → ∀ i p, ls[i]? = some p → t.readLoc p = bs.getD i 0) ∧
  ∀ p, p ∉ ls → (∀ g, p.space ≠ .reg g) → t.readLoc p = s.readLoc p

/-- No byte has changed but those of registers. -/
def NoStore (s t : State) : Prop := Stores [] [] s t

/-- The translations of some addresses of a space do not depend on the bytes at some places: none lies in a page table on the
way to one of them. -/
def State.Fixed (s : State) (sp : VSpace) (vas : List Nat) (ls : List Loc) : Prop :=
  ∀ mem, (∀ a, ({ space := .phys, addr := a } : Loc) ∉ ls → cellRead mem a = cellRead s.mem a) →
    ∀ va ∈ vas, ({ s with mem := mem } : State).xlate sp va = s.xlate sp va

/-- The places of `n` bytes of memory from a key on. -/
def physSpan (key n : Nat) : List Loc := ({ space := .phys, addr := key } : Loc).span n

/-- A camp falls due for the team of the issuing group (R133). -/
def State.camps (t : State) (c : Ctx) : Prop := ∃ m, t.team? (teamOf c.ref) = some m ∧ m.campDue.isSome

/-- One step on the object that an operand names, after the group's earlier stores to its sector: it becomes `v`; a camp
falls due (R119, R123, R133). -/
def Puts (o : Op) (a : ObjAcc) (v : SyncObj) (e : Chg) (c : Ctx) (s t : State) : Prop :=
  ∃ key, a.locs = .ok (physSpan key 32) ∧
    Stepped o e c ((c.start o s).flushFor c.ref (physSpan key 32)) t ∧
    Stores (physSpan key 32) v.bytes ((c.start o s).flushFor c.ref (physSpan key 32)) t ∧ t.camps c

/-- A status or a token as a destination. -/
def scalar (code : Byte) (v : Word) : List Dest := [{ code := code, val := fun _ => v, shape := { tag := .u, base := v } }]

/-- An engine operation joins the table of its quad with the number of the group's operation (R264). -/
def Ctx.queues (c : Ctx) (op : EngOp) (tiles : List Nat) (outbound : Bool) (g : Engine) : Engine :=
  { g with
    nextAge := g.nextAge + 1
    entries := g.entries ++ [{ age := g.nextAge, group := c.ref, core := c.core, seq := c.group.nextSeq, pc := c.pc, op := op
                               tiles := tiles, lanes := c.path.mask, outbound := outbound }] }

/-- A TL-class operation joins the group's (R74). -/
def Ctx.withTl (c : Ctx) (dests : List Byte) (tiles : List Nat) (logs : List LogKey) (sectors : List Nat) (g : Group) : Group :=
  { g with
    tl := g.tl ++ [{ seq := c.group.nextSeq, pc := c.pc, dests := dests, tiles := tiles, logs := logs, sectors := sectors }]
    nextSeq := c.group.nextSeq + 1 }

/-- An engine operation of the TL class goes through: it joins the table with its operands as read at issue. -/
def Enqueues (o : Op) (op : EngOp) (tiles : List Nat) (dests : List Byte) (logs : List LogKey) (sectors : List Nat)
    (outbound : Bool) (c : Ctx) (s t : State) : Prop :=
  Stepped o { group := c.withTl dests tiles logs sectors, engine := c.queues op tiles outbound, next := c.next } c
    (c.start o s) t ∧ NoStore s t

/-- The same of one of the LD class, whose result goes to a register. -/
def EnqueuesLd (o : Op) (op : EngOp) (tiles : List Nat) (d : Deliver) (c : Ctx) (s t : State) : Prop :=
  Stepped o { group := fun g => { g with ld := g.ld ++ [{ seq := g.nextSeq, pc := c.pc, delivers := [d], engine := true }]
                                         nextSeq := g.nextSeq + 1 }
              engine := c.queues op tiles false, next := c.next } c (c.start o s) t ∧ NoStore s t

/-! ## Events, which no instruction word asks for -/

/-- A group of a team that is in its core, while the clocks of the compute dies run (R323, R351). -/
structure Present (s : State) (r : GroupRef) (m : Team) (g : Group) : Prop where
  clocks : s.ready.trip = false
  team : s.team? (teamOf r) = some m
  here : m.saved = false
  group : s.group? r = some g

/-- Nothing outside the teams has changed. -/
def Within (s t : State) : Prop := ({ t with teams := [] } : State) = { s with teams := [] }

/-- Only one group has changed, and it is `f` of what it was; its team may have logged what was written. -/
structure Becomes (r : GroupRef) (f : Group → Group) (s t : State) : Prop where
  within : Within s t
  teams : ∀ u, (t.team? u).map Team.rest = (s.team? u).map Team.rest
  others : ∀ q, q ≠ r → t.group? q = s.group? q
  own : t.group? r = (s.group? r).map f

/-- A camp is due for a team (R322). -/
def State.campsFor (t : State) (u : TeamRef) : Prop := ∃ m, t.team? u = some m ∧ m.campDue.isSome

/-- A group has faulted: it is FAULTED and holds no baton, and its launch is to end FAILED (R311, R361). -/
def State.faultedAt (t : State) (r : GroupRef) : Prop :=
  (∃ g, t.group? r = some g ∧ g.state = .faulted ∧ g.slot = none ∧ g.stop = none ∧ g.hold = none) ∧ t.campsFor (teamOf r)

/-- The state of a group whose stop has ended (R40, R56). -/
def GState.afterStop : GState → GState
  | .waiting => .ready
  | .heldWaiting => .holding
  | st => st

/-- The operation in progress of a quad's engine has ended: its entry has left the table, the engine is free, and its
TL-class operation is complete, with a failure or without. -/
def State.engineFree (t : State) (quad : Nat) (e : EngEntry) (fail : Option FaultInfo) : Prop :=
  (∀ x ∈ (t.engine quad).entries, x.age ≠ e.age) ∧ (t.engine quad).busy = none ∧
  ∀ g, t.group? e.group = some g → ∀ o ∈ g.tl, o.seq = e.seq → o.done = true ∧ o.fail = fail

/-- The machine in which a group that was held issues its instruction again. -/
def State.again (s : State) (r : GroupRef) : State := ({ s with cur := r } : State).modGroup r (fun x => { x with hold := none })

/-- As `Runs`, once the cluster control core has computed the result of an emulated instruction (R95). -/
structure RunsEmulated (o : Op) (plan : Ctx → State → Plan) (s : State) (c : Ctx) : Prop where
  issuer : o.issuer s = some c
  clear : c.verdict o true (plan c (c.start o s)) = .go
  room : (c.done (plan c (c.start o s)).effect).logFits c.core = true

/-- A held narrow-format instruction of a group completes with its operation's results, as a native unit's would be (R95). -/
def Emulates (r : GroupRef) (g : Group) (s : State) (o : Op) (plan : Ctx → State → Plan) (dep : Bool) (op : Ctx → LaneOp) : Prop :=
  ∀ len c, g.hold = some (.emulated o.family o.func o.x len) → RunsEmulated o plan (s.again r) c →
    ∃ t, exec (.emulatedOpComplete r) s = .next (t.afterStep r) ∧ Wrote o (c.laneEff o .none dep (op c)) c (s.again r) t

/-- A held release of a group is performed once its earlier accesses are: the instruction issues again (R139). -/
def Releases (r : GroupRef) (g : Group) (s : State) (kind : ReleaseKind) (i : Instr) (o : Op) (plan : Ctx → State → Plan) : Prop :=
  g.hold = some (.release kind o.x) → ∀ c, Runs o plan (s.again r) c →
    ∃ t, exec i (s.again r) = .next t ∧ exec (.releasePerformed r) s = .next (s.inFaultTurn r (t.afterStep r))

/-! ## The mailbox (R344) -/

/-- A write of CMD by a function starts its command: the firmware runs, the function exists, and none is in progress. -/
structure Takes (s : State) (f : Fn) : Prop where
  up : s.fwUp = true
  exists_ : fnExists f = true
  free : (s.fnState f).mailbox.busy = false

/-- A command of a function has ended with a result and bytes, of which RESULT holds the first 56, and with the interrupt that
it asked for. That the other bytes of a longer result are kept is the model's choice of log entry 108. -/
def Replied (f : Fn) (mb : MbCtl) (result : Nat) (out : List Byte) (s t : State) : Prop :=
  ((t.fnState f).mailbox.busy = false ∧ (t.fnState f).mailbox.done = true ∧ (t.fnState f).mailbox.result = result
    ∧ (t.fnState f).mailbox.out = out.take 56 ∧ (t.fnState f).mailbox.sample = out) ∧ t.irqs = s.irqs ++ (if mb.irq then [{ fn := f, vector := mb.vector.toNat }] else [])

/-- A command of a function is in progress. -/
def State.pendingFor (t : State) (f : Fn) : Prop := (t.fnState f).mailbox.busy = true ∧ (t.fnState f).mailbox.done = false

/-- An instruction ends a command with a result, and `post` is true of the state that it leads to. -/
def Answers (i : Instr) (f : Fn) (mb : MbCtl) (s : State) (result : Nat) (out : List Byte) (post : State → Prop) : Prop :=
  ∃ t, exec i s = .next t ∧ Replied f mb result out s t ∧ post t

/-- The function and control bits of a mailbox command that needs the firmware, and whether virtual functions may issue it
(Table 17.5). -/
def commandOf (i : Instr) : Option (Fn × MbCtl × Bool) :=
  match i with
  | .setqcb f mb _ => some (f, mb, true)
  | .setquota f mb _ _ => some (f, mb, false)
  | .setasid f mb _ _ _ => some (f, mb, false)
  | .inval f mb _ _ => some (f, mb, false)
  | .aperture f mb _ => some (f, mb, false)
  | .cxlmap f mb _ _ _ => some (f, mb, false)
  | .peerwin f mb _ _ => some (f, mb, false)
  | .fwload f mb _ => some (f, mb, false)
  | .drain f mb _ => some (f, mb, false)
  | .retrain f mb _ => some (f, mb, false)
  | .setpower f mb _ => some (f, mb, false)
  | .dbggrant f mb _ _ _ => some (f, mb, false)
  | .dbgrevoke f mb _ => some (f, mb, false)
  | .dbghalt f mb _ _ => some (f, mb, false)
  | .dbgstep f mb _ => some (f, mb, false)
  | .dbgresume f mb _ _ => some (f, mb, false)
  | .dbgread f mb _ _ _ _ _ => some (f, mb, false)
  | .dbgwrite f mb _ _ _ _ => some (f, mb, false)
  | .shadow f mb _ _ _ _ _ => some (f, mb, false)
  | .readcyc f mb _ => some (f, mb, true)
  | .distrec f mb _ _ => some (f, mb, false)
  | .setvdev f mb _ _ => some (f, mb, false)
  | .stop f mb _ => some (f, mb, true)
  | _ => none

/-- Only what a mailbox command may change of its own function has changed: its registers, and the interrupts sent. -/
def OnlyMailbox (f : Fn) (s t : State) : Prop :=
  ({ t with fns := [], irqs := [] } : State) = { s with fns := [], irqs := [] } ∧ ∀ g, g ≠ f → t.fnState g = s.fnState g

/-! ## Operations on narrow formats (R190) -/

/-- CVTN between standard elements and those of a record. -/
def Ctx.cvtnOp (c : Ctx) (x : XF) : LaneOp := fun a b _ _ l =>
  let std := Fp.stdFmt (bits x.f.toNat 5 2)
  let fn := Fp.recordFmt (c.narrowRec x)
  let wc := Fp.container (c.narrowRec x)
  let rnd := laneRand (if x.round == 4 then c.srWord x.c else 0) l
  if bit x.f.toNat 7 then convert wc std.wid (fun e n => Fp.roundVal std x.round.toNat (rnd e) (Fp.decode fn (elemBits fn n))) a 0
  else convert std.wid wc (fun e n => Fp.roundVal fn x.round.toNat (rnd e) (Fp.decode std n)) a b

/-- PACKN: the k standard elements of A go into the k containers of D from k times C on. -/
def Ctx.packnOp (c : Ctx) (x : XF) : LaneOp := fun a _ u d l =>
  let std := Fp.stdFmt (bits x.f.toNat 5 2)
  let k := 32 / std.wid
  let fn := Fp.recordFmt (c.narrowRec x)
  let wc := Fp.container (c.narrowRec x)
  let rs := (elems std.wid a).zipIdx.map (fun (n, e) =>
    Fp.roundVal fn x.round.toNat (laneRand (if x.round == 4 then c.srWord x.b else 0) l (k * u.toNat + e)) (Fp.decode std n))
  (packElems wc ((elems wc d).zipIdx.map (fun (o, i) =>
    if k * u.toNat ≤ i && i < k * u.toNat + k then (rs.map (·.1)).getD (i - k * u.toNat) 0 else o)), orFlags (rs.map (·.2)))

/-- UNPACKN: the k containers of A from k times C on become the standard elements of D. -/
def Ctx.unpacknOp (c : Ctx) (x : XF) : LaneOp := fun a _ u _ _ =>
  let std := Fp.stdFmt (bits x.f.toNat 5 2)
  let k := 32 / std.wid
  let fn := Fp.recordFmt (c.narrowRec x)
  let wc := Fp.container (c.narrowRec x)
  let rs := (((elems wc a).drop (k * u.toNat)).take k).map (fun n =>
    Fp.roundVal std x.round.toNat 0 (Fp.decode fn (elemBits fn n)))
  (packElems std.wid (rs.map (·.1)), orFlags (rs.map (·.2)))

/-! ## The B-form majors (Table 8.1) -/

/-- The operation of a compute major, with the row of Table 3.3 that it follows. -/
def majorLane (major sfu : Nat) (x : XF) : Affine × (Ctx → LaneOp) :=
  let f32 := fun (el : ElemFn) => (Affine.none, fun (c : Ctx) => fltOp (c.fltFmt x) x.round.toNat el)
  let one := fun (h : Fp.Val → Nat × Flags) => (Affine.none, fun (_ : Ctx) => oneOp h)
  match major with
  | 0x01 | 0x0D => (affOf x .add, fun _ => opIadd x)
  | 0x02 => (affOf x .sub, fun _ => opIsub x)
  | 0x03 => (affOf x .mul, fun _ => opImul x)
  | 0x04 => (affOf x .none, fun _ => opImad x)
  | 0x05 | 0x11 => (affOf x .none, fun _ => opAnd)
  | 0x06 => (affOf x .none, fun _ => opOr)
  | 0x07 => (affOf x .none, fun _ => opXor)
  | 0x08 | 0x0E => (affOf x .shl, fun _ => opShl x)
  | 0x09 | 0x0F => (affOf x .none, fun _ => opShr x)
  | 0x0A | 0x10 => (affOf x .none, fun _ => opSar x)
  | 0x0B => (affOf x .none, fun _ => opImin x)
  | 0x0C => (affOf x .none, fun _ => opImax x)
  | 0x12 => (.none, fun _ _ _ _ _ _ => (loWord (x.lit.getD 0), 0))
  | 0x13 => (affOf x .mov, fun _ => opMov)
  | 0x14 | 0x1A => f32 elFadd
  | 0x15 => f32 elFsub
  | 0x16 | 0x1B => f32 elFmul
  | 0x17 | 0x1C | 0x1D => f32 elFfma
  | 0x18 => f32 elFmin
  | 0x19 => f32 elFmax
  | 0x1E => (.none, fun _ => opIdp 8 x.f)
  | 0x1F => (.none, fun _ => opIdp 4 x.f)
  | _ => match sfu with
    | 0 => one (Fp.div Fp.fp32 x.round.toNat (.fin false 1 0))
    | 1 => one (Fp.rsqrt Fp.fp32 x.round.toNat)
    | 2 => one (Fp.sqrt Fp.fp32 x.round.toNat)
    | 3 => one Fp.exp2
    | 4 => one Fp.log2
    | 5 => one Fp.sinpi
    | 6 => one Fp.cospi
    | _ => one Fp.tanh

/-- A B-form compute instruction as an operation: its word, its fields A, B and C, and for an accumulate major field A as the
addend (R154). -/
def majorOp (major : Nat) (a b c : Byte) : Op :=
  let p := bParts major a b c a
  { family := p.1, func := p.2.1, x := p.2.2.1, len := 1, bad := illegalB (wordB major a b c), immB := p.2.2.2
    prompt := p.1 == 0x01 }

/-- A BL-form compute instruction: its literal stands in place of field C (R156). -/
def majorOpBL (major : Nat) (a b : Byte) (lit : Dword) : Op :=
  let p := bParts major a b 0 a
  { family := p.1, func := p.2.1, x := p.2.2.1, len := 3, bad := illegalBL (wordBL major a b) lit, immB := some lit }

/-- A compute major gives its operation's results, as the instruction `i`. -/
def MajorGives (i : Instr) (major : Nat) (sfu : Byte) (o : Op) : Prop :=
  Gives i o (bPlan major sfu.toNat o.x) (majorLane major sfu.toNat o.x).1 false (majorLane major sfu.toNat o.x).2

end Sys2Proof.Machine
end

