-- ==== Sys2Proof/Certificates/Slice0/Obligations.lean ====
section
/-! DEFINITION. The statements for the provers, in the terms of Safety: what every instruction and event of the machine does
when it goes through, what it leaves unchanged, where it faults, what reset leaves, and what every step keeps. -/

open Sys2Proof Sys2Proof.Machine

/-! ## Integer functions (08 R181 to R183) -/

/-- The INT family of the X form: each executing lane of D takes the function of Table 8.2 on its operands; everything else
stays. With type 101 IADD, ISUB, LEA, MOV and LDI are in `WideFunctions`. -/
def Obligations.IntegerFunctions : Prop := ∀ x : XF,
  (x.type ≠ 5 → Gives (.iaddX x) (opX 0x01 0x00 x) (planIadd x) (affOf x .add) false
    (fun _ => intOp x (fun w a b _ => intRes x w (rd (unsBit x) w a + rd (unsBit x) w b)))) ∧
  (x.type ≠ 5 → Gives (.isubX x) (opX 0x01 0x01 x) (planIsub x) (affOf x .sub) false
    (fun _ => intOp x (fun w a b _ => intRes x w (rd (unsBit x) w a - rd (unsBit x) w b)))) ∧
  Gives (.iaddc x) (opX 0x01 0x02 x) (intPlan 0x02 .none (opIaddc x) x) (affOf x .none) false
    (fun _ => intOp x (fun _ a b c => (a + b + c % 2) / 2 ^ 32)) ∧
  Gives (.isubb x) (opX 0x01 0x03 x) (intPlan 0x03 .none (opIsubb x) x) (affOf x .none) false
    (fun _ => intOp x (fun _ a b c => if a < b + c % 2 then 1 else 0)) ∧
  Gives (.imulX x) (opX 0x01 0x04 x) (intPlan 0x04 .mul (opImul x) x) (affOf x .mul) false
    (fun _ => intOp x (fun w a b _ => intRes x w (rd (unsBit x) w a * rd (unsBit x) w b))) ∧
  Gives (.imulhS x) (opX 0x01 0x05 x) (intPlan 0x05 .none (opImulhS x) x) (affOf x .none) false
    (fun _ => intOp x (fun _ a b _ => wrap 32 (sx 32 a * sx 32 b / 2 ^ 32))) ∧
  Gives (.imulhU x) (opX 0x01 0x06 x) (intPlan 0x06 .none (opImulhU x) x) (affOf x .none) false
    (fun _ => intOp x (fun _ a b _ => a * b / 2 ^ 32)) ∧
  Gives (.imadX x) (opX 0x01 0x07 x) (intPlan 0x07 .none (opImad x) x) (affOf x .none) false
    (fun _ => intOp x (fun w a b c => intRes x w (rd (unsBit x) w a * rd (unsBit x) w b + rd (unsBit x) w c))) ∧
  Gives (.iminX x) (opX 0x01 0x08 x) (intPlan 0x08 .none (opImin x) x) (affOf x .none) false
    (fun _ => intOp x (fun w a b _ => if rd (unsBit x) w b < rd (unsBit x) w a then b else a)) ∧
  Gives (.imaxX x) (opX 0x01 0x09 x) (intPlan 0x09 .none (opImax x) x) (affOf x .none) false
    (fun _ => intOp x (fun w a b _ => if rd (unsBit x) w a < rd (unsBit x) w b then b else a)) ∧
  Gives (.iabs x) (opX 0x01 0x0A x) (intPlan 0x0A .none (opIabs x) x) (affOf x .none) false
    (fun _ => intOp x (fun w a _ _ => intRes x w (sx w a).natAbs)) ∧
  Gives (.ineg x) (opX 0x01 0x0B x) (intPlan 0x0B .none (opIneg x) x) (affOf x .none) false
    (fun _ => intOp x (fun w a _ _ => intRes x w (-(sx w a)))) ∧
  Gives (.shlX x) (opX 0x01 0x11 x) (intPlan 0x11 .shl (opShl x) x) (affOf x .shl) false
    (fun _ => intOp x (fun w a b _ => if w ≤ b then 0 else a * 2 ^ b % 2 ^ w)) ∧
  Gives (.shrX x) (opX 0x01 0x12 x) (intPlan 0x12 .none (opShr x) x) (affOf x .none) false
    (fun _ => intOp x (fun w a b _ => if w ≤ b then 0 else a / 2 ^ b)) ∧
  Gives (.sarX x) (opX 0x01 0x13 x) (intPlan 0x13 .none (opSar x) x) (affOf x .none) false
    (fun _ => intOp x (fun w a b _ => wrap w (sx w a / 2 ^ min b (w - 1)))) ∧
  Gives (.icmp x) (opX 0x01 0x1C x) (intPlan 0x1C .none (opIcmp x) x) (affOf x .none) false
    (fun _ => intOp x (elCmp x))

/-- The functions of whole words of the INT family: logic, rotation, bit counts, bit fields, selection and moves. -/
def Obligations.WordFunctions : Prop := ∀ x : XF,
  Gives (.andX x) (opX 0x01 0x0C x) (intPlan 0x0C .none opAnd x) (affOf x .none) false (fun _ a b _ _ _ => (a &&& b, 0)) ∧
  Gives (.orX x) (opX 0x01 0x0D x) (intPlan 0x0D .none opOr x) (affOf x .none) false (fun _ a b _ _ _ => (a ||| b, 0)) ∧
  Gives (.xorX x) (opX 0x01 0x0E x) (intPlan 0x0E .none opXor x) (affOf x .none) false (fun _ a b _ _ _ => (a ^^^ b, 0)) ∧
  Gives (.andn x) (opX 0x01 0x0F x) (intPlan 0x0F .none opAndn x) (affOf x .none) false (fun _ a b _ _ _ => (a &&& ~~~b, 0)) ∧
  Gives (.not x) (opX 0x01 0x10 x) (intPlan 0x10 .none opNot x) (affOf x .none) false (fun _ a _ _ _ _ => (~~~a, 0)) ∧
  Gives (.rotl x) (opX 0x01 0x14 x) (intPlan 0x14 .none opRotl x) (affOf x .none) false
    (fun _ a b _ _ _ => (a.rotateLeft (b.toNat % 32), 0)) ∧
  Gives (.rotr x) (opX 0x01 0x15 x) (intPlan 0x15 .none opRotr x) (affOf x .none) false
    (fun _ a b _ _ _ => (a.rotateRight (b.toNat % 32), 0)) ∧
  Gives (.popc x) (opX 0x01 0x16 x) (intPlan 0x16 .none opPopc x) (affOf x .none) false
    (fun _ a _ _ _ _ => (BitVec.ofNat 32 (popWord a), 0)) ∧
  Gives (.clz x) (opX 0x01 0x17 x) (intPlan 0x17 .none opClz x) (affOf x .none) false
    (fun _ a _ _ _ _ => (BitVec.ofNat 32 (clzWord a), 0)) ∧
  Gives (.ctz x) (opX 0x01 0x18 x) (intPlan 0x18 .none opCtz x) (affOf x .none) false
    (fun _ a _ _ _ _ => (BitVec.ofNat 32 (ctzWord a), 0)) ∧
  Gives (.brev x) (opX 0x01 0x19 x) (intPlan 0x19 .none opBrev x) (affOf x .none) false
    (fun _ a _ _ _ _ => (brevWord a, 0)) ∧
  Gives (.bfx x) (opX 0x01 0x1A x) (intPlan 0x1A .none (opBfx x) x) (affOf x .none) false
    (fun _ a b _ _ _ => (bfxWord (unsBit x) a b, 0)) ∧
  Gives (.bfi x) (opX 0x01 0x1B x) (intPlan 0x1B .none opBfi x) (affOf x .none) false
    (fun _ a b _ d _ => (bfiWord d a b, 0)) ∧
  Gives (.isel x) (opX 0x01 0x1D x) (intPlan 0x1D .none opIsel x) (affOf x .none) false
    (fun _ a b c _ _ => (if c != 0 then a else b, 0)) ∧
  (x.type ≠ 5 → Gives (.lea x) (opX 0x01 0x1E x) (planLea x) (affOf x .lea) false
    (fun _ a b c _ _ => (a + b <<< (c.toNat % 32), 0))) ∧
  (x.type ≠ 5 → Gives (.movX x) (opX 0x01 0x1F x) (planMov x) (affOf x .mov) false (fun _ a _ _ _ _ => (a, 0))) ∧
  (x.type ≠ 5 → Gives (.ldi x) (opX 0x01 0x20 x) (planLdi x) .none false
    (fun _ _ _ _ _ _ => ((x.lit.getD 0).extractLsb' 0 32, 0)))

/-- Type 101: IADD, ISUB, LEA, MOV and LDI on pairs of registers, low word first (03 R65, 08 R181, R183). -/
def Obligations.WideFunctions : Prop := ∀ x : XF, x.type = 5 →
  Completes (.iaddX x) (opX 0x01 0x00 x) (planIadd x) (fun c s t =>
    let f := fun (a b : Dword) => BitVec.ofNat 64 (elAdd x 64 a.toNat b.toNat 0)
    Wrote (opX 0x01 0x00 x) (c.wideEff (opX 0x01 0x00 x) [c.tag64 x.a x.apat.toNat, c.tag64 x.b x.bpat.toNat]
      (f (c.wideBase x.a x.apat.toNat) (c.wideBase x.b x.bpat.toNat)) (fun l => f (c.wideA x l) (c.wideB x l))) c s t) ∧
  Completes (.isubX x) (opX 0x01 0x01 x) (planIsub x) (fun c s t =>
    let f := fun (a b : Dword) => BitVec.ofNat 64 (elSub x 64 a.toNat b.toNat 0)
    Wrote (opX 0x01 0x01 x) (c.wideEff (opX 0x01 0x01 x) [c.tag64 x.a x.apat.toNat, c.tag64 x.b x.bpat.toNat]
      (f (c.wideBase x.a x.apat.toNat) (c.wideBase x.b x.bpat.toNat)) (fun l => f (c.wideA x l) (c.wideB x l))) c s t) ∧
  Completes (.lea x) (opX 0x01 0x1E x) (planLea x) (fun c s t =>
    let o := opX 0x01 0x1E x
    let f := fun (a : Dword) (b k : Word) => a + (if unsBit x then b.zeroExtend 64 else b.signExtend 64) <<< (k.toNat % 32)
    Wrote o (c.wideEff o [c.tag64 x.a x.apat.toNat, (c.towards x.b c.immB (c.shapeB o.sig x)).tag, (c.towards x.c c.immC (c.shapeC x)).tag]
      (f (c.wideBase x.a x.apat.toNat) (c.shapeB o.sig x).base (c.shapeC x).base)
      (fun l => f (c.wideA x l) (c.opB o.sig x l) (c.opC x l))) c s t) ∧
  Completes (.movX x) (opX 0x01 0x1F x) (planMov x) (fun c s t =>
    let half := fun (k : Byte) => if clsOf x.a == .vz then ({ tag := .u } : Shape) else c.shapeOp k x.apat.toNat .zero 0
    Wrote (opX 0x01 0x1F x) { dsts := pairDests x.d (c.wideA x) (half x.a) (half (succCode x.a)), next := c.next } c s t) ∧
  Completes (.ldi x) (opX 0x01 0x20 x) (planLdi x) (fun c s t =>
    Wrote (opX 0x01 0x20 x) (c.wideEff (opX 0x01 0x20 x) [] (x.lit.getD 0) (fun _ => x.lit.getD 0)) c s t)

/-- Integer results on 32-bit elements without SAT are the machine arithmetic of 32-bit words; a function of packed
elements acts on each element alone, element 0 in the least significant bits, and sets no sticky flag; SAT clamps an
exact result to the range of its width and signedness (08 R177, R178, R181; 04 R84; 00 R4). -/
def Obligations.IntegerArithmetic : Prop :=
  (∀ (x : XF) (a b c d : Word) (l : Nat), x.type = 0 → satBit x = false →
   (opIadd x a b c d l).1 = a + b ∧ (opIsub x a b c d l).1 = a - b ∧ (opImul x a b c d l).1 = a * b
     ∧ (opImad x a b c d l).1 = a * b + c ∧ (opIneg x a b c d l).1 = -a
     ∧ (opIaddc x a b c d l).1 = (if 2 ^ 32 ≤ a.toNat + b.toNat + c.toNat % 2 then 1 else 0)
     ∧ (opShl x a b c d l).1 = a <<< b.toNat ∧ (opShr x a b c d l).1 = a >>> b.toNat
     ∧ (opSar x a b c d l).1 = a.sshiftRight b.toNat
     ∧ (unsBit x = true → (opImin x a b c d l).1 = if b.ult a then b else a)
     ∧ (unsBit x = false → (opImin x a b c d l).1 = if b.slt a then b else a)
     ∧ (unsBit x = true → (opImax x a b c d l).1 = if a.ult b then b else a)
     ∧ (unsBit x = false → (opImax x a b c d l).1 = if a.slt b then b else a)) ∧
  (∀ (x : XF) (f : Nat → Nat → Nat → Nat → Nat) (a b c d : Word) (l e : Nat),
   let w := typeWidth x.type.toNat
   e < 32 / w →
     bits (intOp x f a b c d l).1.toNat (e * w) w
       = f w (bits a.toNat (e * w) w) (bits b.toNat (e * w) w) (bits c.toNat (e * w) w) % 2 ^ w
     ∧ (intOp x f a b c d l).2 = 0) ∧
  (∀ (x : XF) (w : Nat) (i : Int), 0 < w → satBit x = true →
   (unsBit x = true → (intRes x w i : Int) = max 0 (min i (2 ^ w - 1))) ∧
   (unsBit x = false → sx w (intRes x w i) = max (-(2 ^ (w - 1))) (min i (2 ^ (w - 1) - 1))))

/-! ## Floating point, conversion, dot products (08 R184 to R193) -/

/-- The FLT family of the X form: each executing lane takes the function of Table 8.3 in the format of its type. -/
def Obligations.FloatFunctions : Prop := ∀ x : XF,
  let m := x.round.toNat
  Gives (.faddX x) (opX 0x02 0x00 x) (planFadd x) .none false (fun c => fltOp (c.fltFmt x) m (fun f mode a b _ =>
    Fp.roundSum f mode [Fp.decode f a, Fp.decode f b])) ∧
  Gives (.fsubX x) (opX 0x02 0x01 x) (planFsub x) .none false (fun c => fltOp (c.fltFmt x) m (fun f mode a b _ =>
    Fp.roundSum f mode [Fp.decode f a, (Fp.decode f b).negate])) ∧
  Gives (.fmulX x) (opX 0x02 0x02 x) (planFmul x) .none false (fun c => fltOp (c.fltFmt x) m (fun f mode a b _ =>
    Fp.roundVal f mode 0 (Fp.mul (Fp.decode f a) (Fp.decode f b)))) ∧
  Gives (.ffmaX x) (opX 0x02 0x03 x) (planFfma x) .none false (fun c => fltOp (c.fltFmt x) m (fun f mode a b k =>
    Fp.roundSum f mode [Fp.mul (Fp.decode f a) (Fp.decode f b), Fp.decode f k])) ∧
  Gives (.fminX x) (opX 0x02 0x04 x) (planFmin x) .none false (fun c => fltOp (c.fltFmt x) m elFmin) ∧
  Gives (.fmaxX x) (opX 0x02 0x05 x) (planFmax x) .none false (fun c => fltOp (c.fltFmt x) m elFmax) ∧
  Gives (.fabs x) (opX 0x02 0x06 x) (planFabs x) .none false (fun c => fltOp (c.fltFmt x) m elFabs) ∧
  Gives (.fneg x) (opX 0x02 0x07 x) (planFneg x) .none false (fun c => fltOp (c.fltFmt x) m elFneg) ∧
  Gives (.fcmp x) (opX 0x02 0x08 x) (planFcmp x) .none false
    (fun c => fltOp (c.fltFmt x) m (elFcmp (bits x.f.toNat 0 3))) ∧
  Gives (.fsel x) (opX 0x02 0x09 x) (planFsel x) .none false (fun c => fltOp (c.fltFmt x) m elFsel) ∧
  Gives (.fclass x) (opX 0x02 0x0A x) (planFclass x) .none false (fun c => fltOp (c.fltFmt x) m elFclass) ∧
  Gives (.fdiv x) (opX 0x02 0x0B x) (planFdiv x) .none false (fun _ a b _ _ _ =>
    let r := Fp.div Fp.fp32 m (Fp.val32 a) (Fp.val32 b)
    (BitVec.ofNat 32 r.1, r.2)) ∧
  Gives (.fsqrt x) (opX 0x02 0x0C x) (planFsqrt x) .none false (fun _ => oneOp (Fp.sqrt Fp.fp32 m)) ∧
  Gives (.frcp x) (opX 0x02 0x0D x) (planFrcp x) .none false (fun _ => oneOp (Fp.div Fp.fp32 m (.fin false 1 0))) ∧
  Gives (.frsq x) (opX 0x02 0x0E x) (planFrsq x) .none false (fun _ => oneOp (Fp.rsqrt Fp.fp32 m)) ∧
  Gives (.fexp2 x) (opX 0x02 0x0F x) (planFexp2 x) .none false (fun _ => oneOp Fp.exp2) ∧
  Gives (.flog2 x) (opX 0x02 0x10 x) (planFlog2 x) .none false (fun _ => oneOp Fp.log2) ∧
  Gives (.fsinpi x) (opX 0x02 0x11 x) (planFsinpi x) .none false (fun _ => oneOp Fp.sinpi) ∧
  Gives (.fcospi x) (opX 0x02 0x12 x) (planFcospi x) .none false (fun _ => oneOp Fp.cospi) ∧
  Gives (.ftanh x) (opX 0x02 0x13 x) (planFtanh x) .none false (fun _ => oneOp Fp.tanh) ∧
  Gives (.fscale x) (opX 0x02 0x14 x) (planFscale x) .none false (fun _ a b _ _ _ =>
    let r := Fp.roundVal Fp.fp32 m 0 (scaleVal (Fp.val32 a) b.toInt)
    (BitVec.ofNat 32 r.1, r.2))

/-- The CVT and DOT families. A conversion to narrower elements takes those of A, then those of B; SR takes its random words
from the registers sC to sC+3, or sB to sB+3 of PACKN. -/
def Obligations.ConversionAndDotFunctions : Prop := ∀ x : XF,
  let m := x.round.toNat
  let sr := x.round == 4
  (bits x.f.toNat 4 4 ≠ 11 → Gives (.cvt x) (opX 0x03 0x00 x) (planCvt x) .none sr (fun c a b _ _ l =>
    convert (cvtWidth (bits x.f.toNat 4 4)) (cvtWidth (bits x.f.toNat 0 4)) (fun e n =>
      cvtElem (bits x.f.toNat 4 4) (bits x.f.toNat 0 4) m (laneRand (if sr then c.srWord x.c else 0) l e) n) a b)) ∧
  (bits x.f.toNat 4 4 = 11 → Gives (.cvt x) (opX 0x03 0x00 x) (planCvt x) .none false (fun _ a _ _ _ _ => (unitWord a, 0))) ∧
  Gives (.cvtn x) (opX 0x03 0x01 x) (planCvtn x) .none sr (fun c => c.cvtnOp x) ∧
  Gives (.packn x) (opX 0x03 0x02 x) (planPackn x) .none sr (fun c => c.packnOp x) ∧
  Gives (.unpackn x) (opX 0x03 0x03 x) (planUnpackn x) .none false (fun c => c.unpacknOp x) ∧
  Gives (.scaleb x) (opX 0x03 0x04 x) (planScaleb x) .none false (fun _ a b _ _ _ =>
    let f := Fp.stdFmt (bits x.f.toNat 0 2)
    fltElems f.wid (fun n _ _ => Fp.roundVal f m 0 (scaledBy (Fp.decode f n) (bits b.toNat 0 8))) a 0 0) ∧
  Gives (.idp2 x) (opX 0x04 0x00 x) (planIdp2 x) .none false (fun _ => opIdp 16 x.f) ∧
  Gives (.idp4X x) (opX 0x04 0x01 x) (planIdp4 x) .none false (fun _ => opIdp 8 x.f) ∧
  Gives (.idp8X x) (opX 0x04 0x02 x) (planIdp8 x) .none false (fun _ => opIdp 4 x.f) ∧
  Gives (.fdp2 x) (opX 0x04 0x03 x) (planFdp2 x) .none false (fun _ a b c _ _ =>
    let f := if bit x.f.toNat 3 then Fp.bf16 else Fp.fp16
    let r := Fp.roundSum Fp.fp32 m (Fp.val32 c ::
      ((elems 16 a).zip (elems 16 b)).map (fun p => Fp.mul (Fp.decode f p.1) (Fp.decode f p.2)))
    (BitVec.ofNat 32 r.1, r.2))

/-! ## Lanes, masks, random words, formats (08 R194 to R201) -/

/-- The XLANE family: the result of a lane from the values of A in the executing lanes; the result has tag G. -/
def Obligations.CrossLaneFunctions : Prop := ∀ x : XF,
  let gives := fun (i : Instr) (func : Nat) (plan : Ctx → State → Plan)
      (f : Ctx → List Nat → (Nat → Word) → Nat → Word × Flags) =>
    Completes i (opX 0x05 func x) plan (fun c s t =>
      let lanes := lanesOf c.n (c.exec x.mask.toNat)
      let a := fun l => c.opA (opX 0x05 func x).sig x l
      Wrote (opX 0x05 func x) { dsts := [{ code := x.d, val := fun l => (f c lanes a l).1, shape := { tag := .g } }]
                                flags := orFlags (lanes.map (fun l => (f c lanes a l).2)), next := c.next } c s t)
  gives (.perm x) 0x00 (planPerm x) (fun c _ a l => (a ((c.opB (opX 0x05 0x00 x).sig x l).toNat % c.n), 0)) ∧
  gives (.redux x) 0x01 (planRedux x) (fun _ lanes a _ => reduxTotal (bits x.f.toNat 0 4) x.round.toNat (lanes.map a)) ∧
  gives (.scan x) 0x02 (planScan x) (fun _ lanes a l => reduxTotal (bits x.f.toNat 0 4) x.round.toNat
    ((lanes.filter (fun j => j < l || (j == l && !bit x.f.toNat 4))).map a)) ∧
  (bits x.f.toNat 0 2 ≠ 2 → gives (.vote x) 0x03 (planVote x) (fun _ lanes a _ =>
    (if (match bits x.f.toNat 0 2 with
      | 0 => lanes.all (fun l => a l != 0)
      | 1 => lanes.any (fun l => a l != 0)
      | _ => lanes.all (fun l => a l == a (lanes.headD 0))) then 1 else 0, 0))) ∧
  gives (.matchLanes x) 0x04 (planMatch x)
    (fun _ lanes a l => (BitVec.ofNat 32 ((lanes.find? (fun j => a j == a l)).getD l), 0)) ∧
  (bits x.f.toNat 0 2 = 2 → Completes (.vote x) (opX 0x05 0x03 x) (planVote x) (fun c s t =>
    let m := maskOf c.n (fun l => laneBit (c.exec x.mask.toNat) l && c.opA (opX 0x05 0x03 x).sig x l != 0)
    Wrote (opX 0x05 0x03 x) { dsts := pairDests x.d (fun _ => m) { tag := .g } { tag := .g }, next := c.next } c s t))

/-- The MASK family: the new value of a k register, bits from W up never set and k0 never written; KPOP and KFFS give one
word with tag U (R198, R199). That KMOV reads vz as zero is the model's choice of log entry 28. -/
def Obligations.MaskFunctions : Prop := ∀ x : XF,
  let gives := fun (i : Instr) (func : Nat) (plan : Ctx → State → Plan) (m : Ctx → Mask) =>
    Completes i (opX 0x06 func x) plan (fun c s t => Wrote (opX 0x06 func x)
      { masks := fun ks => kWrite ks c.n (kNum x.d) (m c) none, next := c.next } c s t)
  let lanes := clsOf x.a ≠ .k ∧ clsOf x.a ≠ .s ∧ clsOf x.a ≠ .vz
  gives (.kand x) 0x00 (planKand x) (fun c => c.kVal x.a &&& c.kVal x.b) ∧
  gives (.kor x) 0x01 (planKor x) (fun c => c.kVal x.a ||| c.kVal x.b) ∧
  gives (.kxor x) 0x02 (planKxor x) (fun c => c.kVal x.a ^^^ c.kVal x.b) ∧
  gives (.knot x) 0x03 (planKnot x) (fun c => ~~~(c.kVal x.a)) ∧
  gives (.kset x) 0x07 (planKset x) (fun _ => x.lit.getD 0) ∧
  (clsOf x.d = .k → lanes → gives (.kmov x) 0x04 (planKmov x) (fun c =>
    maskOf c.n (fun l => laneBit (c.exec x.mask.toNat) l && c.opA (opX 0x06 0x04 x).sig x l != 0))) ∧
  (clsOf x.d = .k → clsOf x.a = .k → gives (.kmov x) 0x04 (planKmov x) (fun c => c.kVal x.a)) ∧
  (clsOf x.d = .k → (clsOf x.a = .s ∨ clsOf x.a = .vz) → gives (.kmov x) 0x04 (planKmov x) (fun c => c.read64 x.a 0 0 0)) ∧
  (clsOf x.d = .s → clsOf x.a = .k → x.wmode ≠ 2 → Completes (.kmov x) (opX 0x06 0x04 x) (planKmov x) (fun c s t =>
    Wrote (opX 0x06 0x04 x) { dsts := pairDests x.d (fun _ => c.kVal x.a) { tag := .u, base := loWord (c.kVal x.a) }
                                { tag := .u, base := hiWord (c.kVal x.a) }, next := c.next } c s t)) ∧
  Gives (.kpop x) (opX 0x06 0x05 x) (planKpop x) .none false
    (fun c _ _ _ _ _ => (BitVec.ofNat 32 (popMask (c.kVal x.a)), 0)) ∧
  Gives (.kffs x) (opX 0x06 0x06 x) (planKffs x) .none false
    (fun c _ _ _ _ _ => (if c.kVal x.a == 0 then 0xFFFFFFFF else BitVec.ofNat 32 (lowLane (c.kVal x.a)), 0))

/-- RAND writes its four words to D to D+3; FMTSET writes a format register and FMTGET reads one (R200, R201). That FMTSET
takes any C whose tag is U is the model's choice of log entry 24. -/
def Obligations.RandomAndFormatFunctions : Prop := ∀ x : XF,
  Completes (.rand x) (opX 0x10 0x00 x) (planRand x) (fun c s t =>
    let words := fun (l : Nat) =>
      rand4 (loWord (c.wideA x l)) (hiWord (c.wideA x l)) (loWord (c.wideB x l) + if bit x.f.toNat 0 then BitVec.ofNat 32 l else 0)
        (hiWord (c.wideB x l))
    let key := c.wideBase x.a x.apat.toNat
    let base := c.wideBase x.b x.bpat.toNat
    let whole := rand4 (loWord key) (hiWord key) (loWord base) (hiWord base)
    let tag := if c.tag64 x.a x.apat.toNat = .u ∧ c.tag64 x.b x.bpat.toNat = .u ∧ bit x.f.toNat 0 = false then Tag.u else .g
    Wrote (opX 0x10 0x00 x)
      { dsts := (List.range 4).map (fun i => { code := x.d + BitVec.ofNat 8 i, val := fun l => (words l).getD i 0
                                               shape := { tag := tag, base := whole.getD i 0 } }), next := c.next } c s t) ∧
  Completes (.fmtset x) (opX 0x11 0x00 x) (planFmtset x) (fun c s t =>
    Wrote (opX 0x11 0x00 x)
      { group := fun g => { g with fmt := setPad g.fmt (bits x.f.toNat 0 3) (c.shapeC x).base 0 }, next := c.next } c s t) ∧
  Gives (.fmtget x) (opX 0x11 0x01 x) (planFmtget x) .none false
    (fun c _ _ _ _ _ => (c.group.fmt.getD (bits x.f.toNat 0 3) 0, 0))

/-! ## The B form, the BL form and PFX (07 R153 to R157, 08 R179, R180) -/

/-- Every compute major of the B form gives the results of its X-form function with its fields (Table 8.1). -/
def Obligations.ShortForms : Prop :=
  ∀ (d a b : Byte) (n : BitVec 5) (i : BitVec 16) (f : BitVec 3),
  MajorGives (.iadd d a b) 0x01 b (majorOp 0x01 d a b) ∧
  MajorGives (.isub d a b) 0x02 b (majorOp 0x02 d a b) ∧
  MajorGives (.imul d a b) 0x03 b (majorOp 0x03 d a b) ∧
  MajorGives (.imad d a b) 0x04 b (majorOp 0x04 d a b) ∧
  MajorGives (.and d a b) 0x05 b (majorOp 0x05 d a b) ∧
  MajorGives (.or d a b) 0x06 b (majorOp 0x06 d a b) ∧
  MajorGives (.xor d a b) 0x07 b (majorOp 0x07 d a b) ∧
  MajorGives (.shl d a b) 0x08 b (majorOp 0x08 d a b) ∧
  MajorGives (.shr d a b) 0x09 b (majorOp 0x09 d a b) ∧
  MajorGives (.sar d a b) 0x0A b (majorOp 0x0A d a b) ∧
  MajorGives (.imin d a b) 0x0B b (majorOp 0x0B d a b) ∧
  MajorGives (.imax d a b) 0x0C b (majorOp 0x0C d a b) ∧
  MajorGives (.iaddi d a b) 0x0D b (majorOp 0x0D d a b) ∧
  MajorGives (.shli d a n) 0x0E (n.zeroExtend 8) (majorOp 0x0E d a (n.zeroExtend 8)) ∧
  MajorGives (.shri d a n) 0x0F (n.zeroExtend 8) (majorOp 0x0F d a (n.zeroExtend 8)) ∧
  MajorGives (.sari d a n) 0x10 (n.zeroExtend 8) (majorOp 0x10 d a (n.zeroExtend 8)) ∧
  MajorGives (.andi d a b) 0x11 b (majorOp 0x11 d a b) ∧
  MajorGives (.movi d i) 0x12 (i.extractLsb' 0 8) (majorOp 0x12 d (i.extractLsb' 8 8) (i.extractLsb' 0 8)) ∧
  MajorGives (.mov d a) 0x13 0 (majorOp 0x13 d a 0) ∧
  MajorGives (.fadd d a b) 0x14 b (majorOp 0x14 d a b) ∧
  MajorGives (.fsub d a b) 0x15 b (majorOp 0x15 d a b) ∧
  MajorGives (.fmul d a b) 0x16 b (majorOp 0x16 d a b) ∧
  MajorGives (.ffma d a b) 0x17 b (majorOp 0x17 d a b) ∧
  MajorGives (.fmin d a b) 0x18 b (majorOp 0x18 d a b) ∧
  MajorGives (.fmax d a b) 0x19 b (majorOp 0x19 d a b) ∧
  MajorGives (.hadd2 d a b) 0x1A b (majorOp 0x1A d a b) ∧
  MajorGives (.hmul2 d a b) 0x1B b (majorOp 0x1B d a b) ∧
  MajorGives (.hfma2 d a b) 0x1C b (majorOp 0x1C d a b) ∧
  MajorGives (.bfma2 d a b) 0x1D b (majorOp 0x1D d a b) ∧
  MajorGives (.idp4 d a b) 0x1E b (majorOp 0x1E d a b) ∧
  MajorGives (.idp8 d a b) 0x1F b (majorOp 0x1F d a b) ∧
  MajorGives (.sfu d a f) 0x20 (f.zeroExtend 8) (majorOp 0x20 d a (f.zeroExtend 8))

/-- Every compute major of the BL form gives the results of its B form with the literal in place of C; MOV gives the literal
(07 R156); and PFX gives the results of the word after it under its mask, write mode, rounding and addend (R157). -/
def Obligations.LiteralAndPrefixedForms : Prop :=
  (∀ (d a : Byte) (lit : Dword),
    MajorGives (.iaddBl d a lit) 0x01 0 (majorOpBL 0x01 d a lit) ∧
    MajorGives (.isubBl d a lit) 0x02 0 (majorOpBL 0x02 d a lit) ∧
    MajorGives (.imulBl d a lit) 0x03 0 (majorOpBL 0x03 d a lit) ∧
    MajorGives (.imadBl d a lit) 0x04 0 (majorOpBL 0x04 d a lit) ∧
    MajorGives (.andBl d a lit) 0x05 0 (majorOpBL 0x05 d a lit) ∧
    MajorGives (.orBl d a lit) 0x06 0 (majorOpBL 0x06 d a lit) ∧
    MajorGives (.xorBl d a lit) 0x07 0 (majorOpBL 0x07 d a lit) ∧
    MajorGives (.shlBl d a lit) 0x08 0 (majorOpBL 0x08 d a lit) ∧
    MajorGives (.shrBl d a lit) 0x09 0 (majorOpBL 0x09 d a lit) ∧
    MajorGives (.sarBl d a lit) 0x0A 0 (majorOpBL 0x0A d a lit) ∧
    MajorGives (.iminBl d a lit) 0x0B 0 (majorOpBL 0x0B d a lit) ∧
    MajorGives (.imaxBl d a lit) 0x0C 0 (majorOpBL 0x0C d a lit) ∧
    MajorGives (.faddBl d a lit) 0x14 0 (majorOpBL 0x14 d a lit) ∧
    MajorGives (.fsubBl d a lit) 0x15 0 (majorOpBL 0x15 d a lit) ∧
    MajorGives (.fmulBl d a lit) 0x16 0 (majorOpBL 0x16 d a lit) ∧
    MajorGives (.ffmaBl d a lit) 0x17 0 (majorOpBL 0x17 d a lit) ∧
    MajorGives (.fminBl d a lit) 0x18 0 (majorOpBL 0x18 d a lit) ∧
    MajorGives (.fmaxBl d a lit) 0x19 0 (majorOpBL 0x19 d a lit) ∧
    Gives (.movBl d lit)
      { family := 0x01, func := 0x20, x := { d := d, wmode := bMode d, lit := some lit }, len := 3
        bad := illegalBL (wordBL 0x13 d 0) lit, prompt := true }
      (planLdi { d := d, wmode := bMode d, lit := some lit }) .none false
      (fun _ _ _ _ _ _ => (lit.extractLsb' 0 32, 0))) ∧
  (∀ (m : BitVec 4) (w : BitVec 2) (r : BitVec 3) (f : Byte) (next : Word), pfxNextOk next = true →
    MajorGives (.pfx m w r f next) (bits next.toNat 24 6) (next.extractLsb' 0 8) (pfxOp m w r f next))

/-! ## Control flow (09 R206 to R213, R370; 02 R43 to R48) -/

/-- BRA goes to its target when its condition holds and otherwise falls through; BRD sends the lanes of its mask to the
target and the others on; JMPI goes where its pair says. The k0 of the B form is always true. NOP and PREF have no
effect: the path goes on. -/
def Obligations.BranchesAndNops : Prop :=
  ((∀ off : BitVec 24, let o := opB (wordOff 0x25 off) 0x07 0x00 { a := 0xE0 }
     Completes (.bra off) o (planBra o.x (off24 off)) (fun c s t => Wrote o { next := c.pc + off24 off * 4 } c s t)) ∧
   (∀ lit : Dword, let o : Op := { family := 0x07, func := 0x00, x := { a := 0xE0 }, len := 3
                                   bad := illegalBL (wordBL 0x25 0 0) lit, prompt := true }
     Completes (.braBl lit) o (planBra o.x lit) (fun c s t => Wrote o { next := c.pc + lit * 4 } c s t)) ∧
   ∀ x : XF,
   Completes (.braX x) (opX 0x07 0x00 x) (planBra x (x.lit.getD 0)) (fun c s t =>
     Wrote (opX 0x07 0x00 x)
       { next := if c.condAt x.a (lowLane c.path.mask) then c.pc + x.lit.getD 0 * 4 else c.next } c s t) ∧
   Completes (.brd x) (opX 0x07 0x01 x) (planBrd x) (fun c s t =>
     let take := c.path.mask &&& c.kVal x.a
     let stay := c.path.mask &&& ~~~(c.kVal x.a)
     Left (opX 0x07 0x01 x) { next := c.next } c s t
       ∧ (take ≠ 0 → ({ pc := c.pc + x.lit.getD 0 * 4, mask := take } : Path) ∈ t.pathsOf c)
       ∧ (stay ≠ 0 → ({ pc := c.next, mask := stay } : Path) ∈ t.pathsOf c)) ∧
   Completes (.jmpi x) (opX 0x07 0x02 x) (planJmpi x) (fun c s t =>
     Wrote (opX 0x07 0x02 x) { next := c.read64 x.a 0 0 (lowLane c.path.mask) } c s t)) ∧
  (∀ x : XF,
   Completes (.nop x) (opX 0x07 0x0B x) planNop (fun c s t => Wrote (opX 0x07 0x0B x) { next := c.next } c s t) ∧
   Completes (.pref x) (opX 0x09 0x05 x) planPref (fun c s t => Wrote (opX 0x09 0x05 x) { next := c.next } c s t))

/-- CALL and CALLI keep the address after them, the first 16 deep in the group and the others in the overflow area; RET
goes back to the latest (R209, R77). -/
def Obligations.CallsAndReturns : Prop :=
  let calls := fun (i : Instr) (o : Op) (plan : Ctx → State → Plan) (target : Ctx → Dword) =>
    Completes i o plan (fun c s t =>
      (c.group.depth < 16 → Wrote o
        { group := fun g => { g with depth := c.group.depth + 1, stack := g.stack.take c.group.depth ++ [c.next] }
          next := target c } c s t) ∧
      (16 ≤ c.group.depth → t.goesOn c (target c) ∧ (t.group? c.ref).map (·.depth) = some (c.group.depth + 1)
        ∧ ∀ key, (c.start o s).vaLoc c.launch (c.stackAddr c.group.depth) 8 2 = .ok { space := .phys, addr := key } →
          cellReads t.mem key 8 = leBytes c.next.toNat 8
            ∧ (c.group.st.all (·.done) → (∀ k l, t.seen c k l = s.seen c k l)
              ∧ ∀ a, a < key ∨ key + 8 ≤ a → cellRead t.mem a = cellRead s.mem a)))
  let rets := fun (i : Instr) (o : Op) => Completes i o planRet (fun c s t =>
    let pc : Dword := if c.group.depth ≤ 16 then c.group.stack.getD (c.group.depth - 1) 0
      else match (c.start o s).vaLoc c.launch (c.stackAddr (c.group.depth - 1)) 8 1 with
        | .ok l => BitVec.ofNat 64 (leNat ((l.span 8).map ((c.start o s).readFor c.group)))
        | .error _ => 0
    Wrote o { group := fun g => { g with depth := c.group.depth - 1, stack := g.stack.take (c.group.depth - 1) }
              next := pc } c s t)
  (∀ off : BitVec 24, calls (.call off) (opB (wordOff 0x26 off) 0x07 0x03 {})
    (fun c => planCall (c.target (off24 off)) none .ok c) (fun c => c.pc + off24 off * 4)) ∧
  (∀ lit : Dword, calls (.callBl lit)
    { family := 0x07, func := 0x03, x := {}, len := 3, bad := illegalBL (wordBL 0x26 0 0) lit }
    (fun c => planCall (c.target lit) none .ok c) (fun c => c.pc + lit * 4)) ∧
  (∀ x : XF, calls (.callX x) (opX 0x07 0x03 x) (fun c => planCall (c.target (x.lit.getD 0)) none .ok c)
    (fun c => c.pc + x.lit.getD 0 * 4)) ∧
  (∀ x : XF, calls (.calli x) (opX 0x07 0x04 x)
    (fun c => planCall (c.pairTarget x.a) (c.pairUniform x.a c.path.mask) (c.pcAlign (c.pairTarget x.a)) c)
    (fun c => c.read64 x.a 0 0 (lowLane c.path.mask))) ∧
  rets .ret (opB (wordB 0x27 0 0 0) 0x07 0x05 {}) ∧
  ∀ x : XF, rets (.retX x) (opX 0x07 0x05 x)

/-- SPLIT keeps the path's lanes in a mask with the return depth. At a JOIN the path parks; when every lane of the mask is
parked or gone, the lanes parked there go on together; a group left with parked lanes only stops with the successor (R45,
R46, R210). -/
def Obligations.SplitsAndJoins : Prop :=
  let splits := fun (i : Instr) (o : Op) => Completes i o (planSplit o.x) (fun c s t =>
    Wrote o { masks := fun ks => kWrite ks c.n (kNum o.x.d) c.path.mask (if c.inRope then none else some c.group.depth)
              next := c.next } c s t)
  let joins := fun (i : Instr) (o : Op) (place : Nat × Nat) => Completes i o (planJoin o.x place) (fun c s t =>
    let parked := replacePath c.paths c.path
      [{ c.path with join := some { k := kNum o.x.a, succ := o.x.d, next := c.next } }]
    (readyJoin parked c.gone (kMask c.ks c.n) = none → (runPath parked).isSome →
      t.pathsOf c = parked ∧ (∀ k l, t.seen c k l = s.seen c k l) ∧ t.masksOf c = s.masksOf c ∧ t.mem = s.mem) ∧
    (∀ p j, readyJoin parked c.gone (kMask c.ks c.n) = some p → p.join = some j →
      readyJoin (fuse parked p.pc j.next) c.gone (kMask c.ks c.n) = none → (runPath (fuse parked p.pc j.next)).isSome →
      t.pathsOf c = fuse parked p.pc j.next ∧ (∀ k l, t.seen c k l = s.seen c k l) ∧ t.masksOf c = s.masksOf c
        ∧ t.mem = s.mem) ∧
    (readyJoin parked c.gone (kMask c.ks c.n) = none → runPath parked = none → c.inRope = false →
      Hands c (c.Stands .join .waiting) ((c.successor o.x.d).getD 0x21) s t))
  (∀ k : BitVec 4, splits (.split k) (opB (wordB 0x2C (k.zeroExtend 8) 0 0) 0x07 0x06 { d := kCode k })) ∧
  (∀ x : XF, splits (.splitX x) (opX 0x07 0x06 x)) ∧
  (∀ (k : BitVec 4) (succ : Byte), joins (.join k succ)
    (opB (wordB 0x2B (k.zeroExtend 8) 0 succ) 0x07 0x07 { d := succ, a := kCode k }
      (fun e => if e = (0, 8) then (0, 16) else if e = (0, 16) then (0, 0) else e)) (0, 0)) ∧
  (∀ x : XF, joins (.joinX x) (opX 0x07 0x07 x) (0, 16))

/-- EXIT makes the executing lanes dead. A group whose last live lane is dead is EXITED and holds no baton; otherwise the
path's other lanes go on, and no register changes (R211). -/
def Obligations.Exits : Prop :=
  let exits := fun (i : Instr) (o : Op) => Completes i o (planExit o.x) (fun c s t =>
    let exec := c.exec o.x.mask.toNat
    let stay := c.path.mask &&& ~~~exec
    ∃ g, t.group? c.ref = some g ∧ g.live = c.live &&& ~~~exec ∧ (∀ k l, clsOf k ≠ .h → t.seen c k l = s.seen c k l) ∧
      (c.live &&& ~~~exec = 0 → g.state = .exited ∧ g.slot = none ∧ g.paths = []) ∧
      (stay ≠ 0 → c.live &&& ~~~exec ≠ 0 → c.inRope = false → ({ pc := c.next, mask := stay } : Path) ∈ g.paths))
  exits .exit (opB (wordB 0x28 0 0 0) 0x07 0x08 {}) ∧ ∀ x : XF, exits (.exitX x) (opX 0x07 0x08 x)

/-- TRAP always faults with TRAP and INNER F; BRK faults with BREAK when no debug right is held, and otherwise halts the group
before the next instruction; an encoding that no rule defines faults with its word and bit (R212, R370, R151). -/
def Obligations.Traps : Prop :=
  (∀ (x : XF) (s : State) (c : Ctx), (opX 0x07 0x09 x).issuer s = some c →
    Clear (opX 0x07 0x09 x) (planTrap x c (c.start (opX 0x07 0x09 x) s)) c →
    exec (.trap x) s = .next (takeFault c { code := 0x12, inner := x.f.toNat, lanes := c.path.mask } s)) ∧
  (∀ (x : XF) (s : State) (c : Ctx), (opX 0x07 0x0A x).issuer s = some c → s.right? c.ref.launch = none →
    Clear (opX 0x07 0x0A x) (planBrk x c (c.start (opX 0x07 0x0A x) s)) c →
    exec (.brk x) s = .next (takeFault c { code := 0x13, inner := x.f.toNat, lanes := c.path.mask } s)) ∧
  (∀ x : XF, Completes (.brk x) (opX 0x07 0x0A x) (planBrk x) (fun c s t => (s.right? c.ref.launch).isSome →
    t.goesOn c c.next ∧ (t.group? c.ref).map (·.halted) = some true ∧ ∀ k l, t.seen c k l = s.seen c k l)) ∧
  (∀ (w b : Nat) (s : State) (c : Ctx), ctxOf s = some c →
    exec (.illegalEncoding w b) s = .next (takeFault c { code := 0x01, inner := 256 * w + b, lanes := c.path.mask } s))

/-- What taking a fault does (R361, R362): outside a rope the group is FAULTED, holds no baton and has no hold or stop,
its launch is marked, and its lanes, registers and masks stay; with a debug right it can be resumed at the PC of the
fault. A debugger that releases a FAULTED group lets it go on, READY, at the PC of its fault with the lanes it had; a
group that has stopped for good stays FAULTED (R355, R362). -/
def Obligations.TakingAndLeavingAFault : Prop :=
  (∀ (s : State) (c : Ctx) (f : FaultInfo), ctxOf s = some c → c.rope = none →
   let t := takeFault c f s
   ∃ g, t.group? c.ref = some g ∧ g.state = .faulted ∧ g.slot = none ∧ g.hold = none ∧ g.stop = none ∧ g.fails = []
     ∧ g.faultPc = c.pc ∧ (g.halted = (s.right? c.ref.launch).isSome) ∧ (g.stopped = (s.right? c.ref.launch).isNone)
     ∧ g.regs = c.group.regs ∧ g.ks = c.group.ks ∧ g.paths = c.group.paths ∧ g.live = c.group.live ∧ g.flags = c.group.flags
     ∧ (t.launch? c.ref.launch).map (·.faulted) = some true
     ∧ ∀ u, u ≠ teamOf c.ref → t.team? u = s.team? u) ∧
  (∀ (g : Group) (p : Path), g.state = .faulted → runPath g.paths = some p →
   (g.stopped = true → g.release = g) ∧
   (g.stopped = false → g.release.state = .ready ∧ g.release.halted = false ∧ g.release.regs = g.regs ∧ g.release.ks = g.ks
     ∧ ({ p with pc := g.faultPc } : Path) ∈ g.release.paths))

/-! ## Batons and waits (02 R33 to R42, 09 R214 to R218) -/

/-- XFER and XFERA write the mail lane for lane, then hand the baton on; the sender is READY and its path goes on, and one
that names itself has its baton and its mail. The alternate receives the baton of an XFERA whose receiver of the mail waits.
BELAY sets the belay register. PARK stops the group with its successor. Delivering a baton (R36): the candidates are the
target and what the belay registers name from there, four hops at most; it lies in the square, for a grant from the next
clock, where a candidate is the square or none of the five takes it; a READY group that it reaches is HOLDING, a WAITING
one HELD-WAITING, and a PARKED one HOLDING where the sender names it; a receiver that becomes HOLDING issues max(2, W/16)
clocks later (R32). -/
def Obligations.BatonTransfers : Prop :=
  (let mails := fun (c : Ctx) (o : Op) (s t : State) =>
     ∀ to_ g, c.successor o.x.d = some to_ → s.group? { c.ref with grp := to_ } = some g →
       g.state ≠ .faulted → g.state ≠ .exited → c.inRope = false →
       let full := fun (k : Byte) (b : Bool) => b && !(to_ == c.ref.grp && (c.reads o).contains k)
       ∃ g', t.group? { c.ref with grp := to_ } = some g' ∧
         (clsOf o.x.a ≠ .vz → (∀ l, l < c.n → (g'.reg 0xC0).at_ .m l = c.read o.x.a l)
           ∧ g'.m0 = { full := true, ovr := g.m0.ovr || full 0xC0 g.m0.full, writer := BitVec.ofNat 8 c.ref.grp }) ∧
         (clsOf o.x.b ≠ .vz → (∀ l, l < c.n → (g'.reg 0xC1).at_ .m l = c.read o.x.b l)
           ∧ g'.m1 = { full := true, ovr := g.m1.ovr || full 0xC1 g.m1.full, writer := BitVec.ofNat 8 c.ref.grp })
   let gives := fun (c : Ctx) (o : Op) (to_ : Nat) (s t : State) =>
     Sends c .ready to_ s t ∧ t.goesOn c c.next ∧ t.rest = s.rest ∧ NoStore s t ∧
     (∀ k l, (k ≠ 0xC0 ∧ k ≠ 0xC1) ∨ c.successor o.x.d ≠ some c.ref.grp → t.seen c k l = s.seen c k l) ∧
     ∀ r, r ≠ c.ref → (teamOf r ≠ teamOf c.ref ∨ r.part ≠ c.ref.part ∨ c.successor o.x.d ≠ some r.grp) →
       (t.group? r).map (·.regs) = (s.group? r).map (·.regs)
   let xfers := fun (i : Instr) (o : Op) => Completes i o (planXfer o.x) (fun c s t =>
     mails c o s t ∧ gives c o ((c.successor o.x.d).getD 0x21) s t)
   (∀ succ a b : Byte, xfers (.xfer succ a b) (opB (wordB 0x29 succ a b) 0x08 0x00 { d := succ, a := a, b := b })) ∧
   ∀ x : XF,
   xfers (.xferX x) (opX 0x08 0x00 x) ∧
   Completes (.xfera x) (opX 0x08 0x01 x) (planXfera x) (fun c s t =>
     let waits := ((c.part.groups[(c.successor x.d).getD 0x21]?).map (fun g => g.state == .waiting)).getD false
     mails c (opX 0x08 0x01 x) s t
       ∧ gives c (opX 0x08 0x01 x) (if waits then (c.successor x.c).getD 0x21 else (c.successor x.d).getD 0x21) s t) ∧
   Completes (.belay x) (opX 0x08 0x02 x) (planBelay x) (fun c s t =>
     let v := if x.d.toNat < 0x40 then x.d.toNat else bits (c.read (x.d + 0x60) 0).toNat 0 8
     Wrote (opX 0x08 0x02 x) { group := fun g => { g with belay := BitVec.ofNat 8 v }, next := c.next } c s t) ∧
   Completes (.park x) (opX 0x08 0x03 x) (planPark x) (fun c s t =>
     let to_ := (c.successor x.d).getD 0x21
     Sends c .parked to_ s t ∧ Hands c (c.Stands .park .parked) to_ s t ∧ t.rest = s.rest ∧ NoStore s t ∧
       ∀ k l, clsOf k ≠ .h → t.seen c k l = s.seen c k l)) ∧
  (∀ (q : Part) (target slot clk w : Nat) (direct : Bool),
   let cand := fun (k : Nat) => Nat.repeat (fun i => ((q.groups[i]?).map (·.belay.toNat)).getD 0x21) k target
   let takes := fun (k : Nat) (g : Group) => q.groups[cand k]? = some g ∧
     (g.state = .ready ∨ g.state = .waiting ∨ (g.state = .parked ∧ direct = true ∧ k = 0))
   let past := fun (k : Nat) => cand k ≠ 0x21 ∧ ∀ g, ¬ takes k g
   let square := deliver q target direct slot clk w = { q with square := q.square ++ [(slot, clk + 1)] }
   (∀ k g, k ≤ 4 → (∀ j, j < k → past j) → cand k ≠ 0x21 → takes k g →
     ∃ g', deliver q target direct slot clk w = { q with groups := q.groups.set (cand k) g' } ∧ g'.slot = some slot ∧
       (g.state = .waiting → g' = { g with state := .heldWaiting, slot := some slot, heldSince := clk }) ∧
       (g.state ≠ .waiting → g'.state = .holding ∧ g'.readyAt = clk + max 2 (w / 16) ∧ g'.regs = g.regs) ∧
       (g.state = .parked → ∀ r p, g.stop = some r → runPath g.paths = some p → p.pc = r.pc →
         g'.stop = none ∧ g'.paths = replacePath g.paths p [{ p with pc := r.next }])) ∧
   (∀ k, k ≤ 4 → (∀ j, j < k → past j) → cand k = 0x21 → square) ∧
   ((∀ k, k ≤ 4 → past k) → square))

/-- WAIT goes on when no class has more operations outstanding than its count and no failure is to surface, faults with the
oldest failure that it covers, noting MORE where it covers others, and stops with its successor otherwise. In the B form a
count of 15 stands for 63, which places no condition (R155, R218). Which failures a WAIT covers is the model's reading of log
entry 38. -/
def Obligations.Waits : Prop :=
  let met := fun (g : Group) (ld st cp tl : Nat) =>
    g.ld.length ≤ ld ∧ g.st.length ≤ st ∧ g.cp.length ≤ cp ∧ g.tl.length ≤ tl
  let waits := fun (i : Instr) (o : Op) (place : Nat × Nat) (ld st cp tl : Nat) =>
    Completes i o (planWait { ld := ld, st := st, cp := cp, tl := tl } o.x.d place) (fun c s t =>
      let covers := fun (f : RetiredFail) => ({ ld := ld, st := st, cp := cp, tl := tl } : Counts).of f.cls < 63
      (met c.group ld st cp tl → (∀ f ∈ c.group.fails, ¬ covers f) → Wrote o { next := c.next } c s t) ∧
      (met c.group ld st cp tl → (∃ f ∈ c.group.fails, covers f) →
        (t.group? c.ref).map (·.state) = some .faulted ∧
        ∃ f ∈ c.group.fails, covers f ∧ (∀ e ∈ c.group.fails, covers e → f.seq ≤ e.seq) ∧
          t = c.done (((c.start o s).modGroup c.ref (fun g => { g with
              fails := c.group.fails.filter (fun e => !decide (covers e)) })).faultGroup c.ref
            { recordOf c.team c.ref f.pc f.info with
              flags := if 1 < (c.group.fails.filter (fun e => decide (covers e))).length then 9 else 1
              secPc := c.pc, unit := failUnit f.cls } c.pc)) ∧
      (¬ met c.group ld st cp tl → Sends c .waiting ((c.successor o.x.d).getD 0x21) s t
        ∧ Hands c (c.Stands (.wait ld st cp tl) .waiting) ((c.successor o.x.d).getD 0x21) s t
        ∧ t.rest = s.rest ∧ NoStore s t ∧ ∀ k l, clsOf k ≠ .h → t.seen c k l = s.seen c k l))
  let n4 := fun (n : BitVec 4) => if n = 15 then 63 else n.toNat
  (∀ (l st c t : BitVec 4) (succ : Byte), waits (.wait l st c t succ)
    (opB (wordB 0x2A (l ++ st) (c ++ t) succ) 0x08 0x04 { d := succ } (fun e => if e = (0, 16) then (0, 0) else e)) (0, 0)
    (n4 l) (n4 st) (n4 c) (n4 t)) ∧
  ∀ x : XF, waits (.waitX x) (opX 0x08 0x04 x) (0, 16)
    (x.a.toNat % 64) (x.b.toNat % 64) (x.c.toNat % 64) (x.f.toNat % 64)

/-! ## Memory (10 R230 to R240, R397; 03 R73, R80) -/

/-- A load joins the group's LD-class operations with what it will deliver to D: for each executing lane the bytes at its
address, the group's own earlier stores first, and in zero mode 0 in the path's other lanes; to an s register one
value with tag U from the lowest executing lane's address. No register, mask, flag or byte of memory changes until the
data arrive (R73, R233, R235, R237). The word that a load delivers: bytes and halves extended by their sign or by
zeros, longer values word by word, least significant byte first (00 R4, Table 10.3). That the value is taken when the load
issues is the model's choice of log entry 10, and that it is never older than performed memory that of log entry 92. -/
def Obligations.Loads : Prop :=
  (let loads := fun (i : Instr) (o : Op) (scratch : Bool) => Completes i o (planLoad scratch o.x) (fun c s t =>
     let s0 := c.start o s
     let n := sizeBytes o.x.f
     let acc := fun (l : Nat) => ({ lane := l, addr := c.named_ scratch o.x l
                                    locs := if scratch then c.scratchPlace s0 o.x l n else c.place s0 (c.ea o.x l) n 1 } : LaneAcc)
     let lanes := lanesOf c.n (c.exec o.x.mask.toNat)
     let zero := if o.x.wmode == 2 then lanesOf c.n (c.path.mask &&& ~~~(c.exec o.x.mask.toNat)) else []
     let codes := sizeCodes o.x.d (bits o.x.f.toNat 0 3)
     (clsOf o.x.d ≠ .s →
       Wrote o { group := c.withLdFrom (c.loadDelivers s0 o.x (lanes.map acc) zero) (wordSrcs codes (lanes.map acc)) scratch
                 next := c.next } c s t) ∧
     (clsOf o.x.d = .s → ∀ l, lanes.head? = some l →
       Wrote o { group := c.withLdFrom (c.uniformDelivers s0 o.x (acc l))
                   (wordSrcs codes (lanes.map (fun k => { acc l with lane := k }))) scratch
                 next := c.next } c s t) ∧
     (clsOf o.x.d = .s → lanes = [] → Wrote o { next := c.next } c s t))
   let b := fun (major func : Nat) (d a i : Byte) =>
     ({ family := 0x09, func := func, x := memB d a true, len := 1, bad := illegalB (wordB major d a i)
        immC := some (simm 8 i.toNat * 4), prompt := major == 0x24 } : Op)
   let bl := fun (major func : Nat) (d a : Byte) (lit : Dword) =>
     ({ family := 0x09, func := func, x := memB d a true, len := 3, bad := illegalBL (wordBL major d a) lit
        immC := some lit } : Op)
   (∀ x : XF, loads (.ld x) (opX 0x09 0x00 x) false ∧ loads (.lds x) (opX 0x09 0x02 x) true) ∧
   (∀ d a i : Byte, loads (.ld32 d a i) (b 0x21 0x00 d a i) false ∧ loads (.lds32 d a i) (b 0x23 0x02 d a i) true) ∧
   ∀ (d a : Byte) (lit : Dword),
     loads (.ld32Bl d a lit) (bl 0x21 0x00 d a lit) false ∧ loads (.lds32Bl d a lit) (bl 0x23 0x02 d a lit) true) ∧
  ((∀ b : Byte, loadWord [b] 1 0 true = b.signExtend 32 ∧ loadWord [b] 1 0 false = b.zeroExtend 32) ∧
   (∀ b0 b1 : Byte, loadWord [b0, b1] 2 0 true = (b1 ++ b0 : BitVec 16).signExtend 32
     ∧ loadWord [b0, b1] 2 0 false = (b1 ++ b0 : BitVec 16).zeroExtend 32) ∧
   ∀ (bs : List Byte) (b0 b1 b2 b3 : Byte) (rest : List Byte) (j : Nat) (sg : Bool), bs.length = 4 * j →
     loadWord (bs ++ b0 :: b1 :: b2 :: b3 :: rest) (4 * (j + 1)) j sg = (b3 ++ b2 ++ b1 ++ b0 : BitVec 32))

/-- A store joins the group's ST-class operations with the bytes that it will write: for each executing lane the low bytes
of D at its address, and for STM the bytes of each executing lane that its mask in B enables in its octet's sector. Memory
is as it was until the store is performed (R112, R235, R237, R238). -/
def Obligations.StoresAtIssue : Prop :=
  let stores := fun (i : Instr) (o : Op) (scratch : Bool) => Completes i o (planStore scratch o.x) (fun c s t =>
    let s0 := c.start o s
    let n := sizeBytes o.x.f
    let as := (lanesOf c.n (c.exec o.x.mask.toNat)).map (fun l =>
      ({ lane := l, addr := c.named_ scratch o.x l
         locs := if scratch then c.scratchPlace s0 o.x l n else c.place s0 (c.ea o.x l) n 2 } : LaneAcc))
    let scope := bits o.x.f.toNat 4 3
    Wrote o { group := c.withSt scope ((as.map (fun a => bytesAt a.get (c.storeBytes o.x a.lane))).flatten)
                         (c.storeIrrevocable scope (as.flatMap LaneAcc.get)), next := c.next } c s t)
  let b := fun (major func : Nat) (d a i : Byte) =>
    ({ family := 0x09, func := func, x := memB d a false, len := 1, bad := illegalB (wordB major d a i)
       immC := some (simm 8 i.toNat * 4), prompt := major == 0x24 } : Op)
  let bl := fun (major func : Nat) (d a : Byte) (lit : Dword) =>
    ({ family := 0x09, func := func, x := memB d a false, len := 3, bad := illegalBL (wordBL major d a) lit
       immC := some lit } : Op)
  (∀ x : XF, stores (.st x) (opX 0x09 0x01 x) false ∧ stores (.sts x) (opX 0x09 0x03 x) true) ∧
  (∀ d a i : Byte, stores (.st32 d a i) (b 0x22 0x01 d a i) false ∧ stores (.sts32 d a i) (b 0x24 0x03 d a i) true) ∧
  (∀ (d a : Byte) (lit : Dword),
    stores (.st32Bl d a lit) (bl 0x22 0x01 d a lit) false ∧ stores (.sts32Bl d a lit) (bl 0x24 0x03 d a lit) true) ∧
  ∀ x : XF, Completes (.stm x) (opX 0x09 0x04 x) (planStm x) (fun c s t =>
    let exec := c.exec x.mask.toNat
    let octs := (List.range ((c.n + 7) / 8)).filter (fun i => (List.range 8).any (fun k => laneBit exec (8 * i + k)))
    let low := fun (i : Nat) => 8 * i + ((List.range 8).find? (fun k => laneBit exec (8 * i + k))).getD 0
    let places := fun (i : Nat) => ({ lane := low i, addr := (c.read64 x.a 0 0 (low i)).toNat
                                      locs := c.place (c.start (opX 0x09 0x04 x) s) (c.read64 x.a 0 0 (low i)) 32 2 } : LaneAcc).get
    let enabled := fun (i k b : Nat) => laneBit exec (8 * i + k) && bit (c.read x.b (8 * i + k)).toNat b
    let bytes := octs.flatMap (fun i => (List.range 8).flatMap (fun k => (List.range 4).filterMap (fun b =>
      if enabled i k b then ((places i)[4 * k + b]?).map (fun p =>
        ({ space := p.space, addr := p.addr, val := wordByte (c.read x.d (8 * i + k)) b } : StoreByte)) else none)))
    let scope := bits x.f.toNat 4 3
    Wrote (opX 0x09 0x04 x) { group := c.withSt scope bytes (c.storeIrrevocable scope (octs.flatMap places)), next := c.next } c s t)

/-- SPILL stores a register's bytes in the packing of its tag and keeps the packing as its spill tag; FILL loads the bytes
of D's spill tag as a whole register. A register whose lanes are declared comes back as it was (R80, R240). -/
def Obligations.SpillAndFill : Prop :=
  (∀ x : XF,
    Completes (.spill x) (opX 0x09 0x06 x) (planSpill x) (fun c s t =>
      let r := c.group.reg x.d
      let p := r.packing c.n
      let marks := fun (ls : List Loc) => ls.zipIdx.filterMap (fun e =>
        ((p.lanesAt c.n e.2).findSome? (c.markAt x.d 0 0)).map (fun m => (e.1.space, e.1.addr, m)))
      ∃ ls, c.runPlaces (c.start (opX 0x09 0x06 x) s) (c.spillAddr x) (p.size c.n) 2 = .ok ls ∧
        (t.group? c.ref).map (fun g => (g.reg x.d).spill) = some p ∧
        Wrote (opX 0x09 0x06 x)
          { group := fun g =>
              let g' := c.withSt 0 (bytesAt ls (r.packed p c.n)) (c.storeIrrevocable 0 ls) g
              { g' with st := g'.st.map (fun o => if o.seq + 1 = g'.nextSeq then { o with marks := marks ls } else o) }
            next := c.next } c s t) ∧
    Completes (.fill x) (opX 0x09 0x07 x) (planFill x) (fun c s t =>
      let s0 := c.start (opX 0x09 0x07 x) s
      let p := (c.group.reg x.d).spill
      ∃ ls, c.runPlaces s0 (c.spillAddr x) (p.size c.n) 1 = .ok ls ∧ ∃ marks : List (Nat × Nat),
        Wrote (opX 0x09 0x07 x)
          { group := c.withLdFrom [.whole x.d ((Reg.unpacked p c.n (clsOf x.d) (ls.map (s0.readFor c.group))).marked marks)]
              (ls.zipIdx.flatMap (fun e => (p.lanesAt c.n e.2).map (fun l => (x.d, l, e.1)))) false
            next := c.next } c s t ∧
        (∀ l m, (l, m) ∈ marks → ∃ q i, ls[i]? = some q ∧ l ∈ p.lanesAt c.n i ∧ s0.poisonFor c.group q = some m) ∧
        (∀ q i l, ls[i]? = some q → l ∈ p.lanesAt c.n i → l < c.n → (s0.poisonFor c.group q).isSome → ∃ m, (l, m) ∈ marks))) ∧
  ∀ (r : Reg) (w : Nat) (cls : Cls), r.lanes.length = w → cls = .v ∨ cls = .m →
    (r.tag = .u → ∀ l, l < w → r.lanes.getD l 0 = r.base) →
    (r.tag = .a → ∀ l, l < w → r.lanes.getD l 0 = r.base + r.stride * BitVec.ofNat 32 l) →
    let q := Reg.unpacked (r.packing w) w cls (r.packed (r.packing w) w)
    q.tag = r.tag ∧ ∀ l, l < w → q.lanes.getD l 0 = r.lanes.getD l 0

/-! ## Atomics, exact cells and synchronization (10 R241 to R249; 04 R101 to R103; 05 R118 to R121) -/

/-- ATOM makes a step for each executing lane, in ascending order, on the memory that the group's earlier stores to those
places have reached; the old values will come back to D. XADD and XCLR make a step on each lane's exact cell, XRD reads it.
A camp falls due (R128, R133, R241 to R243). That the steps act on performed memory in the step in which the instruction
issues is the model's choice of log entry 12, that no more of the operation remains outstanding than its result that of log
entry 43. -/
def Obligations.Atomics : Prop := ∀ x : XF,
  (let o := opX 0x0A 0x00 x
   Completes (.atom x) o (planAtom x) (fun c s t =>
    let s0 := c.start o s
    let exec := c.exec x.mask.toNat
    let op := bits x.f.toNat 0 4
    let wide := bit x.f.toNat 7
    let n := if wide then 8 else 4
    let as := (lanesOf c.n exec).map (fun l => ({ lane := l, addr := (c.read64 x.a 0 0 l).toNat
                                                  locs := c.atomPlace s0 (c.read64 x.a 0 0 l) n (hostOp op) } : LaneAcc))
    let val := fun (k : Byte) (l : Nat) => if wide then (c.read64 k 0 0 l).toNat else (c.read k l).toNat
    let cmp := fun (l : Nat) => match c.immC with
      | some i => if wide then i.toNat else (lowWord i).toNat
      | none => val x.c l
    let s1 := s0.flushFor c.ref (as.flatMap LaneAcc.get)
    let r := atomLanes (teamOf c.ref) (fun l old => leBytes (atomOp op (8 * n) (leNat old) (val x.b l) (cmp l)) n) as s1 []
    let marks := as.map (fun a => (a.lane, a.get.findSome? (s0.poisonFor c.group)))
    let zero := if x.wmode == 2 then
      (lanesOf c.n (c.path.mask &&& ~~~exec)).map (fun l => (l, (0 : Word), (none : Option Nat))) else []
    let words := fun (j : Nat) => r.2.map (fun e =>
      (e.1, BitVec.ofNat 32 (leNat ((e.2.drop (4 * j)).take 4)), lookupD marks e.1 none)) ++ zero
    let ds := if wide then [Deliver.lanes x.d (words 0), .lanes (x.d + 1) (words 1)] else [.lanes x.d (words 0)]
    Stepped o { group := if clsOf x.d = .vz then c.withSt (bits x.f.toNat 4 3) [] false
                  else c.withLdFrom ds (wordSrcs (if wide then [x.d, x.d + 1] else [x.d]) as) false
                next := c.next } c s1 t
      ∧ NoStore r.1 t ∧ t.camps c)) ∧
  (let cells := fun (i : Instr) (o : Op) (plan : Ctx → State → Plan) (f : Ctx → Nat → Cell → Cell) =>
    Completes i o plan (fun c s t =>
      let as := c.cellAccs (c.start o s) x (c.exec x.mask.toNat)
      let s1 := (c.start o s).flushFor c.ref (as.flatMap LaneAcc.get)
      let r := atomLanes (teamOf c.ref) (fun l old => leBytes (f c l (Cell.ofNat (leNat old))).toNat 32) as s1 []
      Stepped o { group := c.withSt (bits x.f.toNat 4 3) [] false, next := c.next } c s1 t ∧ NoStore r.1 t ∧ t.camps c)
   cells (.xadd x) (opX 0x0A 0x01 x) (planXadd x) (fun c l v => v.add (c.cellInput x l)) ∧
   cells (.xclr x) (opX 0x0A 0x03 x) (planXclr x) (fun _ _ _ => Cell.ofNat 0)) ∧
  Completes (.xrd x) (opX 0x0A 0x02 x) (planXrd x) (fun c s t =>
    let o := opX 0x0A 0x02 x
    let as := c.cellAccs (c.start o s) x (c.exec x.mask.toNat)
    let s1 := (c.start o s).flushFor c.ref (as.flatMap LaneAcc.get)
    let vals := as.map (fun a => (a.lane, (Cell.ofNat (leNat (a.get.map s1.readLoc))).read x.round.toNat,
      a.get.findSome? ((c.start o s).poisonFor c.group)))
    let zero := if x.wmode == 2 then (lanesOf c.n (c.path.mask &&& ~~~(c.exec x.mask.toNat))).map
      (fun l => (l, (0 : Word), (none : Option Nat))) else []
    Stepped o { group := c.withLdFrom (if clsOf x.d = .vz then [] else
                  [.lanes x.d (vals.map (fun v => (v.1, v.2.1.1, v.2.2)) ++ zero)]) (wordSrcs [x.d] as) false
                flags := orFlags (vals.map (fun v => v.2.1.2)), next := c.next } c s1 t ∧ NoStore s1 t ∧ t.camps c)

/-- An atomic step replaces the bytes at its places and no others; a later lane of one instruction sees what the earlier
ones have left (R128, R242). What an ATOM operation makes of a 32-bit or 64-bit value (Table 10.4). -/
def Obligations.AtomicStepsAndOperations : Prop :=
  ((∀ (s : State) (t : TeamRef) (key n : Nat) (bs : List Byte), bs.length = n →
     Stores (physSpan key n) bs s (s.atomStep t (physSpan key n) bs)) ∧
   ∀ (s : State) (t : TeamRef) (f : Nat → List Byte → List Byte) (as : List LaneAcc) (a : LaneAcc),
     let r := atomLanes t f as s []
     atomLanes t f (as ++ [a]) s [] = (r.1.atomStep t a.get (f a.lane (a.get.map r.1.readLoc)),
       r.2 ++ [(a.lane, a.get.map r.1.readLoc)])) ∧
  (∀ (w : Nat) (m b k : BitVec w), 0 < w →
   BitVec.ofNat w (atomOp 0 w m.toNat b.toNat k.toNat) = m + b ∧
   BitVec.ofNat w (atomOp 1 w m.toNat b.toNat k.toNat) = m - b ∧
   BitVec.ofNat w (atomOp 2 w m.toNat b.toNat k.toNat) = (if b.slt m then b else m) ∧
   BitVec.ofNat w (atomOp 3 w m.toNat b.toNat k.toNat) = (if m.slt b then b else m) ∧
   BitVec.ofNat w (atomOp 4 w m.toNat b.toNat k.toNat) = (if b.ult m then b else m) ∧
   BitVec.ofNat w (atomOp 5 w m.toNat b.toNat k.toNat) = (if m.ult b then b else m) ∧
   BitVec.ofNat w (atomOp 6 w m.toNat b.toNat k.toNat) = m &&& b ∧
   BitVec.ofNat w (atomOp 7 w m.toNat b.toNat k.toNat) = m ||| b ∧
   BitVec.ofNat w (atomOp 8 w m.toNat b.toNat k.toNat) = m ^^^ b ∧
   BitVec.ofNat w (atomOp 9 w m.toNat b.toNat k.toNat) = b ∧
   BitVec.ofNat w (atomOp 10 w m.toNat b.toNat k.toNat) = (if m = k then b else m))

/-- An exact cell adds exactly: a finite value below 2^97, in units of 2^-149, goes to VALUE modulo 2^248, and WRAP counts
modulo 16 what the sum has lost; infinities, NaNs and larger values set their flag and leave VALUE (R101, R102). A cell that
a number holds is the number's (Table 4.7). -/
def Obligations.ExactCells : Prop :=
  (∀ (k : Cell) (neg : Bool) (m : Nat) (e : Int), k.value < 2 ^ 248 → k.wrap < 16 → -149 ≤ e →
    (m = 0 ∨ Fp.topExp m e < 97) →
    let u : Int := (if neg then -1 else 1) * (m * 2 ^ (e + 149).toNat)
    let r := k.add (.fin neg m e)
    (r.value : Int) = (k.signed + u) % 2 ^ 248 ∧ (∃ z : Int, (r.wrap : Int) = (k.wrap + z) % 16 ∧ r.signed + z * 2 ^ 248 = k.signed + u)
      ∧ r.nan = k.nan ∧ r.ninf = k.ninf ∧ r.pinf = k.pinf ∧ r.ovf = k.ovf) ∧
  (∀ (k : Cell) (q : Bool), k.add (.nan q) = { k with nan := true }) ∧
  (∀ k : Cell, k.add (.inf true) = { k with ninf := true } ∧ k.add (.inf false) = { k with pinf := true }) ∧
  (∀ (k : Cell) (neg : Bool) (m : Nat) (e : Int), m ≠ 0 → 97 ≤ Fp.topExp m e → k.add (.fin neg m e) = { k with ovf := true }) ∧
  (∀ n : Nat, n < 2 ^ 256 → (Cell.ofNat n).toNat = n) ∧
  ∀ k : Cell, k.value < 2 ^ 248 → k.wrap < 16 → Cell.ofNat k.toNat = k

/-- BIND, UNBIND, BARINIT and REL replace the object in one step: BIND and UNBIND set BASE, LENGTH and KIND and clear the
other fields, BARINIT sets EXPECTED and opens a barrier, REL frees a lock or advances an event, GEN going up by 1. A camp
falls due (R245, R247). -/
def Obligations.SyncObjects : Prop := ∀ x : XF,
  Completes (.bind x) (opX 0x0B 0x00 x) (planBind x) (fun c s t =>
    let o := opX 0x0B 0x00 x
    let a := c.objAcc (c.start o s) x.a c.path.mask
    let l := lowLane c.path.mask
    Puts o a { a.obj with base := (c.read64 x.b 0 0 l).toNat, len := (c.opC x l).toNat, kind := bits x.f.toNat 0 2, owner := 0
                          expected := 0, arrived := 0, droppend := 0 } { next := c.next } c s t) ∧
  Completes (.unbind x) (opX 0x0B 0x01 x) (planUnbind x) (fun c s t =>
    let o := opX 0x0B 0x01 x
    let a := c.objAcc (c.start o s) x.a c.path.mask
    Puts o a { a.obj with base := 0, len := 0, kind := 0, owner := 0, expected := 0, arrived := 0, droppend := 0 }
      { next := c.next } c s t) ∧
  Completes (.barinit x) (opX 0x0B 0x06 x) (planBarinit x) (fun c s t =>
    let o := opX 0x0B 0x06 x
    let a := c.objAcc (c.start o s) x.a c.path.mask
    let b := (c.read x.b (lowLane c.path.mask)).toNat
    1 ≤ b ∧ b ≤ 65535 ∧
      Puts o a { a.obj with expected := b, arrived := 0, droppend := 0, kind := a.obj.kind - (if a.obj.broken then 4 else 0) }
        { next := c.next } c s t) ∧
  Completes (.rel x) (opX 0x0B 0x04 x) (planRel x) (fun c s t =>
    let o := opX 0x0B 0x04 x
    let a := c.objAcc (c.start o s) x.a c.path.mask
    (a.obj.type = 1 → a.obj.owner = c.self ∧
      Puts o a { a.obj with gen := a.obj.gen + 1, owner := 0, kind := a.obj.kind - (if a.obj.parkedOwner then 8 else 0) }
        { team := fun m => m.dropLock a.addr, next := c.next } c s t) ∧
    (a.obj.type ≠ 1 → a.obj.type = 2 ∧ Puts o a { a.obj with gen := a.obj.gen + 1 } { next := c.next } c s t))

/-- ACQ and TRYACQ: a free lock is taken, status 0; one that the group owns gives 3, one whose owner is parked 1; an event
that has reached the generation gives 0. Otherwise ACQ stops the group and TRYACQ gives 4 (R245). -/
def Obligations.Acquires : Prop := ∀ x : XF,
  let cases_ := fun (o : Op) (reg : Byte) (c : Ctx) (s t : State) =>
    let a := c.objAcc (c.start o s) x.a c.path.mask
    let g := c.read x.b (lowLane c.path.mask)
    let tells := fun (v : Word) => Stepped o { dsts := scalar reg v, next := c.next } c (c.start o s) t ∧ NoStore s t
    (a.obj.type = 1 → a.obj.owner ≠ c.self → a.obj.owned = false → Puts o a { a.obj with owner := c.self }
      { dsts := scalar reg 0, team := fun m => m.addLock a.addr, next := c.next } c s t) ∧
    (a.obj.type = 1 → a.obj.owner = c.self → tells 3) ∧
    (a.obj.type = 1 → a.obj.owned = true → a.obj.owner ≠ c.self → a.obj.parkedOwner = true → tells 1) ∧
    (a.obj.type = 2 → genReached a.obj.gen g = true → tells 0)
  let blocked := fun (c : Ctx) (a : ObjAcc) (g : Word) =>
    (a.obj.type = 1 ∧ a.obj.owned = true ∧ a.obj.owner ≠ c.self ∧ a.obj.parkedOwner = false)
      ∨ (a.obj.type = 2 ∧ genReached a.obj.gen g = false)
  Completes (.acq x) (opX 0x0B 0x02 x) (planAcq x) (fun c s t =>
    let a := c.objAcc (c.start (opX 0x0B 0x02 x) s) x.a c.path.mask
    let g := c.read x.b (lowLane c.path.mask)
    cases_ (opX 0x0B 0x02 x) x.c c s t ∧ (blocked c a g →
      Hands c (c.Stands (.acq a.addr g x.c) .waiting) ((c.successor x.d).getD 0x21) s t ∧ NoStore s t)) ∧
  Completes (.tryacq x) (opX 0x0B 0x03 x) (planTryacq x) (fun c s t =>
    let o := opX 0x0B 0x03 x
    let a := c.objAcc (c.start o s) x.a c.path.mask
    let g := c.read x.b (lowLane c.path.mask)
    cases_ o x.d c s t ∧ (blocked c a g →
      Stepped o { dsts := scalar x.d 4, next := c.next } c (c.start o s) t ∧ NoStore s t))

/-- FENCE changes nothing but that a camp falls due, once the group's earlier accesses are performed; before that FENCE, REL,
BARRIVE and BARDROP hold the group with no effect (R139, R246). -/
def Obligations.FencesAndReleases : Prop := ∀ x : XF,
  Completes (.fence x) (opX 0x0B 0x05 x) (planFence x) (fun c s t => c.group.quiet = true
    ∧ Stepped (opX 0x0B 0x05 x) { next := c.next } c (c.start (opX 0x0B 0x05 x) s) t ∧ NoStore s t ∧ t.camps c) ∧
  ∀ (s : State) (c : Ctx), c.group.quiet = false →
    ((opX 0x0B 0x05 x).issuer s = some c →
      Clear (opX 0x0B 0x05 x) (planFence x c (c.start (opX 0x0B 0x05 x) s)) c →
      exec (.fence x) s = .next (c.setHold (.release .fence x) s)) ∧
    ((opX 0x0B 0x04 x).issuer s = some c →
      Clear (opX 0x0B 0x04 x) (planRel x c (c.start (opX 0x0B 0x04 x) s)) c →
      exec (.rel x) s = .next (c.setHold (.release .rel x) s)) ∧
    ((opX 0x0B 0x07 x).issuer s = some c →
      Clear (opX 0x0B 0x07 x) (planArrive .barrive false x c (c.start (opX 0x0B 0x07 x) s)) c →
      c.group.links = [] → exec (.barrive x) s = .next (c.setHold (.release .barrive x) s)) ∧
    ((opX 0x0B 0x08 x).issuer s = some c →
      Clear (opX 0x0B 0x08 x) (planArrive .bardrop true x c (c.start (opX 0x0B 0x08 x) s)) c →
      c.group.links = [] → exec (.bardrop x) s = .next (c.setHold (.release .bardrop x) s))

/-- BARRIVE and BARDROP count the executing lanes in one step and give the generation found. The last arrival advances
GEN, and the dropped lanes leave EXPECTED; an arrival past EXPECTED breaks the barrier and faults; a broken barrier,
and an arrival of no lane, change no field; EXPECTED and DROPPEND are 16-bit fields (R247). That an arrival of no lane reads the
object's address at the path's lowest lane is the model's choice of log entry 39. BARWAIT gives 2 on a broken
barrier and 0 when the phase of its token is complete, which is so when GEN is 1 to 2^31 past it, and otherwise stops the
group (R248). -/
def Obligations.Barriers : Prop :=
  (∀ x : XF,
   let arrives := fun (i : Instr) (o : Op) (kind : ReleaseKind) (drop : Bool) => Completes i o (planArrive kind drop x) (fun c s t =>
     let exec := c.exec x.mask.toNat
     let a := c.objAcc (c.start o s) x.a (if exec == 0 then c.path.mask else exec)
     let n := popMask exec
     let dropped := (if drop then a.obj.droppend + n else a.obj.droppend) % 2 ^ 16
     let puts := fun (v : SyncObj) => Puts o a v { dsts := scalar x.d a.obj.gen, next := c.next } c s t
     c.group.quiet = true ∧
     (n = 0 ∨ a.obj.broken = true → puts a.obj) ∧
     (n ≠ 0 → a.obj.broken = false → a.obj.arrived + n < a.obj.expected →
       puts { a.obj with arrived := a.obj.arrived + n, droppend := dropped }) ∧
     (n ≠ 0 → a.obj.broken = false → a.obj.arrived + n = a.obj.expected →
       puts { a.obj with arrived := 0, droppend := 0, gen := a.obj.gen + 1
                         expected := (a.obj.expected + 2 ^ 16 - dropped) % 2 ^ 16 }) ∧
     (n ≠ 0 → a.obj.broken = false → a.obj.expected < a.obj.arrived + n →
       t = c.done (takeFault c { code := 0x27, inner := a.obj.arrived, address := a.addr, lanes := exec }
         (c.putObj a { a.obj with kind := a.obj.kind + 4, gen := a.obj.gen + 1, arrived := 0, droppend := 0 } (c.start o s)))))
   arrives (.barrive x) (opX 0x0B 0x07 x) .barrive false ∧ arrives (.bardrop x) (opX 0x0B 0x08 x) .bardrop true) ∧
  (∀ x : XF,
   Completes (.barwait x) (opX 0x0B 0x09 x) (planBarwait x) (fun c s t =>
     let o := opX 0x0B 0x09 x
     let a := c.objAcc (c.start o s) x.a c.path.mask
     let tok := c.read x.b (lowLane c.path.mask)
     let done := 1 ≤ (a.obj.gen - tok).toNat ∧ (a.obj.gen - tok).toNat ≤ 2 ^ 31
     let tells := fun (v : Word) => Stepped o { dsts := scalar x.c v, next := c.next } c (c.start o s) t ∧ NoStore s t ∧ t.camps c
     (a.obj.broken = true → tells 2) ∧ (a.obj.broken = false → done → tells 0) ∧
     (a.obj.broken = false → ¬ done →
       Hands c (c.Stands (.barwait a.addr tok x.c) .waiting) ((c.successor x.d).getD 0x21) s t ∧ NoStore s t)))

/-- SYNCSET writes a sync word whole: TARGET, a COUNT of 0, GEN, and a reserved word of 0. SYNCW goes on when GEN has
reached its generation and otherwise stops the group, its own earlier stores to the word performed (R249). -/
def Obligations.SyncWords : Prop := ∀ x : XF,
  Completes (.syncset x) (opX 0x0B 0x0A x) (planSyncset x) (fun c s t =>
    let o := opX 0x0B 0x0A x
    let l := lowLane c.path.mask
    ∃ ls, c.wordPlace (c.start o s) (c.read x.a l) = .ok ls ∧
      Stepped o { next := c.next } c ((c.start o s).flushFor c.ref ls) t ∧
      Stores ls (leBytes (c.read x.b l).toNat 4 ++ leBytes 0 4 ++ leBytes (c.opC x l).toNat 4 ++ leBytes 0 4)
        ((c.start o s).flushFor c.ref ls) t) ∧
  Completes (.syncw x) (opX 0x0B 0x0B x) (planSyncw x) (fun c s t =>
    let o := opX 0x0B 0x0B x
    let l := lowLane c.path.mask
    ∃ ls, c.wordPlace (c.start o s) (c.read x.a l) = .ok ls ∧
      let gen : Word := BitVec.ofNat 32 (leNat (((ls.drop 8).take 4).map ((c.start o s).readFor c.group)))
      (genReached gen (c.read x.b l) = true → Wrote o { next := c.next } c s t) ∧
      (genReached gen (c.read x.b l) = false →
        Hands c (c.Stands (.syncw (c.read x.a l) (c.read x.b l)) .waiting) ((c.successor x.d).getD 0x21) s t
          ∧ NoStore ((c.start o s).flushFor c.ref ls) t))

/-! ## Copies, tiles and the quad engine at issue (10 R250 to R253; 11 R258 to R284) -/

/-- BCOPY, GATHER and SCATTER put a copy with its operands into its queue, after the entries that a QFENCE puts before it, and
take a CP credit; one of no bytes is complete at once, and the camp of an outbound one falls due. QFENCE puts the copies of
the named queues before what comes later. No byte moves at issue (R127, R135, R251 to R253). -/
def Obligations.CopiesAtIssue : Prop := ∀ x : XF,
  let starts := fun (i : Instr) (o : Op) (plan : Ctx → State → Plan) (copy : Ctx → Copy) => Completes i o plan (fun c s t =>
    let k : Copy := { copy c with
      id := c.team.cur.nextCopy, seq := c.group.nextSeq, pc := c.pc, f := x.f, part := c.ref.part, grp := c.ref.grp
      outbound := (c.start o s).copyOutbound c.launch c.team (copy c), after := c.team.cur.fenced (copy c).queue
      since := s.hostClk }
    Stepped o
      { group := fun g => { g with
          cp := g.cp ++ [{ seq := c.group.nextSeq, pc := c.pc, copy := k.id, done := k.total == 0 }]
          nextSeq := c.group.nextSeq + 1 }
        team := fun m => m.modCur (fun u => { u with
          nextCopy := k.id + 1, copies := if k.total = 0 then u.copies else u.copies ++ [k] })
        next := c.next } c (c.start o s) t ∧ NoStore s t ∧ (k.total = 0 → k.outbound = true → t.camps c))
  let word := fun (c : Ctx) (l : Nat) => if bit x.f.toNat 3 then some (c.read x.d l) else none
  let x0 : XF := if bit x.f.toNat 2 then { x with mask := 0 } else x
  starts (.bcopy x) { opX 0x0C 0x00 x with x := x0 } (planBcopy x x0) (fun c =>
    let l := lowLane c.path.mask
    { id := 0, seq := 0, pc := c.pc, func := 0, f := x.f, part := c.ref.part, grp := c.ref.grp, sync := word c l
      dst := c.read64 x.a 0 0 l, src := c.read64 x.b 0 0 l, bytes := (c.opC x0 l).toNat
      lit := if bit x.f.toNat 4 then x.lit.getD 0 else 0
      set := if bit x.f.toNat 2 then c.read64 (0xA0 + BitVec.ofNat 8 (2 * x.mask.toNat)) 0 0 0 else 0, idx := [] }) ∧
  (let indexed := fun (func : Nat) (c : Ctx) =>
    let exec := c.exec x.mask.toNat
    let l := lowLane (if exec == 0 then c.path.mask else exec)
    ({ id := 0, seq := 0, pc := c.pc, func := func, f := x.f, part := c.ref.part, grp := c.ref.grp, sync := word c l
       dst := c.read64 x.a 0 0 l, src := c.read64 x.b 0 0 l, bytes := 0, lit := 0, set := exec
       idx := (List.range 64).map (fun i => if laneBit exec i then (c.opC x i).toNat else 0) } : Copy)
   starts (.gather x) (opX 0x0C 0x01 x) (planIndexed 1 x) (indexed 1) ∧
   starts (.scatter x) (opX 0x0C 0x02 x) (planIndexed 2 x) (indexed 2)) ∧
  Completes (.qfence x) (opX 0x0C 0x03 x) (planQfence x) (fun c s t =>
    let named := (List.range 4).filter (fun q => bit x.f.toNat q)
    NoStore s t ∧ t.goesOn c c.next ∧ ∃ m m', s.team? (teamOf c.ref) = some m ∧ t.team? (teamOf c.ref) = some m' ∧
      m'.cur.copies = m.cur.copies ∧ ∀ q i, i ∈ lookupD m'.cur.fences q [] ↔
        i ∈ lookupD m.cur.fences q [] ∨ (q ∈ named ∧ ∃ k ∈ m.cur.copies, k.queue ∈ named ∧ k.id = i))

/-- Every MTX operation joins its quad's table with the operands that it read at issue, and names its tiles; an MLEASE of the
team that holds the lease replaces its count, and MREL ends it and the team's waiting leases. MLINK links a tile to an object,
or ends the link (R258 to R276). -/
def Obligations.MatrixOperationsAtIssue : Prop := ∀ x : XF,
  let d := tileNum x.d
  Completes (.mlease x) (opX 0x0D 0x00 x) (planMlease x) (fun c s t =>
    ((s.engine (quadOf c.core)).leasedTo (teamOf c.ref) = false →
      Enqueues (opX 0x0D 0x00 x) (.mlease x.f.toNat) [] [] [] [] false c s t) ∧
    ((s.engine (quadOf c.core)).leasedTo (teamOf c.ref) = true →
      (t.engine (quadOf c.core)).lease = some (teamOf c.ref, x.f.toNat)
        ∧ (t.engine (quadOf c.core)).entries = (s.engine (quadOf c.core)).entries ∧ t.goesOn c c.next ∧ NoStore s t
        ∧ (∀ k l, t.seen c k l = s.seen c k l))) ∧
  Completes (.mrel x) (opX 0x0D 0x01 x) planMrel (fun c s t =>
    let g := s.engine (quadOf c.core)
    let mine := fun (e : EngEntry) => teamOf e.group = teamOf c.ref ∧ ∃ n, e.op = .mlease n
    (t.engine (quadOf c.core)).lease = (if g.leasedTo (teamOf c.ref) then none else g.lease)
      ∧ (∀ e ∈ (t.engine (quadOf c.core)).entries, e ∈ g.entries ∧ ¬ mine e) ∧ t.goesOn c c.next ∧ NoStore s t
      ∧ (∀ k l, t.seen c k l = s.seen c k l)) ∧
  Completes (.mma x) (opX 0x0D 0x02 x) (planMma x) (fun c s t =>
    let l := lowLane c.path.mask
    Enqueues (opX 0x0D 0x02 x)
      (.mma d (c.read x.a l) (c.read x.b l) (c.elemFmt (bits x.f.toNat 0 4)) (c.elemFmt (bits x.f.toNat 4 4))
        (if clsOf x.c = .vz then none else some (c.lanes64 x.c, c.lanes64 (x.c + 1))) x.asub.toNat x.round.toNat)
      [d] [] (tileLogs c.coreIdx d) [] false c s t) ∧
  Completes (.mzero x) (opX 0x0D 0x03 x) (planMzero x) (fun c s t =>
    Enqueues (opX 0x0D 0x03 x) (.mzero d) [d] [] (tileLogs c.coreIdx d) [] false c s t) ∧
  Completes (.mld x) (opX 0x0D 0x04 x) (planMld x) (fun c s t =>
    let l := lowLane c.path.mask
    Enqueues (opX 0x0D 0x04 x) (.mld d (c.read64 x.a 0 0 l) (c.read x.b l).toNat (c.elemFmt (bits x.f.toNat 0 4))) [d] []
      (tileLogs c.coreIdx d) [] false c s t) ∧
  Completes (.mst x) (opX 0x0D 0x05 x) (planMst x) (fun c s t =>
    let l := lowLane c.path.mask
    ∃ logs sectors outbound, Enqueues (opX 0x0D 0x05 x)
      (.mst d (c.read64 x.a 0 0 l) (c.read x.b l).toNat (c.elemFmt (bits x.f.toNat 0 4)) x.round.toNat
        (if x.round = 4 then (List.range 4).map (fun i => c.read (x.c + BitVec.ofNat 8 i) 0) else []))
      [d] [] logs sectors outbound c s t) ∧
  Completes (.mcol x) (opX 0x0D 0x06 x) (planMcol x) (fun c s t => c.group.width = 64 ∧ c.column x < 64 ∧
    EnqueuesLd (opX 0x0D 0x06 x) (.mcol x.d (tileNum x.a) (c.column x) (c.exec x.mask.toNat)) [tileNum x.a]
      (if clsOf x.d = .s then .whole x.d {} else .lanes x.d []) c s t) ∧
  Completes (.mput x) (opX 0x0D 0x07 x) (planMput x) (fun c s t => c.group.width = 64 ∧ c.column x < 64 ∧
    Enqueues (opX 0x0D 0x07 x) (.mput d (c.lanes64 x.a) (c.column x)) [d] [] (tileLogs c.coreIdx d) [] false c s t) ∧
  Completes (.mlink x) (opX 0x0D 0x08 x) (planMlink x) (fun c s t =>
    let o := c.read64 x.a 0 0 (lowLane c.path.mask)
    Wrote (opX 0x0D 0x08 x) { group := fun g => { g with
        links := if clsOf x.a = .vz then eraseKey g.links d else insertKey g.links d o }, next := c.next } c s t)

/-- Every ORTH operation joins its quad's table with the operands that it read at issue, and names the tiles of its slot; its
v and s results are interlocked until it is complete (R261, R277 to R284). -/
def Obligations.OrthOperationsAtIssue : Prop := ∀ x : XF,
  let q := slotNum x.d
  let r := x.round.toNat
  Completes (.qinit x) (opX 0x0E 0x00 x) (planQinit x) (fun c s t =>
    let tB := if clsOf x.b = .vz then none else some (tileNum x.b)
    Enqueues (opX 0x0E 0x00 x) (.qinit q (tileNum x.a) tB (bits x.f.toNat 0 6) (bits x.f.toNat 6 2))
      ((256 + q) :: tileNum x.a :: tB.toList) [] (tileLogs c.coreIdx (tileNum x.a)) [] false c s t) ∧
  Completes (.qacc x) (opX 0x0E 0x01 x) (planQacc x) (fun c s t => c.group.width = 64 ∧
    Enqueues (opX 0x0E 0x01 x) (.qacc q (c.lanes64 x.a) (c.read x.b 0) r) (c.slotTiles (c.start (opX 0x0E 0x01 x) s) q) []
      (c.slotLogs (c.start (opX 0x0E 0x01 x) s) q) [] false c s t) ∧
  (let applies := fun (i : Instr) (o : Op) (left : Bool) => Completes i o (planQap left x) (fun c s t =>
    let tiles := c.slotTiles (c.start o s) (slotNum x.a)
    (clsOf x.d = .t → Enqueues o (.qapTile left (tileNum x.d) (slotNum x.a) (bit x.f.toNat 0) r) (tileNum x.d :: tiles) []
      (tileLogs c.coreIdx (tileNum x.d)) [] false c s t) ∧
    (clsOf x.d ≠ .t → c.group.width = 64 ∧
      Enqueues o (.qapReg left x.d (c.lanes64 x.d) (c.exec x.mask.toNat) (slotNum x.a) (bit x.f.toNat 0) r) tiles [x.d]
        (regRows c.ref.part c.ref.grp x.d c.n (c.exec x.mask.toNat)) [] false c s t))
   applies (.qapl x) (opX 0x0E 0x02 x) true ∧ applies (.qapr x) (opX 0x0E 0x03 x) false) ∧
  Completes (.qfold x) (opX 0x0E 0x04 x) (planQfold x) (fun c s t =>
    Enqueues (opX 0x0E 0x04 x) (.qfold q r) (c.slotTiles (c.start (opX 0x0E 0x04 x) s) q) []
      (c.slotLogs (c.start (opX 0x0E 0x04 x) s) q) [] false c s t) ∧
  Completes (.qstat x) (opX 0x0E 0x05 x) (planQstat x) (fun c s t =>
    EnqueuesLd (opX 0x0E 0x05 x) (.qstat x.d (slotNum x.a)) (c.slotTiles (c.start (opX 0x0E 0x05 x) s) (slotNum x.a))
      (if clsOf x.d = .s then .whole x.d {} else .lanes x.d []) c s t) ∧
  Completes (.qclr x) (opX 0x0E 0x06 x) (planQclr x) (fun c s t =>
    Enqueues (opX 0x0E 0x06 x) (.qclr q) (c.slotTiles (c.start (opX 0x0E 0x06 x) s) q) []
      (c.slotLogs (c.start (opX 0x0E 0x06 x) s) q) [] false c s t) ∧
  Completes (.hhgen x) (opX 0x0E 0x07 x) (planHhgen x) (fun c s t => c.group.width = 64 ∧
    Enqueues (opX 0x0E 0x07 x) (.hhgen x.d (c.lanes64 x.a) (c.exec x.mask.toNat) (bits x.f.toNat 0 6) x.b r) []
      [x.d, x.b, x.b + 1] (regRows c.ref.part c.ref.grp x.d c.n (c.exec x.mask.toNat)) [] false c s t)

/-! ## Ropes, work and system instructions (02 R49 to R61; 09 R220 to R228) -/

/-- RECRUIT writes the number of helpers and the reason for none to D. With helpers the leader is LEADER-SUSPENDED, keeps
its baton and has a rope whose one path holds them all at the target, and a lender that waited is LENT; with none the
group goes on. ROPERED adds a contribution of each executing helper. ROPEEND ends the helpers of the path; with the
last of them, once the helpers' loads have arrived (R295), each leader register takes the rope's contributions to it, in the
order of the helpers and then of their programs, the lenders are as they were at RECRUIT, or READY where their stop has
ended, and the leader is HOLDING at the instruction after its RECRUIT, without a rope (R49 to R53, R220 to R222). What
contributions make of a register: the operation applied to its value and then to each contribution in turn, and a
floating-point sum rounded once (R53, R222). -/
def Obligations.Ropes : Prop :=
  (∀ x : XF,
   Completes (.recruit x) (opX 0x0F 0x00 x) (planRecruit x) (fun c s t =>
     let o := opX 0x0F 0x00 x
     let exec := c.exec x.mask.toNat
     let grant := c.recruitGrant (c.start o s) exec (bits x.f.toNat 0 6)
     let n := grant.1.length
     popMask exec = 1 ∧
     (n = 0 → Wrote o { dsts := scalar x.d (BitVec.ofNat 32 (256 * grant.2)), next := c.next } c s t) ∧
     (n ≠ 0 → (∃ g r, t.group? c.ref = some g ∧ g.rope = some r ∧ g.state = .leaderSuspended ∧ g.slot = c.group.slot
         ∧ (clsOf x.d ≠ .vz → (g.reg x.d).at_ .s 0 = BitVec.ofNat 32 (n + 256 * grant.2))
         ∧ (∀ k, k ≠ x.d → g.reg k = c.group.reg k)
         ∧ r.n = n ∧ r.positions = grant.1.map (·.1) ∧ r.leaderLane = lowLane exec ∧ r.recruitPc = c.pc ∧ r.nextPc = c.next
         ∧ r.ended = 0 ∧ r.contributions = [] ∧ (∀ p ∈ r.paths, p.pc = c.pc + x.lit.getD 0 * 4 ∧ p.mask = fullMask n))
       ∧ (∀ e ∈ grant.1, e.2 ≠ c.ref → ∀ g, s.group? e.2 = some g → g.state = .waiting ∨ g.state = .parked →
           (t.group? e.2).map (·.state) = some .lent) ∧ NoStore s t)) ∧
   (let new := fun (c : Ctx) =>
     ({ reg := x.d, op := bits x.f.toNat 0 4, round := x.round.toNat
        vals := (lanesOf c.n (c.exec x.mask.toNat)).map (fun h => (h, c.read x.a h)) } : Contribution)
    Completes (.ropered x) (opX 0x0F 0x02 x) (planRopered x) (fun c s t =>
     Wrote (opX 0x0F 0x02 x) { group := fun g => { g with rope := g.rope.map (fun r => { r with
       contributions := r.contributions ++ [new c] }) }, next := c.next } c s t)) ∧
   Completes (.ropeend x) (opX 0x0F 0x01 x) planRopeend (fun c s t => ∀ r, c.rope = some r →
     let ended := r.ended ||| c.path.mask
     let cs := fun (k : Byte) => (List.range r.n).flatMap (fun h =>
       (r.contributions.filter (fun e => e.reg == k)).flatMap (fun e =>
         e.vals.filterMap (fun v => if v.1 == h then some v.2 else none)))
     let new := fun (k : Byte) => ((r.contributions.find? (fun e => e.reg == k)).map (fun e =>
       applyRed e.op e.round ((c.group.reg k).at_ (clsOf k) r.leaderLane) (cs k))).getD (0, 0)
     (fullMask r.n &&& ~~~ended ≠ 0 → ∃ g q, t.group? c.ref = some g ∧ g.rope = some q ∧ q.ended = ended
       ∧ g.state = c.group.state ∧ g.slot = c.group.slot ∧ (∀ k l, t.seen c k l = s.seen c k l) ∧ NoStore s t) ∧
     (fullMask r.n &&& ~~~ended = 0 → c.group.pendingHelpers = [] ∧ NoStore s t ∧
       ∃ g, t.group? c.ref = some g ∧ g.rope = none ∧ g.state = .holding ∧ g.slot = c.group.slot ∧
       (∀ k, k ∉ r.contributions.map (·.reg) ∨ cs k = [] → g.reg k = c.group.reg k) ∧
       g.flags = (dedup (r.contributions.map (·.reg))).foldl (fun f k => f ||| (new k).2) c.group.flags ∧
       (∀ k, k ∈ r.contributions.map (·.reg) → cs k ≠ [] →
         (clsOf k = .s → (g.reg k).base = (new k).1 ∧ (g.reg k).tag = .u) ∧
         (clsOf k = .v ∨ clsOf k = .m → r.leaderLane < c.group.width → (g.reg k).tag = .g ∧
           ∀ l, (g.reg k).lanes.getD l 0 = if l = r.leaderLane then (new k).1 else (c.group.reg k).lanes.getD l 0)) ∧
       (∀ p ∈ c.group.paths, p.pc = r.recruitPc → laneBit p.mask r.leaderLane = true → p.join = none →
         ({ p with pc := r.nextPc } : Path) ∈ g.paths) ∧
       (∀ e g', e ∈ r.lenders → (∀ e' ∈ r.lenders, e'.group = e.group → e' = e) → e.group ≠ c.ref →
         s.group? e.group = some g' → g'.state = .lent →
         (t.group? e.group).map (·.state) = some (if g'.stop = none then .ready else e.prior))))) ∧
  (∀ (x : XF) (s : State) (c : Ctx) (r : Rope), (opX 0x0F 0x01 x).issuer s = some c → c.rope = some r →
    Clear (opX 0x0F 0x01 x) (planRopeend c (c.start (opX 0x0F 0x01 x) s)) c →
    fullMask r.n &&& ~~~(r.ended ||| c.path.mask) = 0 → c.group.pendingHelpers ≠ [] →
    exec (.ropeend x) s = .next (c.setHold .retry s)) ∧
  ((∀ (op round : Nat) (v : Word), applyRed op round v [] = (v, 0)) ∧
   (∀ (op round : Nat) (v : Word) (cs : List Word), op ≠ 1 → cs ≠ [] → applyRed op round v cs = (cs.foldl (reduxCombine op) v, 0)) ∧
   ∀ (round : Nat) (v : Word) (cs : List Word), cs ≠ [] →
     let r := Fp.roundSum Fp.fp32 round ((v :: cs).map Fp.val32)
     applyRed 1 round v cs = (BitVec.ofNat 32 r.1, r.2))

/-- TFETCH takes the next chunk of the team's cursor, which goes up by 1 while there is one, and delivers its four words
through the LD class (R58, R224). The dispenser gives a launch's tiles to its teams in turn with every iteration; in
split mode team j of N gets the iterations from j·total/N up to (j+1)·total/N, cut at tiles, without gap or overlap and in
increasing order; a chunk says whether it is the first or the last of its tile and how many teams share the tile (R57 to
R59). -/
def Obligations.WorkFetches : Prop :=
  (let fetches := fun (i : Instr) (o : Op) (d : Byte) => Completes i o (planTfetch { d := d }) (fun c s t =>
     let ch := c.launch.chunk c.ref.team c.team.cur.cursor
     let words := match ch with
       | none => [0xFFFFFFFF, 0, 0, 0]
       | some k => [k.tile, k.first, k.last, k.flags]
     Stepped o
       { group := c.withLd (words.zipIdx.map (fun (w, i) =>
           .whole (d + BitVec.ofNat 8 i) { tag := .u, base := BitVec.ofNat 32 w }))
         team := fun m => m.modCur (fun k => { k with cursor := if ch.isSome then k.cursor + 1 else k.cursor })
         next := c.next } c (c.start o s) t ∧ NoStore s t)
   (∀ d : Byte, fetches (.tfetch d) (opB (wordB 0x2D d 0 0) 0x12 0x00 { d := d }) d) ∧
   ∀ x : XF, fetches (.tfetchX x) (opX 0x12 0x00 x) x.d) ∧
  (∀ (l : Launch) (j i : Nat), 0 < l.iters → 0 < l.n →
   (l.split = false → (j + i * l.n < l.x * l.y * l.z →
       l.chunk j i = some { tile := j + i * l.n, first := 0, last := l.iters, flags := 0x00010003 }) ∧
     (l.x * l.y * l.z ≤ j + i * l.n → l.chunk j i = none)) ∧
   (l.split = true →
     let a := fun (j : Nat) => j * (l.x * l.y * l.z) * l.iters / l.n
     let teams := fun (t : Nat) => ((List.range l.n).filter (fun j =>
       decide (a j < (t + 1) * l.iters ∧ t * l.iters < a (j + 1) ∧ a j < a (j + 1)))).length
     (a (j + 1) ≤ a j → l.chunk j i = none) ∧
     (a j < a (j + 1) → ∃ k, l.chunk j 0 = some k ∧ k.tile * l.iters + k.first = a j) ∧
     ∀ k, l.chunk j i = some k →
       let stop := k.tile * l.iters + k.last
       stop ≤ a (j + 1) ∧ k.first < k.last ∧ k.last ≤ l.iters ∧ (k.last = l.iters ∨ stop = a (j + 1)) ∧
       (stop < a (j + 1) → ∃ q, l.chunk j (i + 1) = some q ∧ q.tile * l.iters + q.first = stop) ∧
       (stop = a (j + 1) → ∀ i', i < i' → l.chunk j i' = none) ∧
       k.flags = (if k.first = 0 then 1 else 0) + (if k.last = l.iters then 2 else 0) + (if 1 < teams k.tile then 4 else 0)
         + 2 ^ 16 * (teams k.tile % 2 ^ 16)))

/-- LAUNCH gives each executing lane the index of its packet in the child queue, or all ones when there is no room for all of
them; with room the 64 bytes at each lane's address go to the ring slots from WRIDX on, in the order of the lanes, WRIDX goes up
by their number, and the queue is kicked; nothing else in memory changes. A camp falls due (R61, R225). SVC takes its pipe and
holds the group with the service asked for. CKPT holds the group until the camp that it calls for. RDCNT writes a status item;
items 16 and 17 clear what they read (R226 to R228). -/
def Obligations.SystemInstructions : Prop := ∀ x : XF,
  Completes (.launch x) (opX 0x12 0x01 x) (planLaunch x) (fun c s t =>
    let s0 := c.start (opX 0x12 0x01 x) s
    let exec := c.exec x.mask.toNat
    let lanes := lanesOf c.n exec
    let k : QueueKey := { c.launch.queue with idx := c.launch.childQ }
    let sp := (s0.qcbAt k).1
    let index := (s0.qcbAt k).2 + 0x10
    let w : Word := BitVec.ofNat 32 (s0.vle sp index 4)
    let q := s0.queue k
    let room := lanes.length + (w - q.rdIdx).toNat ≤ q.ringSize
    let d : Dest := { code := x.d, shape := { tag := .g }
                      val := fun l => if room then w + BitVec.ofNat 32 ((lanes.filter (· < l)).length) else 0xFFFFFFFF }
    let slot := fun (i : Nat) => q.slotAddr (w + BitVec.ofNat 32 i)
    let packet := fun (l : Nat) => match s0.vaLoc c.launch (c.read64 x.a 0 0 l).toNat 64 1 with
      | .ok p => (p.span 64).map (s0.readFor c.group)
      | .error _ => []
    let places := (List.range lanes.length).flatMap (fun i => s0.vlocs sp (slot i) 64) ++ s0.vlocs sp index 4
    let vas := (List.range lanes.length).flatMap (fun i => (List.range 64).map (slot i + ·)) ++ (List.range 4).map (index + ·)
    (∀ l, l < c.n → t.seen c x.d l = c.after x d (s.seen c x.d) l) ∧ (∀ k l, k ≠ x.d → t.seen c k l = s.seen c k l)
      ∧ t.goesOn c c.next ∧ t.camps c ∧ c.group.quiet = true ∧ c.launch.childQ ≠ 0xFF ∧
    (¬ room ∨ lanes = [] → NoStore s t ∧ ({ t with teams := [] } : State) = { s0 with teams := [] }) ∧
    (room → lanes ≠ [] → places.length = 64 * lanes.length + 4 → s0.Fixed sp vas places → ∃ u : State,
      Stores places (lanes.flatMap packet ++ leBytes (w + BitVec.ofNat 32 lanes.length).toNat 4) s0 u ∧
      ({ u with teams := [], mem := [] } : State) = { s0 with teams := [], mem := [] } ∧
      ({ t with teams := [] } : State) = { (u.kickQueue k).testFences with teams := [] })) ∧
  Completes (.svc x) (opX 0x13 0x00 x) (planSvc x) (fun c s t => Wrote (opX 0x13 0x00 x) { next := c.pc } c s t ∧
    (t.group? c.ref).map (fun g => (g.hold, g.busyUntil))
      = some (some (.svc x.d x.f.toNat (c.read64 x.a 0 0 0) c.next), c.clk + c.pipe)) ∧
  Completes (.ckpt x) (opX 0x13 0x01 x) planCkpt (fun c s t =>
    t.goesOn c c.next ∧ (t.group? c.ref).map (·.hold) = some (some .camp) ∧ t.camps c ∧ NoStore s t
      ∧ (∀ k l, t.seen c k l = s.seen c k l)) ∧
  Completes (.rdcnt x) (opX 0x13 0x02 x) (planRdcnt x) (fun c s t =>
    let v : Dword := BitVec.ofNat 64 (c.statusItem x.f.toNat)
    (∀ d ∈ pairDests x.d (fun _ => v) { tag := .u, base := loWord v } { tag := .u, base := hiWord v }, ∀ l, l < c.n →
      t.seen c d.code l = d.shape.base) ∧
    (∀ k l, k ≠ x.d → k ≠ succCode x.d → t.seen c k l = s.seen c k l) ∧ t.goesOn c c.next ∧ NoStore s t ∧
    t.flagsOf c = (if x.f = 16 then 0 else s.flagsOf c) ∧
    (x.f = 17 → (t.mailsOf c).1.ovr = false ∧ (t.mailsOf c).2.ovr = false) ∧
    (x.f ≠ 17 → (t.mailsOf c).1.ovr = (s.mailsOf c).1.ovr ∧ (t.mailsOf c).2.ovr = (s.mailsOf c).2.ovr))

/-! ## Events of groups (02 R40, R41; 03 R73, R74; 05 R112; 18 R366, R367) -/

/-- The square grants the baton that entered it first, from the clock after it entered and once in a clock, to the READY
group with the lowest number above the last recipient, wrapping; that group is HOLDING and issues 2 clocks later. It grants
once the partition's issues and stop tests of the clock are over (R38, R219), and a grant that nothing can take changes
nothing (R41). Starvation: after 2^16 clocks of the condition the event is raised and counted in the district record; the
firmware then puts the baton whose holder has been HELD-WAITING longest, of these the lowest group, into the square,
and its holder is WAITING with its stop in force (R366, R367). That of several batons in the square the one that entered
first is granted is the model's choice of log entry 112, the order among equal holders and the firmware's part that of log
entry 51; the count waits while the record's channel is not ready (R347). -/
def Obligations.SquaresAndStarvation : Prop :=
  (∀ (u : TeamRef) (p : Nat) (s : State) (m : Team) (q : Part), s.ready.trip = false → s.team? u = some m → m.saved = false →
   m.cur.parts[p]? = some q →
   let clk := s.clk (m.coreOf p)
   let ring := fun (k : Nat) => (q.lastRecipient + 1 + k) % q.groups.length
   let waits := fun (k : Nat) => ∃ g, q.groups[ring k]? = some g ∧ g.state = .ready
   (∀ (before after : List (Nat × Nat)) (slot since k : Nat) (g : Group), s.tested m p = true →
     q.lastGrant ≠ some clk → q.square = before ++ (slot, since) :: after → (∀ e ∈ before, clk < e.2) → since ≤ clk →
     k < q.groups.length → (∀ j, j < k → ¬waits j) → q.groups[ring k]? = some g → g.state = .ready →
     ∃ t, exec (.squareGrant u p) s = .next t ∧ Within s t ∧ (∀ r, ¬(teamOf r = u ∧ r.part = p) → t.group? r = s.group? r) ∧
       ∃ q', (t.team? u).bind (fun m => m.cur.parts[p]?) = some q' ∧
         q'.groups = q.groups.set (ring k) { g with state := .holding, slot := some slot, readyAt := clk + 2, prompt := true } ∧
         q'.square = q.square.filter (fun e => e != (slot, since)) ∧ q'.lastRecipient = ring k ∧ q'.lastGrant = some clk) ∧
   (s.tested m p = false → exec (.squareGrant u p) s = .next s) ∧
   ((q.lastGrant = some clk ∨ (∀ e ∈ q.square, clk < e.2) ∨ (∀ k, k < q.groups.length → ¬waits k)) →
     ∃ t, exec (.squareGrant u p) s = .next t ∧ Within s t ∧ ∀ r, t.group? r = s.group? r)) ∧
  (∀ (u : TeamRef) (p : Nat) (s : State) (m : Team) (q : Part), s.ready.trip = false → s.team? u = some m → m.saved = false →
   m.cur.parts[p]? = some q →
   (q.starve < 2 ^ 16 → exec (.starvationEvent u p) s = .next s) ∧
   (2 ^ 16 ≤ q.starve → q.starved = false → ∃ t, exec (.starvationEvent u p) s = .next t ∧ (∀ r, t.group? r = s.group? r) ∧
     (t.team? u).bind (fun m => m.cur.parts[p]?) = some { q with starved := true, starvedAt := s.hostClk } ∧
     ∀ a, (s.districts[m.district]?).bind (·.record) = some a → s.pready (a.toNat + 0x18) 8 = true →
       cellLe t.mem (a.toNat + 0x18) 8 = (cellLe s.mem (a.toNat + 0x18) 8 + 1) % 2 ^ 64) ∧
   (∀ (l : Launch) (i slot : Nat) (g : Group), s.fwUp = true → s.launch? u.launch = some l → q.starved = true →
     (∃ x ∈ q.groups, x.state = .ready) →
     (q.groups.filter (fun x => x.slot.isSome && x.state == .heldWaiting)).length = m.share →
     q.groups[i]? = some g → g.state = .heldWaiting → g.slot = some slot →
     (∀ j x, q.groups[j]? = some x → x.state = .heldWaiting → x.slot.isSome →
       g.heldSince < x.heldSince ∨ (g.heldSince = x.heldSince ∧ i ≤ j)) →
     ∃ t, exec (.starvationResponse u p) s = .next t ∧ (∀ r, ¬(teamOf r = u ∧ r.part = p) → t.group? r = s.group? r) ∧
       (t.team? u).bind (fun m => m.cur.parts[p]?) = some { q with
         groups := q.groups.set i { g with state := .waiting, slot := none }
         square := q.square ++ [(slot, s.clk (m.coreOf p) + 1)], starve := 0, starved := false }))

/-- A stop whose condition holds ends, in the clock's turn of its partition after the issues and before the square's grant, in
the order of the slots (R38, R219): the path goes on after the stopping instruction, a WAITING group is READY, a HELD-WAITING
one HOLDING and issues 2 clocks later, a lender stays LENT. A WAIT that covers a failed operation faults with the oldest, and
so does a re-test of an object that does not suit or of a poisoned sync word; ACQ and BARWAIT write their status, and a free
lock is taken in one step. A stop whose condition does not hold stays (R40, R56, R218, R245, R248, R249). A step on an object
or on scratchpad re-tests the groups stopped on it by the value that it leaves, and what completes a stop is kept; that the
result is kept is the model's reading of log entry 42. -/
def Obligations.StopConditions : Prop :=
  (∀ (s : State) (r : GroupRef) (m : Team) (g : Group) (l : Launch) (q : Part) (stop : StopRec), Present s r m g →
   s.launch? r.launch = some l → m.cur.parts[r.part]? = some q → g.stop = some stop →
   g.state = .waiting ∨ g.state = .heldWaiting ∨ g.state = .lent →
   let clk := s.clk (m.coreOf r.part)
   let stays := exec (.stopConditionMet r) s = .next s
   (s.stopTurn m r g = false → stays) ∧ (s.stopTurn m r g = true →
    let s1 := s.modTeam (teamOf r) (fun u => u.modPart r.part (fun q => { q with lastStop := some clk }))
    let leads := fun (post : State → Prop) => ∃ t, exec (.stopConditionMet r) s = .next t ∧ post t
    let ends := leads (Becomes r (fun x => x.settle.completeStop clk) s1)
    let writes := fun (reg : Byte) (v : Nat) (t : State) => t.campsFor (teamOf r) ∧
      ∃ g', t.group? r = some g' ∧ g'.state = g.state.afterStop ∧ g'.slot = g.slot ∧ g'.stop = none ∧
        (clsOf reg = .s → (g'.reg reg).base = BitVec.ofNat 32 v ∧ (g'.reg reg).tag = .u) ∧
        ∀ k : Byte, k ≠ reg → g'.reg k = g.reg k
    (∀ ld st cp tl, stop.what = .wait ld st cp tl →
      let met := g.ld.length ≤ ld ∧ g.st.length ≤ st ∧ g.cp.length ≤ cp ∧ g.tl.length ≤ tl
      let hit := ∃ f ∈ g.fails, ({ ld := ld, st := st, cp := cp, tl := tl } : Counts).of f.cls < 63
      (¬met → stays) ∧ (met → ¬hit → ends) ∧ (met → hit → leads (fun t => t.faultedAt r ∧
        s1.surface r { ld := ld, st := st, cp := cp, tl := tl } stop.pc = some t))) ∧
    (stop.what = .park → stays) ∧
    (stop.what = .join → if (runPath g.settle.paths).isSome then ends else stays) ∧
    (∀ addr gen, stop.what = .syncw addr gen →
      (stop.res = none → stays) ∧ (stop.res = some 0 → ends) ∧
      ∀ v, stop.res = some v → v ≠ 0 → leads (fun t => t.faultedAt r)) ∧
    (∀ obj x reg, stop.what = .acq obj x reg ∨ stop.what = .barwait obj x reg → ∀ v, stop.res = some v →
      (v < 256 → leads (fun t => writes reg v t ∧ NoStore s t)) ∧ (256 ≤ v → leads (fun t => t.faultedAt r))) ∧
    (∀ obj tok reg, stop.what = .barwait obj tok reg → stop.res = none → stays) ∧
    (∀ obj gen reg, stop.what = .acq obj gen reg → stop.res = none →
      (s.objKey l obj = none → stays) ∧
      ∀ key, s.objKey l obj = some key →
        let o := s.objAt key
        ((o.clean = false ∨ o.type ≠ 1 ∨ o.owned = true) → stays) ∧
        (o.clean = true → o.type = 1 → o.owned = false → leads (fun t => writes reg 0 t ∧
          Stores (physSpan key 32) { o with owner := ownerWord (m.coreOf r.part) (r.part % 4) r.grp }.bytes s t))) ∧
    ∀ p, runPath g.paths = some p → p.pc = stop.pc → g.completeStop clk = { g with
      stop := none, state := g.state.afterStop, readyAt := if g.state = .heldWaiting then clk + 2 else g.readyAt
      prompt := (if g.state = .heldWaiting then true else g.prompt)
      paths := replacePath g.paths p [{ p with pc := stop.next }] })) ∧
  ∀ (s : State) (r : GroupRef) (m : Team) (g : Group) (l : Launch) (stop : StopRec) (u : TeamRef) (ls : List Loc) (bs : List Byte),
   s.team? (teamOf r) = some m → m.saved = false → s.group? r = some g → s.launch? r.launch = some l → g.stop = some stop →
   ls ≠ [] → bs ≠ [] →
   let t := s.atomStep u ls bs
   let finds := fun (res : Option Nat) => (t.group? r).bind (·.stop) = some { stop with res := res }
   let self := ownerWord (m.coreOf r.part) (r.part % 4) r.grp
   (stop.res.isSome = true → finds stop.res) ∧
   (stop.res = none → ∀ obj key, stop.what.object = some obj → t.objKey l obj = some key → ls = physSpan key 32 →
     let o := t.objAt key
     (∀ gen reg, stop.what = .acq obj gen reg → finds (
       if o.clean = false ∨ (o.type ≠ 1 ∧ o.type ≠ 2) then some (256 + o.kind)
       else if o.type = 1 then (if o.owner = self then some 3 else if o.owned = true ∧ o.parkedOwner = true then some 1 else none)
       else if genReached o.gen gen = true then some 0 else none)) ∧
     ∀ tok reg, stop.what = .barwait obj tok reg → finds (
       if o.clean = false ∨ o.type ≠ 3 then some (256 + o.kind) else if o.broken = true then some 2
       else if 1 ≤ (o.gen - tok).toNat ∧ (o.gen - tok).toNat ≤ 2 ^ 31 then some 0 else none)) ∧
   (stop.res = none → ∀ addr gen v c a word, stop.what = .syncw addr gen →
     t.scratchLocs l (m.coreOf r.part) addr.toNat 16 = .ok word → word.head? = some { space := .scratch v c, addr := a } →
     (ls.head?.map (·.space)) = some (.scratch v c) → t.poisonAt { space := .scratch v c, addr := a + 8 } = none →
     finds (if genReached (t.scratchWord v c (a + 8)) gen = true then some 0 else none))

/-- Data that arrive are written to the destinations of their load, with tag G for lane words, and end its pending-write
bits; a failed or performed load writes nothing. A store that is performed writes its bytes, after the group's earlier
stores to its sectors, so that of a byte which both write its own value stays. Both wait for the channels of their bytes
(R347). The oldest operation of a class retires its credit when it is complete, and a failure stays for a WAIT, or is recorded
at once with ISSUER_GONE where the issuer is EXITED or FAULTED (R73, R74, R112, R125, R378). That all the sectors of a store are
performed in one step is the model's choice of log entry 91. -/
def Obligations.Arrivals : Prop :=
  let place := fun (b : StoreByte) => ({ space := b.space, addr := b.addr } : Loc)
  ∀ (s : State) (r : GroupRef) (m : Team) (g : Group), Present s r m g →
  (∀ (seq : Nat) (o : LdOp), g.ld.find? (fun x => x.seq == seq) = some o →
    let ready := o.srcs.all (fun e => s.locReady { space := e.2.2.1, addr := e.2.2.2 })
    (o.done = true ∨ o.engine = true ∨ ready = false → exec (.loadDataArrival r seq none) s = .next s) ∧
    (o.done = false → o.engine = false → o.fail = none → ready = true →
      ∃ t, exec (.loadDataArrival r seq none) s = .next t ∧ Within s t ∧
      (∀ q, q ≠ r → t.group? q = s.group? q) ∧ ∃ g', t.group? r = some g' ∧
      (∀ (code : Byte) vals, o.delivers = [.lanes code vals] → clsOf code = .v ∨ clsOf code = .m →
        (g'.reg code).tag = .g ∧ (∀ l, l < g.width → (g'.reg code).lanes.getD l 0 =
          ((vals.find? (fun v => v.1 == l)).map (·.2.1)).getD ((g.reg code).lanes.getD l 0)) ∧
        ∀ k : Byte, k ≠ code → g'.reg k = g.reg k) ∧
      (∀ (code : Byte) x, o.delivers = [.whole code x] → clsOf code ≠ .vz → (g'.reg code).tag = x.tag ∧
        (g'.reg code).base = x.base ∧ (g'.reg code).stride = x.stride ∧ (g'.reg code).lanes = x.lanes ∧
        ∀ k : Byte, k ≠ code → g'.reg k = g.reg k) ∧
      g'.ld = g.ld.map (fun x => if x.seq = seq then { x with done := true } else x) ∧ g'.state = g.state ∧ g'.paths = g.paths) ∧
    (o.done = false → o.engine = false → o.fail.isSome → ready = true → ∃ t, exec (.loadDataArrival r seq none) s = .next t ∧
      ∃ g', t.group? r = some g' ∧ g'.regs = g.regs ∧
        g'.ld = g.ld.map (fun x => if x.seq = seq then { x with done := true } else x))) ∧
  (∀ (o : StOp) (before after : List StOp), g.st = before ++ o :: after → o.done = false →
    (∀ x ∈ before ++ after, x.seq ≠ o.seq) →
    (∀ b ∈ o.bytes, b.space = .phys ∨ (∃ c, b.space = .scratch (teamOf r) c)) →
    ((∃ b ∈ o.bytes, s.locReady (place b) = false) → exec (.storePerformed r o.seq) s = .next s) ∧
    ((∀ b ∈ o.bytes, s.locReady (place b) = true) → (∀ x ∈ before, x.done = true ∨ o.meets x = false) →
      ∃ t, exec (.storePerformed r o.seq) s = .next t ∧
      Stores (o.bytes.map place) (o.bytes.map (·.val)) s t ∧
      (∃ g', t.group? r = some g' ∧ g'.st = before ++ { o with done := true } :: after ∧ g'.ld = g.ld ∧ g'.state = g.state
        ∧ g'.regs = g.regs) ∧ (o.irrevocable = true → t.campsFor (teamOf r))) ∧
    ∀ (b1 b2 : List StOp) (x : StOp), before = b1 ++ x :: b2 → x.done = false → o.meets x = true →
      (∀ y ∈ b1 ++ b2, y.seq ≠ x.seq ∧ (y.done = true ∨ (o.meets y = false ∧ x.meets y = false))) →
      (∀ y ∈ after, y.seq ≠ x.seq) → (∀ b ∈ x.bytes, b.space = .phys ∨ (∃ c, b.space = .scratch (teamOf r) c)) →
      (∀ b ∈ x.bytes ++ o.bytes, s.locReady (place b) = true) →
      ∃ t, exec (.storePerformed r o.seq) s = .next t ∧
        ((o.bytes.map place).Nodup → ∀ b ∈ o.bytes, t.readLoc (place b) = b.val) ∧
        ((x.bytes.map place).Nodup → ∀ b ∈ x.bytes, place b ∉ o.bytes.map place → t.readLoc (place b) = b.val) ∧
        (∀ p, p ∉ (x.bytes ++ o.bytes).map place → (∀ g, p.space ≠ .reg g) → t.readLoc p = s.readLoc p) ∧
        ∃ g', t.group? r = some g' ∧ g'.st = b1 ++ { x with done := true } :: b2 ++ { o with done := true } :: after) ∧
  (∀ cls, g.oldest cls = none → exec (.creditRetire r cls) s = .next s) ∧
  ∀ cls seq pc fail, g.oldest cls = some (seq, pc, fail) → ∃ t, exec (.creditRetire r cls) s = .next t ∧
    (∃ g', t.group? r = some g' ∧ g'.counter cls + 1 = g.counter cls ∧ (∀ k, k ≠ cls → g'.counter k = g.counter k) ∧
      g'.state = g.state ∧ g'.regs = g.regs ∧
      g'.fails = g.fails ++ (match fail with
        | some f => if g.state = .exited ∨ g.state = .faulted then [] else [{ cls := cls, seq := seq, pc := pc, info := f }]
        | none => [])) ∧
    ∀ f, fail = some f → g.state = .exited ∨ g.state = .faulted →
      t = ((s.modGroup r (fun x => (x.dropOldest cls).unretry)).putRecord
        { recordOf m r pc f with flags := 3, unit := failUnit cls }).modLaunch r.launch (fun l => { l with faulted := true })

/-- Instructions that hold complete: a release once the group's earlier accesses are performed and no camp or rollback keeps the
team from issuing, before which nothing happens, and in the clock's turn of its partition where it faults (R38, R219);
an emulated narrow-format instruction with the results of a native unit; and a service with its result in D, after which a
camp falls due (R95, R139, R226; Table 9.4). -/
def Obligations.HeldInstructions : Prop :=
  ∀ (s : State) (r : GroupRef) (m : Team) (g : Group), Present s r m g →
  (∀ kind x, g.hold = some (.release kind x) →
    g.quiet = false ∨ (if g.rope.isSome then m.rollsBack else m.camping) = true → exec (.releasePerformed r) s = .next s) ∧
  (g.quiet = true → (if g.rope.isSome then m.rollsBack else m.camping) = false → ∀ x : XF,
    Releases r g s .rel (.rel x) (opX 0x0B 0x04 x) (planRel x) ∧
    Releases r g s .fence (.fence x) (opX 0x0B 0x05 x) (planFence x) ∧
    Releases r g s .barrive (.barrive x) (opX 0x0B 0x07 x) (planArrive .barrive false x) ∧
    Releases r g s .bardrop (.bardrop x) (opX 0x0B 0x08 x) (planArrive .bardrop true x) ∧
    Releases r g s .launch (.launch x) (opX 0x12 0x01 x) (planLaunch x)) ∧
  (∀ x : XF,
    let flt := fun (func : Nat) (plan : Ctx → State → Plan) (el : ElemFn) =>
      Emulates r g s (opX 0x02 func x) plan false (fun c => fltOp (c.fltFmt x) x.round.toNat el)
    flt 0x00 (planFadd x) elFadd ∧ flt 0x01 (planFsub x) elFsub ∧ flt 0x02 (planFmul x) elFmul ∧ flt 0x03 (planFfma x) elFfma ∧
    flt 0x04 (planFmin x) elFmin ∧ flt 0x05 (planFmax x) elFmax ∧ flt 0x06 (planFabs x) elFabs ∧ flt 0x07 (planFneg x) elFneg ∧
    flt 0x08 (planFcmp x) (elFcmp (bits x.f.toNat 0 3)) ∧ flt 0x09 (planFsel x) elFsel ∧
    Emulates r g s (opX 0x03 0x01 x) (planCvtn x) (x.round == 4) (fun c => c.cvtnOp x) ∧
    Emulates r g s (opX 0x03 0x02 x) (planPackn x) (x.round == 4) (fun c => c.packnOp x) ∧
    Emulates r g s (opX 0x03 0x03 x) (planUnpackn x) false (fun c => c.unpacknOp x)) ∧
  ∀ (l : Launch) (d : Byte) (n : Nat) (arg next : Dword) (p : Path), s.launch? r.launch = some l →
    g.hold = some (.svc d n arg next) → runPath g.paths = some p → clsOf d = .s →
    ∃ t, exec (.svcComplete r) s = .next t ∧ t.campsFor (teamOf r) ∧ ∃ g', t.group? r = some g' ∧ g'.hold = none ∧
      (∃ p' ∈ g'.paths, p'.pc = next ∧ p'.mask = p.mask) ∧ (∀ k : Byte, k ≠ d → g'.reg k = g.reg k) ∧ (g'.reg d).tag = .u ∧
      (n = 0 → (g'.reg d).base = arg.extractLsb' 0 32) ∧
      (n = 1 → ((s.districts[l.queue.district]?).bind (·.record)).isSome →
        (g'.reg d).base = BitVec.ofNat 32 (lookupD s.ccSeq (s.ccOf l.queue.district) 0)) ∧
      (n = 2 → (g'.reg d).base = 0 ∧ (l.phase = .running → l.preempt = none →
        (t.launch? r.launch).map (·.preempt) = some (some 7))) ∧
      (3 ≤ n → (g'.reg d).base = 0xFFFFFFFF)

/-- Waits for translations and links end. After an INVAL a walk is made again: the access goes on, waits on, or fails. 2^24
clocks after its record the failure is fatal, and not before. A link access that is not answered within 1 ms, and not one
before, fails with LINK, INNER 1, at the address that reaches over the link; that the time counts from the access's issue,
and from the last unit of a copy, is the model's reading of log entry 53 (R372, R374). -/
def Obligations.TranslationsAndLinks : Prop :=
  (∀ (s : State) (r : GroupRef) (m : Team) (g : Group) (w : Replay), Present s r m g → g.hold = some .xlate → g.replay = some w →
    (w.rewalk = true → ∃ t, exec (.walkComplete (.group r)) s = .next t ∧
      Becomes r (fun x => { x with hold := none, replay := some { w with rewalk := false } }) s t) ∧
    (w.rewalk = false → exec (.walkComplete (.group r)) s = .next s) ∧
    ((s.ctxAt r).isSome = true →
      (w.clk + 2 ^ 24 ≤ s.clk (m.coreOf r.part) → s.faultTurn r = true →
        ∃ t, exec (.replayTimeout (.group r)) s = .next t ∧ t.faultedAt r) ∧
      (s.clk (m.coreOf r.part) < w.clk + 2 ^ 24 ∨ (s.faultTurn r = false ∧ g.state ≠ .faulted) →
        exec (.replayTimeout (.group r)) s = .next s))) ∧
  (∀ (s : State) (r : GroupRef) (m : Team) (g : Group) (seq : Nat) (va pc : Dword) (lanes : Mask) (since : Nat),
    Present s r m g → g.hold = some (.link seq va lanes since) → (s.ctxAt r).isSome = true →
    (∃ o, g.ld.find? (fun o => o.seq == seq) = some o ∧ o.pc = pc) ∨
      (g.ld.find? (fun o => o.seq == seq) = none ∧ ∃ o, g.st.find? (fun o => o.seq == seq) = some o ∧ o.pc = pc) →
    (s.hostClk < since + 1000000 ∨ (s.faultTurn r = false ∧ g.state ≠ .faulted) → exec (.linkTimeout (.group r)) s = .next s) ∧
    (since + 1000000 ≤ s.hostClk → s.faultTurn r = true → ∃ t, exec (.linkTimeout (.group r)) s = .next t ∧ t.faultedAt r ∧
      (∃ s' c, c.ref = r ∧ c.pc = pc ∧ t = takeFault c { code := 0x32, inner := 1, address := va, lanes := lanes } s') ∧
      ∃ g', t.group? r = some g' ∧
      (∀ o ∈ g'.ld, o.seq = seq → o.done = true ∧ o.delivers = []) ∧ ∀ o ∈ g'.st, o.seq = seq → o.done = true)) ∧
  (∀ (s : State) (u : TeamRef) (m : Team) (l : Launch) (id : Nat) (k : Copy) (w : Replay), s.ready.trip = false →
    s.team? u = some m → s.launch? u.launch = some l → m.copy? id = some k → k.replay = some w →
    let asid := s.launchSpace u.launch
    let copy := fun (t : State) (k : Copy) => (t.team? u).bind (·.copy? id) = some k
    let fails := { k with started := true, replay := none
                          fail := some { code := 0x20, inner := w.level, address := w.va } }
    (w.rewalk = true → s.xlate asid w.va.toNat ≠ .error .wait → ∃ t, exec (.walkComplete (.copy u id)) s = .next t ∧
      (∀ x, s.xlate asid w.va.toNat = .ok x → copy t { k with
        replay := none, outbound := k.outbound || s.copyOutbound l m k, since := s.hostClk }) ∧
      (∀ level, s.xlate asid w.va.toNat = .error (.xlate level true) → copy t { k with replay := some { w with rewalk := false } }) ∧
      (∀ level, s.xlate asid w.va.toNat = .error (.xlate level false) → copy t { k with
        started := true, replay := none, fail := some { code := 0x20, inner := level, address := w.va } })) ∧
    (w.rewalk = false ∨ s.xlate asid w.va.toNat = .error .wait → exec (.walkComplete (.copy u id)) s = .next s) ∧
    (m.saved = false →
      (w.clk + 2 ^ 24 ≤ s.clk (m.copyCore k) → ∃ t, exec (.replayTimeout (.copy u id)) s = .next t ∧ copy t fails) ∧
      (s.clk (m.copyCore k) < w.clk + 2 ^ 24 → exec (.replayTimeout (.copy u id)) s = .next s))) ∧
  (∀ (s : State) (u : TeamRef) (m : Team) (l : Launch) (id : Nat) (k : Copy), s.ready.trip = false →
    s.team? u = some m → m.saved = false → s.launch? u.launch = some l → m.copy? id = some k → k.started = true →
    k.fail = none → k.replay = none → k.delivered < k.total →
    (s.hostClk < k.since + 1000000 ∨ s.copyFar l m k = none ∨ s.unitReady l (m.copyCore k) k = false →
      exec (.linkTimeout (.copy u id)) s = .next s) ∧
    ∀ a, k.since + 1000000 ≤ s.hostClk → s.copyFar l m k = some a → s.unitReady l (m.copyCore k) k = true →
      ∃ t, exec (.linkTimeout (.copy u id)) s = .next t ∧
      (t.team? u).bind (·.copy? id) = some { k with fail := some { code := 0x32, inner := 1, address := BitVec.ofNat 64 a } }) ∧
  ∀ (s : State) (quad : Nat) (e : EngEntry), s.ready.trip = false → (s.engine quad).current = some e →
    let out := fun (t : State) (f : FaultInfo) => (∀ x ∈ (t.engine quad).entries, x.age ≠ e.age) ∧ (t.engine quad).busy = none ∧
      ∀ g, t.group? e.group = some g → ∀ o ∈ g.tl, o.seq = e.seq → o.done = true ∧ o.fail = some f
    (∀ w, e.replay = some w →
      (w.rewalk = true → ∃ t, exec (.walkComplete (.engine quad)) s = .next t ∧
        (∀ x, s.xlate (s.launchSpace e.group.launch) w.va.toNat = .ok x →
          (t.engine quad).current = some { e with replay := none } ∧ (t.engine quad).since = s.hostClk) ∧
        ∀ level, s.xlate (s.launchSpace e.group.launch) w.va.toNat = .error (.xlate level false) →
          out t { code := 0x20, inner := level, address := w.va }) ∧
      (∀ m, s.team? (teamOf e.group) = some m →
        (w.clk + 2 ^ 24 ≤ s.clk e.core → ∃ t, exec (.replayTimeout (.engine quad)) s = .next t ∧
          out t { code := 0x20, inner := w.level, address := w.va }) ∧
        (s.clk e.core < w.clk + 2 ^ 24 → exec (.replayTimeout (.engine quad)) s = .next s))) ∧
    ∀ (m : Team) (l : Launch), s.team? (teamOf e.group) = some m → s.launch? e.group.launch = some l → e.replay = none →
      (s.hostClk < (s.engine quad).since + 1000000 ∨ s.engineFar l e = none ∨ s.moveReady l e = false →
        exec (.linkTimeout (.engine quad)) s = .next s) ∧
      ∀ d ep pitch fmt ls i, e.op = .mld d ep pitch fmt → (s.engine quad).since + 1000000 ≤ s.hostClk → s.moveReady l e = true →
        (s.engineFar l e).isSome = true → e.row < 64 → s.epRow l e.core ep (e.row * pitch) (8 * fmt.width) 1 = .ok ls →
        (∀ j p, j < i → ls[j]? = some p → p.remote = false) → (ls[i]?).any Loc.remote = true →
        ∃ t, exec (.linkTimeout (.engine quad)) s = .next t ∧
          out t { code := 0x32, inner := 1, address := BitVec.ofNat 64 (epAddr ep (e.row * pitch + i)) } ∧
          ∀ p, (∀ g, p.space ≠ .reg g) → t.readLoc p = s.readLoc p

/-! ## Copies and quad engines (05 R118; 10 R251, R254; 11 R264 to R284) -/

/-- A unit of a copy moves its bytes from the source to each destination and counts them in each destination's sync word:
COUNT goes up by the bytes of the unit, and at TARGET it goes to 0 and GEN up by 1. The copy completes when all its bytes are
delivered or it has failed: its CP operation is complete, with the failure, and it is gone (R118, R135, R251, R254). That the
source is read in the step that delivers the unit is the model's choice of log entry 17, and that a later failure is reported
in place of an overrun that of log entry 117. -/
def Obligations.Copies : Prop :=
  ∀ (s : State) (u : TeamRef) (m : Team) (l : Launch) (id : Nat) (k : Copy), s.ready.trip = false → s.team? u = some m →
  m.saved = false → s.launch? u.launch = some l → m.copy? id = some k →
  (∀ (src : List Loc) (dsts words : List (List Loc)), k.fail = none → k.replay = none → k.delivered < k.total →
    k.started = true ∨ m.mayStart k = true →
    let n := k.unitLen k.delivered
    let off := k.byteAt k.delivered
    s.epLocs l (m.copyCore k) k.src off.1 n 1 = .ok src →
    k.dests.map (fun ep => s.epLocs l (m.copyCore k) ep off.2 n 2) = dsts.map .ok →
    k.words.map (fun w => s.scratchLocs l (m.copyCore k) w.toNat 16) = words.map .ok →
    s.unitBlocked l m k dsts.flatten = false → (∀ p ∈ src ++ dsts.flatten, s.locReady p = true) →
    (∀ p ∈ src ++ words.flatten, s.poisonAt p = none) → (dsts.flatten ++ words.flatten).Nodup →
    (∀ p ∈ dsts.flatten, p.space = .phys ∨ ∃ v c, p.space = .scratch v c) →
    (s.putUnit l m k n (src.map s.readLoc)).1.logFits (m.copyCore k) = true →
    ∃ t, exec (.copyUnitDelivery u id none) s = .next t ∧
      (∃ k', (t.team? u).bind (·.copy? id) = some k' ∧ k'.delivered = k.delivered + n ∧ k'.started = true ∧ k'.fail = none) ∧
      (∀ d ∈ dsts, d.map t.readLoc = src.map s.readLoc) ∧
      (∀ w ∈ words, ∃ target count gen, (w.take 4).map s.readLoc = leBytes target 4 ∧ target < 2 ^ 32 ∧
        ((w.drop 4).take 4).map s.readLoc = leBytes count 4 ∧ count < 2 ^ 32 ∧ ((w.drop 8).take 4).map s.readLoc = leBytes gen 4 ∧
        (w.take 4).map t.readLoc = leBytes target 4 ∧
        ((w.drop 4).take 4).map t.readLoc = leBytes (if target = 0 then count else if count + n < target then count + n else 0) 4 ∧
        ((w.drop 8).take 4).map t.readLoc = leBytes (if target = 0 ∨ count + n < target then gen else gen + 1) 4) ∧
      ∀ p, p ∉ dsts.flatten → p ∉ words.flatten → (∀ g, p.space ≠ .reg g) → t.readLoc p = s.readLoc p) ∧
  (k.fail = none → k.delivered < k.total → exec (.copyComplete u id) s = .next s) ∧
  (k.fail.isSome = true ∨ k.total ≤ k.delivered → ∃ t, exec (.copyComplete u id) s = .next t ∧
    (t.team? u).map (·.cur.copies) = some (m.cur.copies.filter (fun e => e.id != id)) ∧
    (∀ g, t.group? (m.copyGroup k) = some g → ∀ o ∈ g.cp, o.copy = id → o.done = true ∧
      o.fail = k.fail.orElse (fun _ => k.overrun)) ∧ (k.outbound = true → t.campsFor u))

/-- A free engine starts the eligible entry of the lowest CLASS, of these the oldest. An MLEASE is granted at once and leaves
the table; a lease ends after 64 clocks in which no entry of the leasing team was eligible. An operation in progress is
performed as one step, once the channels of what it moves are ready (R347), and leaves the table, its TL operation complete,
and counts one against its team's lease; one whose row waits for a translation stays, to go on at that row; the camp of an MST
that writes outside its team or into another group's register falls due (R79, R130, R133, R135, R264 to R266, R273, R374). -/
def Obligations.EngineSteps : Prop := ∀ (s : State) (quad : Nat), s.ready.trip = false →
  let g := s.engine quad
  let rest := fun (t : State) => ∀ q, q ≠ quad → t.engine q = s.engine q
  (g.busy.isSome = true ∨ (∀ e ∈ g.entries, s.eligible g e = false) → exec (.engineOpStart quad) s = .next s) ∧
  (∀ e ∈ g.entries, g.busy = none → s.eligible g e = true →
    (∀ x ∈ g.entries, s.eligible g x = true → x = e ∨ s.entryPrio e < s.entryPrio x ∨
      (s.entryPrio e = s.entryPrio x ∧ e.age < x.age)) →
    ∃ t, exec (.engineOpStart quad) s = .next t ∧ rest t ∧
      ((∀ n, e.op ≠ .mlease n) → t.engine quad = { g with busy := some e.age, idle := 0, since := s.hostClk } ∧
        ∀ r, t.group? r = s.group? r) ∧
      (∀ n, e.op = .mlease n → t.engine quad = { g with
          entries := g.entries.filter (fun x => x.age != e.age), lease := some (teamOf e.group, n), idle := 0 } ∧
        ∀ x, t.group? e.group = some x → ∀ o ∈ x.tl, o.seq = e.seq → o.done = true ∧ o.fail = none)) ∧
  (∃ t, exec (.leaseIdleTimeout quad) s = .next t ∧ rest t ∧ (∀ r, t.group? r = s.group? r) ∧
    (t.engine quad).lease = (if 64 ≤ g.idle then none else g.lease) ∧ (t.engine quad).entries = g.entries) ∧
  ∀ (e : EngEntry) (m : Team) (l : Launch) (err : Option DataErr), g.current = some e → e.replay = none →
    s.team? (teamOf e.group) = some m → s.launch? e.group.launch = some l →
    let moved := s.movedPlaces l e
    let p := (match err with
      | none => s
      | some x => s.noteErr (teamOf e.group) e.core x).performOp e err
    (s.moveReady l e = false → exec (.engineOpComplete quad err) s = .next s) ∧
    (s.moveReady l e = true →
      (∀ a level, p.replay = some (a, level) → ∃ t, exec (.engineOpComplete quad err) s = .next t ∧
        (t.engine quad).current = some { e with
          row := p.row, outbound := e.outboundBy moved
          replay := some { clk := s.clk e.core, va := BitVec.ofNat 64 a, level := level } } ∧
        ∀ x, (∀ r, x.space ≠ .reg r) → t.readLoc x = p.s.readLoc x) ∧
      (p.replay = none → ∃ t, exec (.engineOpComplete quad err) s = .next t ∧ t.engineFree quad e p.fail ∧
        (∀ x, (∀ r, x.space ≠ .reg r) → t.readLoc x = p.s.readLoc x) ∧
        (t.engine quad).lease = (match g.lease with
          | some (v, n) => if v = teamOf e.group then (if n ≤ 1 then none else some (v, n - 1)) else some (v, n)
          | none => none) ∧ (e.outboundBy moved = true → t.campsFor (teamOf e.group))))

/-- MZERO t writes +0 (0x00000000) to all 4,096 elements of t, as one step: the one in which the engine completes it (R270).
Every other tile, all of translated memory and all scratchpad stay as they are. -/
def Obligations.ZeroedTiles : Prop :=
  ∀ (s : State) (quad : Nat) (e : EngEntry) (m : Team) (l : Launch) (d : Nat), s.ready.trip = false →
  (s.engine quad).current = some e → e.replay = none → s.team? (teamOf e.group) = some m →
  s.launch? e.group.launch = some l → e.op = .mzero d →
  ∃ t, exec (.engineOpComplete quad none) s = .next t ∧ t.engineFree quad e none ∧
    (∀ i, i < 4096 → ((t.shareOf (teamOf e.group) (e.core - m.core)).tile d)[i]? = some 0) ∧
    (∀ w c x, ¬(w = teamOf e.group ∧ c = e.core - m.core ∧ x = d) → (t.shareOf w c).tile x = (s.shareOf w c).tile x) ∧
    ∀ p : Loc, p.space = .phys ∨ (∃ w c, p.space = .scratch w c) → t.readLoc p = s.readLoc p

/-- What the engine makes of matrix operations. MMA: every element of D is one exact sum rounded once, or for integers one sum
saturated once. MPUT replaces a column, MCOL delivers one, MLD loads 64 rows, and MST stores them, in scratchpad or in
translated memory, where no row lies in a page table that translates a row (R257, R260, R267, R268, R271 to R274). That slabs
and memory are read and written in the step that completes the operation is the model's choice of log entry 18. -/
def Obligations.MatrixResults : Prop :=
  ∀ (s : State) (quad : Nat) (e : EngEntry) (m : Team) (l : Launch), s.ready.trip = false → (s.engine quad).current = some e →
  e.replay = none → s.team? (teamOf e.group) = some m → s.launch? e.group.launch = some l →
  let u := teamOf e.group
  let idx := e.core - m.core
  let old := fun (d i j : Nat) => ((s.shareOf u idx).tile d).getD (64 * i + j) 0
  let leads := fun (post : State → Prop) => ∃ t, exec (.engineOpComplete quad none) s = .next t ∧ t.engineFree quad e none ∧ post t
  let makes := fun (d : Nat) (v : Nat → Nat → Word) (t : State) =>
    (∀ i j, i < 64 → j < 64 → ((t.shareOf u idx).tile d).getD (64 * i + j) 0 = v i j) ∧
    ∀ w c x, ¬(w = u ∧ c = idx ∧ x = d) → (t.shareOf w c).tile x = (s.shareOf w c).tile x
  (∀ d vals c, e.op = .mput d vals c → leads (makes d (fun i j => if j = c then vals.getD i 0 else old d i j))) ∧
  (∀ (v : Byte) d c exec_, e.op = .mcol v d c exec_ → (s.shareOf u idx).tilePoison = [] → leads (fun t =>
    ∀ g, t.group? e.group = some g → ∀ o ∈ g.ld, o.seq = e.seq →
      o.delivers = [.lanes v ((lanesOf 64 exec_).map (fun i => (i, old d i c, none)))] ∧ o.engine = false)) ∧
  (∀ d a b fa fb scales sel round, e.op = .mma d a b fa fb scales sel round →
    s.slabErr l e.core a.toNat = none → s.slabErr l e.core b.toNat = none →
    let row := fun (a : Word) (i : Nat) => (s.slabLocs l e.core a.toNat).getD i []
    (∀ i, i < 64 → ∀ p ∈ row a i ++ row b i, s.poisonAt p = none) → (s.shareOf u idx).tilePoison = [] →
    let bytes := fun (a : Word) (i : Nat) => (row a i).map s.readLoc
    (fa.int.isSome = true → leads (makes d (fun i j =>
      sat32 ((old d i j).toInt + (List.zipWith (· * ·) (fa.ints (bytes a i)) (fb.ints (bytes b j))).sum)))) ∧
    (fa.int = none → leads (makes d (fun i j =>
      BitVec.ofNat 32 (Fp.roundSum Fp.fp32 round (Fp.val32 (old d i j) :: List.zipWith Fp.mul
        (fa.vals (bytes a i) (scales.map (fun p => p.1.getD i 0)) sel)
        (fb.vals (bytes b j) (scales.map (fun p => p.2.getD j 0)) sel))).1)))) ∧
  (∀ d ep pitch fmt (rows : List (List Loc)), e.op = .mld d ep pitch fmt → e.row = 0 → rows.length = 64 →
    s.moveReady l e = true →
    (∀ r ls, rows[r]? = some ls → s.epRow l e.core ep (r * pitch) (8 * fmt.width) 1 = .ok ls ∧
      ∀ p ∈ ls, s.poisonAt p = none ∧ (p.space = .phys ∨ ∃ v c, p.space = .scratch v c)) →
    leads (makes d (fun i j => (fmt.loadRow ((rows.getD i []).map s.readLoc)).getD j 0))) ∧
  ∀ d ep pitch fmt round sr (rows : List (List Loc)), e.op = .mst d ep pitch fmt round sr → e.row = 0 →
    rows.length = 64 → (s.shareOf u idx).tilePoison = [] → s.moveReady l e = true →
    let stores := leads (Stores rows.flatten ((List.range 64).flatMap (fun r =>
      (fmt.storeRow round (rowRand sr r) ((List.range 64).map (old d r))).1)) s)
    (∀ r ls, rows[r]? = some ls → s.epRow l e.core ep (r * pitch) (8 * fmt.width) 2 = .ok ls) →
    (isScratchEp ep = true ∨ ((∀ p ∈ rows.flatten, p.space = .phys) ∧ s.Fixed (s.spaceOfVdev (vkeyOfQ l.queue))
      ((List.range 64).flatMap (fun r => (List.range (8 * fmt.width)).map (fun i => (ep.toNat + r * pitch + i) % 2 ^ 64)))
      rows.flatten)) → stores

/-- What the engine makes of orthogonal-accumulator operations on a valid slot: QINIT binds and clears it, QACC appends a
reflector where there is room, QFOLD and QAPL or QAPR compute on V, T and the base, QSTAT delivers the state word, QCLR
empties the slot, HHGEN makes a reflector. A slot that is full folds or clears by its policy, or fails (R277 to R284). -/
def Obligations.OrthResults : Prop :=
  ∀ (s : State) (quad : Nat) (e : EngEntry) (m : Team) (l : Launch), s.ready.trip = false → (s.engine quad).current = some e →
  e.replay = none → s.team? (teamOf e.group) = some m → s.launch? e.group.launch = some l →
  let u := teamOf e.group
  let idx := e.core - m.core
  let rows := fun (d : Nat) => tileRows ((s.shareOf u idx).tile d)
  let leads := fun (post : State → Prop) => ∃ t, exec (.engineOpComplete quad none) s = .next t ∧ t.engineFree quad e none ∧ post t
  let fails := fun (f : FaultInfo) => ∃ t, exec (.engineOpComplete quad none) s = .next t ∧ t.engineFree quad e (some f) ∧
    ∀ p, (∀ r, p.space ≠ .reg r) → t.readLoc p = s.readLoc p
  let tile := fun (t : State) (d : Nat) (x : Mat) => (t.shareOf u idx).tile d = x.flatten
  let same := fun (t : State) (ds : List Nat) =>
    ∀ w c x, ¬(w = u ∧ c = idx ∧ x ∈ ds) → (t.shareOf w c).tile x = (s.shareOf w c).tile x
  let flags := fun (t : State) (f : Flags) => (t.group? e.group).map (·.flags) = (s.group? e.group).map (fun g => g.flags ||| f)
  let lands := fun (b : QBind) (o : OrthOut) (t : State) => tile t b.tA o.tA ∧ flags t o.flags ∧
    (∀ x d, o.tB = some x → b.tB = some d → tile t d x) ∧ same t b.tiles
  (∀ q tA tB cap policy, e.op = .qinit q tA tB cap policy → leads (fun t =>
    ((t.shareOf u idx).qs.find? (fun x => x.1 == q)).map (·.2) = some { tA := tA, tB := tB } ∧ same t [tA] ∧
    (t.shareOf u idx).tile tA = (List.replicate 4096 0).set stateElem (orthWord policy false cap 0))) ∧
  (∀ (v : Byte) vals exec_ j (sT : Byte) round g, e.op = .hhgen v vals exec_ j sT round → s.group? e.group = some g →
    clsOf v = .v → clsOf sT = .s → clsOf (sT + 1) = .s → leads (fun t => ∃ g', t.group? e.group = some g' ∧
      (∀ i, i < g.width → (g'.reg v).lanes.getD i 0 =
        if laneBit exec_ i then (hhgen round vals j).1.getD i 0 else (g.reg v).lanes.getD i 0) ∧
      (g'.reg sT).base = (hhgen round vals j).2.1 ∧ (g'.reg (sT + 1)).base = (hhgen round vals j).2.2.1 ∧
      g'.flags = g.flags ||| (hhgen round vals j).2.2.2)) ∧
  (∀ (d : Byte) q, e.op = .qstat d q → (s.shareOf u idx).tilePoison = [] → leads (fun t =>
    let word := (((s.shareOf u idx).qs.find? (fun x => x.1 == q)).map (fun x => ((s.shareOf u idx).orth x.2).word)).getD 0
    ∀ g, t.group? e.group = some g → ∀ o ∈ g.ld, o.seq = e.seq → o.engine = false ∧
      o.delivers = [.whole d { tag := .u, base := word }])) ∧
  ∀ (q : Nat) (b : QBind), ((s.shareOf u idx).qs.find? (fun x => x.1 == q)).map (·.2) = some b →
    let w := (s.shareOf u idx).orth b
    let base := if w.folded then b.tB.map rows else none
    (w.valid b.tB.isSome = false → (∀ vals tau round, e.op = .qacc q vals tau round → fails (orthFault 0x11 q w.word e.lanes)) ∧
      (e.op = .qclr q → fails (orthFault 0x11 q w.word e.lanes)) ∧
      ∀ round, e.op = .qfold q round → fails (orthFault 0x11 q w.word e.lanes)) ∧
    (w.valid b.tB.isSome = true → b.tB ≠ some b.tA → (s.shareOf u idx).tilePoison = [] →
      (∀ vals tau round, e.op = .qacc q vals tau round →
        (w.count < w.cap → leads (lands b (qappend round (rows b.tA) w vals tau))) ∧
        (w.count = w.cap → w.policy = 0 → ∀ d, b.tB = some d →
          let o := qfold round (rows b.tA) (rows d) w
          let p := qappend round o.tA { word := orthWord 0 true w.cap 0 } vals tau
          leads (lands b { tA := p.tA, tB := o.tB, flags := o.flags ||| p.flags })) ∧
        (w.count = w.cap → w.policy = 1 → fails (orthFault 0x10 q w.word e.lanes)) ∧
        (w.count = w.cap → w.policy = 2 → leads (lands b (qappend round (clearVT (rows b.tA) (orthWord 2 w.folded w.cap 0))
          { word := orthWord 2 w.folded w.cap 0 } vals tau)))) ∧
      (e.op = .qclr q → leads (lands b { tA := clearVT (rows b.tA) (orthWord w.policy false w.cap 0) })) ∧
      (∀ round d, e.op = .qfold q round → b.tB = some d → leads (lands b (qfold round (rows b.tA) (rows d) w))) ∧
      (∀ left x tr round, e.op = .qapTile left x q tr round → leads (fun t =>
        let o := qapply round left tr (rows b.tA) base w.count (rows x) 64
        tile t x o.1 ∧ same t [x] ∧ flags t o.2)) ∧
      ∀ left (v : Byte) vals exec_ tr round g, e.op = .qapReg left v vals exec_ q tr round → s.group? e.group = some g →
        clsOf v = .v → leads (fun t => ∃ g', t.group? e.group = some g' ∧ ∀ i, i < g.width → (g'.reg v).lanes.getD i 0 =
          if laneBit exec_ i then ((qapply round left tr (rows b.tA) base w.count
            (if left then vals.map (fun y => [y]) else [vals]) (if left then 1 else 64)).1.flatten).getD i 0
          else (g.reg v).lanes.getD i 0))

/-! ## Camps, retirement and the debugger (02 R23; 16 R318, R322; 17 R354 to R357; 21 R391) -/

/-- A camp falls due CAMPINT clocks after the last. It is taken when every LD, ST and TL counter of the team is zero and no
rope of it is active, before a rollback only where R322 puts it first, and once a rope of the core that met the full log has
been dealt with (R54, R55): it records the team as it stands and frees the undo log. A full log makes a camp due for every team of
the core; of a team that leads a rope it faults the leader with QUOTA, INNER 1 when an irrevocable operation has pinned the
rope; of one that is not pinned it rolls the team back, as soon as that can be, with a fresh camp there, and the leader of a
rope whose own writes fill the log faults with QUOTA, INNER 0. A team whose groups are all done retires (R23, R55, R82, R322,
R369). -/
def Obligations.CampsAndRetirement : Prop :=
  let quota := fun (m : Team) (r : GroupRef) (rope : Rope) (inner : Nat) =>
    recordOf m r rope.recruitPc { code := 0x40, inner := inner, lanes := 1#64 <<< rope.leaderLane }
  let rolled := fun (s : State) (m : Team) (r : GroupRef) (rope : Rope) (t : State) =>
    ((m.camp.parts[r.part]?).bind (fun q => q.groups[r.grp]?)).isSome = true → t.faultedAt r ∧
      ∃ (s' : State) (m' : Team), t = s'.faultGroup r (quota m r rope 0) rope.recruitPc ∧ s'.team? m.ref = some m' ∧ m'.undo = [] ∧ m'.log = [] ∧
        m'.campDue = none ∧ m'.lastCamp = s.clk m.core
  (∀ (s : State) (u : TeamRef) (m : Team), s.ready.trip = false → s.team? u = some m → m.saved = false →
    let next := m.lastCamp + 2 ^ (s.quota m.district).campInt
    (s.clk m.core < next → exec (.campInterval u) s = .next s) ∧
    (next ≤ s.clk m.core → ∃ t, exec (.campInterval u) s = .next t ∧ Within s t ∧ t.campsFor u ∧ ∀ r, t.group? r = s.group? r) ∧
    let roped := ∃ v ∈ s.teams, v.core / 2 = m.core / 2 ∧ s.ropeLogDue v = true
    (m.campDue = none ∨ (∃ e ∈ m.allGroups, e.2.ld ≠ [] ∨ e.2.st ≠ [] ∨ e.2.tl ≠ [] ∨ e.2.rope.isSome) ∨
        (m.rollDue = true ∧ m.campBlocks = false) ∨ roped → exec (.camp u) s = .next s) ∧
    (m.campDue.isSome = true → m.rollDue = false ∨ m.campBlocks = true → ¬roped →
      (∀ q ∈ m.cur.parts, ∀ g ∈ q.groups, g.ld = [] ∧ g.st = [] ∧ g.tl = [] ∧ g.rope = none ∧ g.hold ≠ some .xlate) →
      ∃ t, exec (.camp u) s = .next t ∧ Within s t ∧
        (∀ r, teamOf r = u → t.group? r = (s.group? r).map (fun g =>
          { g with hold := if g.hold = some .camp ∨ g.hold = some .undoLog then none else g.hold })) ∧
        ∃ m', t.team? u = some m' ∧ m'.campDue = none ∧ m'.undo = [] ∧ m'.log = [] ∧ m'.lastCamp = s.clk m.core ∧
          m'.camp.cores = m.cur.cores ∧ m'.camp.cursor = m.cur.cursor ∧ m'.camp.locks = m.cur.locks ∧ m'.campShare = m.share ∧
          m'.camp.parts = m.cur.parts.map (fun q => { q with
            groups := q.groups.map (fun g => { g with hold := none, replay := none, stepDue := none }) }))) ∧
  (∀ (s : State) (core : Nat), s.ready.trip = false →
    ((∀ m ∈ s.teamsIn core, m.logWaits = false) → exec (.undoLogFull core) s = .next s) ∧
    ((∃ m ∈ s.teamsIn core, m.logWaits = true) → (∀ m ∈ s.teamsIn core, m.roped = false) →
      ∃ t, exec (.undoLogFull core) s = .next t ∧ Within s t ∧ (∀ m ∈ s.teamsIn core, t.campsFor m.ref) ∧
        ∀ r, t.group? r = s.group? r) ∧
    ∀ m, s.teamsIn core = [m] → s.team? m.ref = some m → m.logWaits = true →
      ((∃ e ∈ m.ropes, e.2.pinned = true ∧ s.faultTurn e.1 = false) → exec (.undoLogFull core) s = .next s) ∧
      (∀ r g rope, (r, g) ∈ m.allGroups → g.rope = some rope → rope.pinned = true →
        (∀ e ∈ m.ropes, e.2.pinned = true → s.faultTurn e.1 = true) → ∃ t, exec (.undoLogFull core) s = .next t ∧ t.faultedAt r ∧
          ((∀ e ∈ m.ropes, e.2.pinned = true → e = (r, rope)) → t = s.faultGroup r (quota m r rope 1) rope.recruitPc)) ∧
      ((∀ e ∈ m.ropes, e.2.pinned = false) → m.ropes ≠ [] → m.rollDue = false →
        let full := fun (rope : Rope) => rope.logBytes ≠ 0 ∧ rope.logBytes = s.coreLog core
        (s.canRoll m = false → ∃ t, exec (.undoLogFull core) s = .next t ∧ ∃ m', t.team? m.ref = some m' ∧ m'.rollDue = true ∧
          m'.logRoll = true ∧ ∀ r rope, (r, rope) ∈ m.ropes → ∃ x, ((t.group? r).bind (·.rope)) = some x ∧
            (x.alone = true ↔ full rope)) ∧
        (s.canRoll m = true → m.logBad = false → ∃ t, exec (.undoLogFull core) s = .next t ∧
          ∀ r rope, (r, rope) ∈ m.ropes → full rope → (∀ e ∈ m.ropes, full e.2 → e = (r, rope)) → rolled s m r rope t))) ∧
  (∀ (s : State) (m : Team) (l : Launch) (r : GroupRef) (rope : Rope), s.team? m.ref = some m →
    s.launch? m.ref.launch = some l → m.rollDue = true → m.logRoll = true → l.preempt = none → l.stopDue = none →
    s.canRoll m = true → m.logBad = false → (r, rope) ∈ m.ropes → rope.alone = true →
    (∀ e ∈ m.ropes, e.2.alone = true → e = (r, rope)) → rolled s m r rope (s.settleRoll m)) ∧
  ∀ (s : State) (u : TeamRef) (m : Team), s.ready.trip = false → s.team? u = some m → m.saved = false →
    let over_ := (∀ q ∈ m.cur.parts, ∀ g ∈ q.groups, g.state = .exited ∨ (g.state = .faulted ∧ g.stopped = true)) ∧
      m.cur.copies = [] ∧ s.engineWork m = false ∧ s.storesReady m = true
    (¬over_ → exec (.teamRetire u) s = .next s) ∧
    (over_ → ∃ t, exec (.teamRetire u) s = .next t ∧ t.team? u = none ∧
      (∀ v, v ≠ u → (t.team? v).isSome = (s.team? v).isSome) ∧ (t.engine (quadOf m.core)).leasedTo u = false ∧
      ((∀ e ∈ m.allGroups, (∀ o ∈ e.2.st, o.done = true) ∧ e.2.leftFails = []) → s.freq.getD (clusterOf m.core) 1100 = 1100 →
        t.mem = s.mem))

/-- The debugger's commands, from the function that holds the right over the launch, which one function at a time does: a
grant, a halt of a team, which takes effect between two instructions of every group, one step of a halted group, the release,
reads without effect, writes that set EDITED and are followed by a camp, a sample of a register, and the end of the right,
after which halted groups go on and a group held after a fault is stopped. Without the right the result is 2 (R354 to R357,
R391). When a grant, a halt or a resume replies and the layout of SHADOW's result are the model's choices of log entry 67;
what a window write makes of a whole register is that of log entry 111. -/
def Obligations.Debugging : Prop :=
  ∀ (s : State) (f : Fn) (mb : MbCtl) (n : Nat), Takes s f → f.num = 0 →
  (∀ i : Instr, (∃ ring size, i = .dbggrant f mb n ring size) → (s.right? n).isSome = true → Answers i f mb s 2 [] (OnlyMailbox f s)) ∧
  (∀ (ring : Dword) (size k : Nat), s.right? n = none → (s.launch? n).isSome = true → ring.toNat % 64 = 0 → size = 16 * 2 ^ k →
    k ≤ 12 → ring.toNat + 64 + 64 * size ≤ Config.lpddrBytes →
    Answers (.dbggrant f mb n ring size) f mb s 0 [] (fun t =>
      t.rights = s.rights ++ [{ launch := n, fn := f, ring := ring, size := size }] ∧
      (s.pready ring.toNat 64 = true → cellReads t.mem ring.toNat 64 = leBytes 0 16 ++ leBytes size 4 ++ List.replicate 44 0))) ∧
  (∀ ring size, s.right? n = none → (s.launch? n = none ∨ ring.toNat % 64 ≠ 0 ∨ (∀ k, k ≤ 12 → size ≠ 16 * 2 ^ k)) →
    Answers (.dbggrant f mb n ring size) f mb s 3 [] (OnlyMailbox f s)) ∧
  ((∀ d, s.right? n = some d → d.fn ≠ f) → ∀ i : Instr, ((∃ team, i = .dbghalt f mb n team) ∨ (∃ r : GroupRef, r.launch = n ∧ i = .dbgstep f mb r)
      ∨ (∃ team, i = .dbgresume f mb n team) ∨ (∃ core kind off k, i = .dbgread f mb n core kind off k)
      ∨ (∃ core target data, i = .dbgwrite f mb n core target data) ∨ ∃ core part grp code, i = .shadow f mb n core part grp code) →
    Answers i f mb s 2 [] (OnlyMailbox f s)) ∧
  ∀ d, s.right? n = some d → d.fn = f →
    (Answers (.dbgrevoke f mb n) f mb s 0 [] (fun t => t.right? n = none ∧
      ∀ r : GroupRef, r.launch = n → t.group? r = (s.group? r).map (fun g =>
        { g with halted := false, stopped := g.stopped || g.state == .faulted }))) ∧
    (∀ team m, s.team? { launch := n, team := team } = some m → Answers (.dbghalt f mb n team) f mb s 0 [] (fun t =>
      (∀ r, t.group? r = (s.group? r).map (fun g => if teamOf r = { launch := n, team := team } then
        (if g.over_ then g else { g with halted := true }) else g)) ∧
      (t.team? { launch := n, team := team }).map (·.haltDue) = some true)) ∧
    (∀ team m, s.team? { launch := n, team := team } = some m → Answers (.dbgresume f mb n team) f mb s 0 [] (fun t =>
      ∀ r, t.group? r = (s.group? r).map (fun g => if teamOf r = { launch := n, team := team } then g.release else g))) ∧
    (∀ team, s.team? { launch := n, team := team } = none → Answers (.dbghalt f mb n team) f mb s 3 [] (OnlyMailbox f s) ∧
      Answers (.dbgresume f mb n team) f mb s 3 [] (OnlyMailbox f s)) ∧
    (∀ (r : GroupRef) (g : Group), r.launch = n → s.group? r = some g →
      (g.halted = false ∨ g.over_ = true → Answers (.dbgstep f mb r) f mb s 3 [] (OnlyMailbox f s)) ∧
      (g.halted = true → g.over_ = false → ∃ t, exec (.dbgstep f mb r) s = .next t ∧ t.pendingFor f ∧
        (∀ q, q ≠ r → t.group? q = s.group? q) ∧ t.group? r = some (if g.state = .faulted then
          { g.release with halted := true, stepDue := some (f, mb) } else { g with stepDue := some (f, mb) }))) ∧
    (∀ l core kind off k, s.launch? n = some l →
      (∀ ls, s.windowLocs l core kind off k = some ls → k ≤ 32 → kind ≤ 3 → core < 512 →
        Answers (.dbgread f mb n core kind off k) f mb s 0 (ls.map s.readLoc) (OnlyMailbox f s)) ∧
      (s.windowLocs l core kind off k = none ∨ 32 < k ∨ 3 < kind ∨ 512 ≤ core →
        Answers (.dbgread f mb n core kind off k) f mb s 3 [] (OnlyMailbox f s))) ∧
    (∀ l m core, s.launch? n = some l → s.teamOnCore n core = some m → s.team? m.ref = some m →
      (∀ kind off data ls, s.windowLocs l core kind off data.length = some ls → data.length ≤ 32 → kind ≤ 2 → core < 512 →
        Answers (.dbgwrite f mb n core (.window kind off) data) f mb s 0 [] (fun t => t.campsFor m.ref ∧
          (t.launch? n).map (·.edited) = some true ∧
          (∀ i p, ls[i]? = some p → (∀ r, p.space ≠ .reg r) → t.readLoc p = data.getD i 0) ∧
          ∀ (r : GroupRef) (code : Byte) (lane : Nat) (g : Group), s.group? r = some g → lane < g.width → g.width ≤ 64 →
            clsOf code = .w ∨ clsOf code = .s → data.length = 4 →
            ls = (List.range 4).map (fun i => { space := .reg r, addr := 256 * code.toNat + 4 * lane + i }) →
            (t.group? r).map (fun x => ((x.reg code).tag, (x.reg code).base)) = some (.u, BitVec.ofNat 32 (leNat data)))) ∧
      (∀ part grp code lane data g g', part < 4 → debugCode l.desc code = true →
        let r : GroupRef := { launch := n, team := m.ref.team, part := 4 * (core - m.core) + part, grp := grp }
        s.group? r = some g → g.debugWrite code lane data = some g' →
        Answers (.dbgwrite f mb n core (.register part grp code lane) data) f mb s 0 [] (fun t => t.campsFor m.ref ∧
          (t.launch? n).map (·.edited) = some true ∧ t.group? r = some { g' with edited := true } ∧ ∀ q, q ≠ r → t.group? q = s.group? q)) ∧
      ∀ part grp code g, part < 4 → windowCode l.desc code = true →
        s.group? { launch := n, team := m.ref.team, part := 4 * (core - m.core) + part, grp := grp } = some g →
        Answers (.shadow f mb n core part grp code) f mb s 0
          (leBytes (match (g.reg code).tag with
            | .u => 0
            | .a => 1
            | .g => 2) 4 ++ (List.range g.width).flatMap (fun i => leBytes (g.windowWord code i).toNat 4)) (OnlyMailbox f s)) ∧
    ∀ team m, s.team? { launch := n, team := team } = some m → m.saved = false → m.haltDue = true →
      let u : TeamRef := { launch := n, team := team }
      (m.haltReady = false → exec (.teamHalted u) s = .next s) ∧
      (m.haltReady = true → ∃ t, exec (.teamHalted u) s = .next t ∧ t.campsFor u ∧
        (t.team? u).map (·.haltDue) = some false ∧ (∀ r, t.group? r = s.group? r) ∧
        ((s.group? m.haltGroup).isSome = true → cellLe s.mem d.ring.toNat 8 - cellLe s.mem (d.ring.toNat + 8) 8 < d.size →
          s.pready d.ring.toNat 24 = true →
          s.pready (d.ring.toNat + 64 + 64 * (cellLe s.mem d.ring.toNat 8 % d.size)) 64 = true →
          cellLe t.mem d.ring.toNat 8 = (cellLe s.mem d.ring.toNat 8 + 1) % 2 ^ 64 ∧
          cellLe t.mem (d.ring.toNat + 64 + 64 * (cellLe s.mem d.ring.toNat 8 % d.size)) 4 = 1))

/-! ## Mailbox commands (16 R300, R313, R316, R317; 17 R332 to R334, R341 to R353, R358) -/

/-- Every mailbox command: it starts only when the firmware runs, the function exists and none is in progress; a virtual
function that may not issue it gets result 2, an argument out of range gives 3 and an unassigned code 1. Otherwise the command
has the effect of its rule, and result 0 when it is done (R313, R316, R317, R332 to R334, R341 to R353, R358; Table 17.5). A new
quota is in force at once where no team of the district is placed and the quotas that the others have in force leave it room.
When SETQUOTA replies and the layouts of the results of READCYC and SPDM are the model's reading of log entry 66; that SETQCB of a
function without a virtual device gives result 3 is the model's choice of log entry 123, that the responder of SPDM reads its
buffer in the function's own virtual device that of log entry 60, that an FWLOAD takes core 0 first, and waits for one in progress,
that of log entry 105, and that SPDM waits for the channels of its buffer that of log entry 110. -/
def Obligations.MailboxCommands : Prop := ∀ (s : State) (f : Fn) (mb : MbCtl),
  let answer := fun (s : State) (req : List Byte) =>
    Config.spdmResponse Config.identityKey Config.certificateChain s.measurements s.free req
  (∀ i vf, commandOf i = some (f, mb, vf) →
    (s.fwUp = false ∨ fnExists f = false ∨ (s.fnState f).mailbox.busy = true → exec i s = .next s) ∧
    (Takes s f → f.num ≠ 0 → vf = false → Answers i f mb s 2 [] (OnlyMailbox f s))) ∧
  (Takes s f →
    (∀ addr, ((s.vdevOf f).isSome = true → Answers (.setqcb f mb addr) f mb s 0 [] (fun t =>
        t.vdevs = s.vdevs.map (fun v => if v.fn = f then { v with qcbTable := addr } else v))) ∧
      (s.vdevOf f = none → Answers (.setqcb f mb addr) f mb s 3 [] (OnlyMailbox f s))) ∧
    (∀ u n, (match u with
        | .core i => i < 512 ∧ n = s.clk i
        | .commandCore i => i < 8 ∧ n = s.ccClk.getD i 0
        | .channel i => i < 192 ∧ n = lookupD s.chanClk i 0
        | .cluster i => i < 8 ∧ n = s.clocks.getD i 0
        | .host => n = s.hostClk) →
      Answers (.readcyc f mb u) f mb s 0 (leBytes n 8 ++ leBytes s.hostClk 8) (OnlyMailbox f s)) ∧
    (∀ n, s.launch? n = none → Answers (.stop f mb n) f mb s 3 [] (OnlyMailbox f s)) ∧
    (∀ n l, s.launch? n = some l →
      (s.mayStop f l = false → Answers (.stop f mb n) f mb s 2 [] (OnlyMailbox f s)) ∧
      (s.mayStop f l = true → l.stopDue = none → ∃ t, exec (.stop f mb n) s = .next t ∧
        (t.launch? n = none ∨ (t.launch? n).map (·.stopDue) = some (some (f, mb))) ∧
        ∀ m ∈ t.teams, m.ref.launch = n → m.saved = false → m.rollDue = true) ∧
      (s.mayStop f l = true → l.stopDue = none → l.preempt = none → (∀ m ∈ s.teams, m.ref.launch ≠ n) →
        Answers (.stop f mb n) f mb s 0 [] (fun t => t.launch? n = none)))) ∧
  (Takes s f → f.num = 0 →
    (∀ code, code = 0 ∨ 0x18 < code → Answers (.unknownCommand f mb code) f mb s 1 [] (OnlyMailbox f s)) ∧
    (∀ d q, let others := ((List.range 8).filter (· != d)).map (fun k => ((s.districts[k]?).bind (·.quotaDue)).getD (s.quota k))
      (d < 8 → quotaOk q others = true → Answers (.setquota f mb d q) f mb s 0 [] (fun t => d < s.districts.length →
        let placed := s.teams.any (fun m => m.district == d && !m.saved)
        (placed = true → (t.districts[d]?).map (·.quotaDue) = some (some q) ∧ t.quota d = s.quota d) ∧
        (placed = false → quotaOk q (((List.range 8).filter (· != d)).map s.quota) = true → t.quota d = q))) ∧
      (8 ≤ d ∨ quotaOk q others = false → Answers (.setquota f mb d q) f mb s 3 [] (OnlyMailbox f s))) ∧
    (∀ asid root vdev, let ok := asid < 65536 ∧ root.toNat % 2 ^ 15 = 0 ∧ ∀ k, vdev = some k → (s.vdev? k).isSome = true
      (ok → Answers (.setasid f mb asid root vdev) f mb s 0 [] (fun t => lookupD t.asids asid 0 = root ∧
        t.vdevs = s.vdevs.map (fun v => if vdev = some v.key then { v with asid := asid } else v))) ∧
      (¬ok → Answers (.setasid f mb asid root vdev) f mb s 3 [] (OnlyMailbox f s))) ∧
    (∀ asid range, (65536 ≤ asid → Answers (.inval f mb asid range) f mb s 3 [] (OnlyMailbox f s)) ∧
      (asid < 65536 → ∃ t, exec (.inval f mb asid range) s = .next t ∧ t.pendingFor f ∧
        t.invals = s.invals ++ [{ fn := f, mb := mb, asid := asid, range := range }] ∧
        ∀ r g w, s.group? r = some g → g.replay = some w → (s.launchSpace r.launch).asid = asid → inRange range w.va = true →
          t.group? r = some { g with replay := some { w with rewalk := true } })) ∧
    (∀ base, (base.toNat < Config.lpddrBytes → Answers (.aperture f mb base) f mb s 0 [] (fun t =>
        lookupD t.apertures f.link 0 = base)) ∧
      (Config.lpddrBytes ≤ base.toNat → Answers (.aperture f mb base) f mb s 3 [] (OnlyMailbox f s))) ∧
    (∀ port hpa size, (port < 4 → Answers (.cxlmap f mb port hpa size) f mb s 0 [] (fun t =>
        (port, hpa, size) ∈ t.cxlMap ∧ ∀ e, e ∈ t.cxlMap → e ∈ s.cxlMap ∨ e = (port, hpa, size))) ∧
      (4 ≤ port → Answers (.cxlmap f mb port hpa size) f mb s 3 [] (OnlyMailbox f s))) ∧
    (∀ base size, (base.toNat + size ≤ Config.lpddrBytes → Answers (.peerwin f mb base size) f mb s 0 [] (fun t =>
        t.peerWin = some (base, size))) ∧
      (Config.lpddrBytes < base.toNat + size → Answers (.peerwin f mb base size) f mb s 3 [] (OnlyMailbox f s))) ∧
    (∀ watts, let ok := 600 ≤ watts ∧ watts ≤ 2200 ∧ watts % 25 = 0
      (ok → Answers (.setpower f mb watts) f mb s 0 [] (fun t => t.power = watts)) ∧
      (¬ok → Answers (.setpower f mb watts) f mb s 3 [] (OnlyMailbox f s))) ∧
    (∀ d addr, (d < s.districts.length → d < 8 → addr.toNat + 256 ≤ Config.lpddrBytes →
        Answers (.distrec f mb d addr) f mb s 0 [] (fun t => (t.districts[d]?).map (·.record) = some (some addr))) ∧
      (8 ≤ d ∨ Config.lpddrBytes < addr.toNat + 256 → Answers (.distrec f mb d addr) f mb s 3 [] (OnlyMailbox f s))) ∧
    (∀ target k, fnExists target = true → (∀ v, s.vdevOf target = some v → s.vdevQuiet v.key = true) →
      (k.district < 8 → k.vdev < 16 → (∀ v, s.vdev? k = some v → v.fn = target) →
        Answers (.setvdev f mb target (some k)) f mb s 0 [] (fun t => t.vdevOf target = some { key := k, fn := target })) ∧
      Answers (.setvdev f mb target none) f mb s 0 [] (fun t => t.vdevOf target = none) ∧
      ((8 ≤ k.district ∨ 16 ≤ k.vdev ∨ ∃ v, s.vdev? k = some v ∧ v.fn ≠ target) →
        Answers (.setvdev f mb target (some k)) f mb s 3 [] (OnlyMailbox f s))) ∧
    (∀ target vdev v, s.vdevOf target = some v → s.vdevQuiet v.key = false →
      Answers (.setvdev f mb target vdev) f mb s 3 [] (OnlyMailbox f s)) ∧
    (∀ image, ∃ t, exec (.fwload f mb image) s = .next t ∧ t.pendingFor f ∧ t.teams = s.teams ∧ t.launches = s.launches ∧
      ((∀ r ∈ s.reloads, r.job = none ∧ r.core ≠ 0) → t.reloads = s.reloads ++ [{ core := 0, job := some (f, mb, image) }] ∧
        t.ready.cc = s.ready.cc &&& ~~~(1#8)) ∧
      ((∃ r ∈ s.reloads, r.job.isSome = true) →
        t.reloads = s.reloads ++ [{ core := 8, taken := true, job := some (f, mb, image) }] ∧ t.ready.cc = s.ready.cc)) ∧
    (∀ cluster, (8 ≤ cluster → Answers (.drain f mb cluster) f mb s 3 [] (OnlyMailbox f s)) ∧
      (cluster < 8 → (s.launches.map (·.num)).Nodup → (∀ l ∈ s.launches, l.stopDue = none) →
        ∃ t, exec (.drain f mb cluster) s = .next t ∧ t.pendingFor f ∧ t.drains = s.drains ++ [(cluster, f, mb)] ∧
          ∀ l ∈ t.launches, l.phase = .running → l.preempt.isSome = true)) ∧
    ∀ channel, (192 ≤ channel → Answers (.retrain f mb channel) f mb s 3 [] (OnlyMailbox f s)) ∧
      (channel < 192 → ∃ t, exec (.retrain f mb channel) s = .next t ∧ t.pendingFor f ∧
        t.retrains = s.retrains ++ [(channel, s.hostClk, f, mb)])) ∧
  (s.ready.trip = false → fnExists f = true → (s.fnState f).mailbox.busy = false → ∀ buf len,
    let sp := ((s.vdevOf f).map Vdev.space).getD {}
    let out := answer s (s.vread sp buf.toNat len)
    (s.vready sp buf.toNat (max len out.length) = false → exec (.spdm f mb buf len) s = .next s) ∧
    (s.vready sp buf.toNat (max len out.length) = true → Answers (.spdm f mb buf len) f mb s 0 (leBytes out.length 4) (fun t =>
      t.free = s.free + 1 ∧ ((s.vlocs sp buf.toNat out.length).length = out.length → Stores (s.vlocs sp buf.toNat out.length) out s t)))) ∧
  (s.ready.trip = false → ∀ req, ∃ t, exec (.spdmDoeMessage f req) s = .next t ∧
    t = { s with free := s.free + 1, replies := s.replies ++ [(64 + 65 * f.link + f.num, answer s req)] })

/-- Commands that end later: an INVAL once every store translated in its space is performed, a drain once no launch runs, a
retrain, each with result 0 to the function that asked for it; before that nothing happens. A command-complex core that faults
outside a parse is taken out of service, changing no launch; another core takes its districts over; it comes back with its
verified image and writes the FWLOAD entry, reason 0, of each district that it serves. An FWLOAD does so core by core: an image
that fails its checks leaves the core its old one and gives result 4, and after core 7 the result is 0 (R342, R348 to R350,
R393). An image is verified once its channels are ready, and what has waited for a channel goes on with the end of an INVAL
(R347). At which clocks a reload goes on is the model's choice of log entry 105, how an access waits that of log entry 110. -/
def Obligations.CommandsThatEndLater : Prop := ∀ (s : State), s.fwUp = true →
  (∀ f, (∀ i ∈ s.invals, i.fn ≠ f) → exec (.invalComplete f) s = .next s) ∧
  (∀ f i, s.invals.find? (fun x => x.fn = f) = some i →
    (s.storesOut i.asid = false → exec (.invalComplete f) s = .next s) ∧
    (s.storesOut i.asid = true → ∃ t : State, exec (.invalComplete f) s = .next t.catchUp ∧ Replied f i.mb 0 [] s t ∧
      t.invals = s.invals.filter (· ≠ i))) ∧
  (∀ c, s.drains = [] → exec (.drainEnd c) s = .next s) ∧
  (∀ c f mb ds, s.drains = (c, f, mb) :: ds →
    ((∃ l ∈ s.launches, l.phase = .running) → exec (.drainEnd c) s = .next s) ∧
    ((∀ l ∈ s.launches, l.phase ≠ .running) → Answers (.drainEnd c) f mb s 0 [] (fun t => t.drains = ds))) ∧
  (∀ c, (∀ e ∈ s.retrains, e.1 ≠ c) → exec (.retrainEnd c) s = .next s) ∧
  (∀ c start f mb before after, s.retrains = before ++ (c, start, f, mb) :: after → (∀ e ∈ before, e.1 ≠ c) →
    Answers (.retrainEnd c) f mb s 0 [] (fun t => t.retrains = before ++ after)) ∧
  (∀ core, (8 ≤ core ∨ s.ccRuns core = false → exec (.firmwareCoreFault core) s = .next s) ∧
    (core < 8 → s.ccRuns core = true → (∀ r ∈ s.reloads, r.core ≠ core) → ∃ t, exec (.firmwareCoreFault core) s = .next t ∧
      t.reloads = s.reloads ++ [{ core := core }] ∧ t.ready.cc = s.ready.cc &&& ~~~(1#8 <<< core) ∧ t.teams = s.teams ∧
      t.launches = s.launches ∧ t.queues = s.queues)) ∧
  (∀ core r, core < 8 → s.ready.trip = false → s.reloads.find? (fun x => x.core == core) = some r → r.taken = true →
    let back := ({ s with ccClk := modAt s.ccClk core (· + 1) } : State).backInService core
    (r.job = none → s.tickCommand core = back.noteReload core ∧ (s.tickCommand core).fw = s.fw ∧
      (s.tickCommand core).reloads = s.reloads.filter (fun x => x.core != core)) ∧
    ∀ f mb image, r.job = some (f, mb, image) →
      (s.imageReady image = false → s.tickCommand core = { s with ccClk := modAt s.ccClk core (· + 1) }) ∧
      (s.imageReady image = true → s.imageOk image = false → (s.tickCommand core).fw = s.fw ∧
        ((s.tickCommand core).fnState f).mailbox.busy = false ∧ ((s.tickCommand core).fnState f).mailbox.done = true ∧
        ((s.tickCommand core).fnState f).mailbox.result = 4) ∧
      (s.imageReady image = true → s.imageOk image = true → lookupD (s.tickCommand core).fw core {} =
          { addr := image, version := Config.imageVersion s.mem image.toNat, digest := Config.imageDigest s.mem image.toNat } ∧
        (core < 7 → (∀ x ∈ s.reloads, x.core ≠ core + 1) →
          ({ core := core + 1, job := some (f, mb, image) } : Reload) ∈ (s.tickCommand core).reloads) ∧
        (core = 7 → ((s.tickCommand core).fnState f).mailbox.busy = false ∧ ((s.tickCommand core).fnState f).mailbox.done = true ∧
          ((s.tickCommand core).fnState f).mailbox.result = 0))) ∧
  (∀ core, core < 8 → s.ready.trip = false → s.ccRuns core = true → (∀ r ∈ s.reloads, r.core ≠ core) →
    (∃ r ∈ s.reloads, r.taken = false) → (s.tickCommand core).reloads = s.reloads.map (fun r => { r with taken := true }) ∧
      ∀ d, d < 8 → (s.tickCommand core).ccOf d = if (s.reloads.any (fun r => !r.taken && r.core == s.ccOf d)) then core else s.ccOf d) ∧
  ∀ (core d : Nat) (a : Dword), s.districtsOf core = [d] → (s.districts[d]?).bind (·.record) = some a →
    let t := s.noteReload core
    let count := cellLe s.mem (a.toNat + 16) 8
    let at_ := cellLe s.mem a.toNat 8 + 32 * (count % cellLe s.mem (a.toNat + 8) 4)
    a.toNat + 256 ≤ at_ ∨ at_ + 32 ≤ a.toNat → s.pready a.toNat 256 = true → s.pready at_ 32 = true →
    cellLe t.mem (a.toNat + 0x48) 8 = (cellLe s.mem (a.toNat + 0x48) 8 + 1) % 2 ^ 64 ∧
    cellLe t.mem (a.toNat + 16) 8 = (count + 1) % 2 ^ 64 ∧
    cellReads t.mem at_ 32 = leBytes 14 1 ++ leBytes 0 1 ++ leBytes d 1 ++ leBytes 0xFF 1 ++ leBytes 0xFF 1 ++ leBytes 0xFF 1
      ++ leBytes core 1 ++ leBytes 0 1 ++ leBytes (s.ccClk.getD core 0) 8 ++ leBytes (lookupD s.ccSeq core 0) 8 ++ leBytes 0 8

/-! ## User queues (16 R297 to R308, R314, R315; 21 R392) -/

/-- A kick of a queue of a bound and scheduled virtual device reads WRIDX of a mapped queue, and maps a waiting or idle one to
the lowest free slot of its district, or has it wait with its error fields cleared; PENDING is set until it is mapped. The
kick of a descheduled device only sets PENDING, and is acted on when the device is scheduled; so is one while the core that
serves its district hands its queues over. A queue that is off or in error ignores it. A WRIDX out of range is a queue error;
one that has moved back discards a packet that waits and a FENCE in progress that it no longer covers. FENCEs are tested after
a kick. A kick waits for the channels of the control block (R298, R299, R303, R304, R314, R347, R348). What the kick of a
descheduled device does to a mapped queue, and that a queue without work is mapped too, is the model's choice of log entry 81;
when a core hands over is that of log entry 105, what a WRIDX that moves back discards that of log entry 64, and how the kick
waits that of log entry 110. -/
def Obligations.Kicks : Prop :=
  (∀ (s : State) (f : Fn) (val : Dword),
    (s.vdevOf f = none ∨ s.answers = false ∨ 64 ≤ val.toNat → exec (.kick f val) s = .next s) ∧
    ∀ v, s.vdevOf f = some v → s.answers = true → val.toNat < 64 → ∃ t, exec (.kick f val) s = .next t ∧
      t = (s.kickQueue { district := v.key.district, vdev := v.key.vdev, idx := val.toNat }).testFences) ∧
  (∀ (s : State) (k : QueueKey) (v : Vdev), s.vdev? (vkeyOfQ k) = some v →
    let q := s.queue k
    let at_ := s.qcbAt k
    let w : Word := BitVec.ofNat 32 (s.vle at_.1 (at_.2 + 0x10) 4)
    (s.qcbReady k = false → s.kickQueue k = { s with late := s.late ++ [.kick k] }) ∧ (s.qcbReady k = true →
    (q.state = 0 ∨ 3 < q.state → s.kickQueue k = s) ∧
    (1 ≤ q.state → q.state ≤ 3 → v.scheduled = false ∨ s.served k.district = false → s.kickQueue k = { s with vdevs := s.vdevs.map (fun x =>
      if x.key = vkeyOfQ k then { x with pending := x.pending ||| (1#64 <<< k.idx) } else x) }) ∧
    (q.state = 3 → v.scheduled = true → s.served k.district = true → (w - q.rdIdx).toNat ≤ q.ringSize →
      (s.kickQueue k).ownQueue k = (({ q with wrIdx := w } : Queue).retract (fieldOf (s.packetBytes q q.pkIdx) 1 1)).skip ∧
      ({ s.kickQueue k with queues := [] } : State) = { s with queues := [] }) ∧
    (q.state = 3 → v.scheduled = true → s.served k.district = true → q.ringSize < (w - q.rdIdx).toNat →
      (s.kickQueue k).ownQueue k = { q with state := 4, errCode := 7, errField := 0x10, slot := none, waiting := false } ∧
      (s.kickQueue k).irqs = s.irqs ++ [{ fn := v.fn, vector := 63 }]) ∧
    (q.state = 1 ∨ q.state = 2 → v.scheduled = true → s.served k.district = true →
      (∀ slot, s.freeSlot k.district = some slot → let o := (s.kickQueue k).ownQueue k
        (o.state = 3 ∧ o.slot = some slot ∧ o.entry = q.waitPrio ∧ o.errCode = 0 ∧ o.placed = q.placed + 1 ∧ o.age = 0)
          ∨ (o.state = 4 ∧ o.errCode = 7 ∧ o.slot = none)) ∧
      (∀ slot, s.freeSlot k.district = some slot →
        ((s.kickQueue k).vdev? (vkeyOfQ k)).map (·.pending) = some (v.pending &&& ~~~(1#64 <<< k.idx))) ∧
      (s.freeSlot k.district = none → let o := (s.kickQueue k).ownQueue k
        o.state = 2 ∧ o.slot = q.slot ∧ o.deferred = q.deferred + 1 ∧ o.errCode = 0 ∧ o.errField = 0 ∧
        o.age = (if q.state = 2 then q.age else 0) ∧
        ((s.kickQueue k).vdev? (vkeyOfQ k)).map (·.pending) = some (v.pending ||| (1#64 <<< k.idx)))))) ∧
  (∀ (q : Queue) (n : Nat),
    let waits := q.waiting && decide (q.backlog ≠ 0)
    (q.pkind = 2 → q.backlog < 1 + condPackets n → q.retract n = { q with
      waiting := waits, pkind := (if q.armLeft = 0 then 0 else 3), condMask := 0, pkIdx := 0 }) ∧
    (q.pkind ≠ 2 ∨ 1 + condPackets n ≤ q.backlog → q.retract n = { q with waiting := waits })) ∧
  (∀ (s : State) (d : Nat) (i : Nat), s.freeSlot d = some i → (s.slotRange d).1 ≤ i ∧ i < (s.slotRange d).1 + (s.slotRange d).2 ∧
    (∀ q ∈ s.queues, q.state = 3 → q.slot ≠ some i) ∧
    ∀ j, (s.slotRange d).1 ≤ j → j < i → ∃ q ∈ s.queues, q.state = 3 ∧ q.slot = some j) ∧
  ∀ (s : State) (k : VdevKey) (v : Vdev), s.fwUp = true → s.vdev? k = some v →
    (v.scheduled = true → exec (.virtualDeviceScheduled k) s = .next s) ∧
    (v.scheduled = false → ∃ t, exec (.virtualDeviceScheduled k) s = .next t ∧
      let on : State := { s with vdevs := s.vdevs.map (fun x => if x.key = k then { x with scheduled := true } else x) }
      t = ((lanesOf 64 v.pending).foldl (fun (u : State) i =>
        let q : QueueKey := { district := k.district, vdev := k.vdev, idx := i }
        (u.setPending q false).kickQueue q) on).testFences)

/-- A mapped queue parses the packet at its head. One that fails a check puts the queue in error with the code and the field
at the lowest offset, and interrupts on vector 63; WAITPREV waits for the queue's earlier work. A packet that is performed
moves RDIDX past it, at the end of a PRED arm past the other arm too, as its packets come into the ring. NOP does nothing else;
LAUNCH admits a launch with the next free number, not 0; FENCE ends when all its conditions have held; PRED tests its word at the
head of the queue and runs one arm; SIGNAL writes and counts a completion; COPY runs on the hub die and copies its bytes; MARK
writes an entry (R301 to R308, R310, R315, R392). WRIDX is read again when the packets already read no longer fill the 16 that
the slot prefetches, and one out of range is a queue error (R302, R303); what is read waits for its channels (R347). That a FENCE
waits until its condition packets are in the ring, and when the packets of an arm are skipped, is the model's choice of log entry
63, when WRIDX is read and where a COPY waits that of log entry 64, that PKIDX is 0 after a FENCE in an arm that of log entry
119, that an error frees the slot that of log entry 81, and how a read waits that of log entry 110. -/
def Obligations.QueuePackets : Prop := ∀ (s : State) (k : QueueKey),
  let parses := fun (i : Instr) (type : Nat) =>
    (s.head k = none → exec i s = .next s) ∧ ∀ q p, s.head k = some (q, p) →
      (fieldOf p 0 1 ≠ type → exec i s = .next s) ∧
      (∀ off code, fieldOf p 0 1 = type → lowest (s.offences q p) = some (off, code) → ∃ t, exec i s = .next t ∧
        t.ownQueue k = { q with state := 4, errCode := code, errField := off, slot := none, waiting := false } ∧
        t.irqs = s.irqs ++ [{ fn := s.fnOf (vkeyOfQ k), vector := 63 }]) ∧
      (fieldOf p 0 1 = type → lowest (s.offences q p) = none → waitPrev p = true → q.earlier ≠ [] → ∃ t, exec i s = .next t ∧
        t.ownQueue k = { q with waiting := true } ∧ ({ t with queues := [] } : State) = { s with queues := [] })
  let runs := fun (i : Instr) (type : Nat) (post : Queue → List Byte → State → Prop) => parses i type ∧
    ∀ q p, s.head k = some (q, p) → fieldOf p 0 1 = type → lowest (s.offences q p) = none →
      waitPrev p = false ∨ q.earlier = [] → ∃ t, exec i s = .next t ∧ post q p t
  let keeps := fun (t : State) (q : Queue) => t.ownQueue k = q ∧ ({ t with queues := [] } : State) = { s with queues := [] }
  let asid := s.spaceOfVdev (vkeyOfQ k)
  let moves := fun (b t : State) (q : Queue) =>
    let w : Word := BitVec.ofNat 32 (b.vle (b.qcbAt k).1 ((b.qcbAt k).2 + 0x10) 4)
    let reads := q.backlog ≤ 16 ∨ q.ringSize < q.backlog
    let else_ := fun (late : List Late) =>
      ({ t with queues := [], late := late } : State) = { b with queues := [], late := late }
    (¬reads → t.ownQueue k = q ∧ else_ b.late ∧ t.late = b.late) ∧
    (reads → b.qcbReady k = false → t.ownQueue k = q ∧ else_ b.late ∧ t.late = b.late ++ [.kick k]) ∧
    (reads → b.qcbReady k = true → (w - q.rdIdx).toNat ≤ q.ringSize →
      t.ownQueue k = ({ q with wrIdx := w, waiting := q.waiting && w != q.rdIdx } : Queue).skip ∧ else_ b.late ∧ t.late = b.late) ∧
    (reads → b.qcbReady k = true → q.ringSize < (w - q.rdIdx).toNat →
      t.irqs = b.irqs ++ [{ fn := b.fnOf (vkeyOfQ k), vector := 63 }] ∧
      t.ownQueue k = { q with state := 4, errCode := 7, errField := 0x10, slot := none, waiting := false })
  (∀ (q : Queue) n,
    let m := min q.skipNow q.backlog
    let r := q.rdIdx + BitVec.ofNat 32 m
    let j := min q.skipLeft (q.wrIdx - r).toNat
    (q.pkind ≠ 3 ∨ q.armLeft ≠ 0 → q.skip = { q with rdIdx := r, skipNow := q.skipNow - m }) ∧
    (q.pkind = 3 → q.armLeft = 0 → q.skip = { q with
      rdIdx := r + BitVec.ofNat 32 j, skipNow := q.skipNow - m, skipLeft := q.skipLeft - j
      pkind := (if q.skipLeft ≤ j then 0 else 3), pkIdx := (if q.skipLeft ≤ j then 0 else q.pkIdx) }) ∧
    (q.pkind ≠ 3 → q.armLeft = 0 → q.past n = { q with rdIdx := q.rdIdx + BitVec.ofNat 32 n, pkind := 0 }) ∧
    (q.pkind = 3 ∨ q.armLeft ≠ 0 → q.past n = ({ q with
      rdIdx := q.rdIdx + BitVec.ofNat 32 n, pkind := 3, armLeft := q.armLeft - n } : Queue).skip)) ∧
  runs (.nopPacket k) 0 (fun q _ t => moves s t (q.past 1)) ∧
  runs (.launchPacket k) 1 (fun _ p t => if s.drains ≠ [] then t = s else
    let bs := s.vread asid (fieldOf p 0x18 8) 256
    let num := s.launchCount + 1
    num ≠ 0 → (∀ l ∈ s.launches, l.num ≠ num.toNat) → t.launchCount = num ∧
      (descOk bs = true → fieldOf p 0x10 4 ≤ (descOf bs).scratch → quotaHolds (s.quota k.district) (descOf bs).use = true →
        ∃ l, t.launch? num.toNat = some l ∧ l.queue = k ∧ l.phase = .admitted ∧ l.cls = fieldOf p 2 1 ∧ l.x = fieldOf p 4 4 ∧
          l.y = fieldOf p 8 2 ∧ l.z = fieldOf p 10 2 ∧ l.iters = fieldOf p 12 4 ∧ l.desc = descOf bs ∧ l.clu = s.ready.clu) ∧
      (descOk bs = false → t.launch? num.toNat = none)) ∧
  runs (.fencePacket k) 2 (fun q p t =>
    let n := fieldOf p 1 1
    let q1 := { q with pkIdx := q.rdIdx, condMask := 0, pkind := 2 }
    let holds := fun (i : Nat) => condHolds (fieldOf (s.condition q1 i) 7 1) (s.vle asid (fieldOf (s.condition q1 i) 0 7) 8)
      (fieldOf (s.condition q1 i) 8 8)
    let ok := ∀ j, j < condPackets n →
      s.condOffences q (s.packetBytes q (q.rdIdx + 1 + BitVec.ofNat 32 j)) (min 4 (n - 4 * j)) = []
    (q.backlog < 1 + condPackets n → t = s) ∧
    (1 + condPackets n ≤ q.backlog → ok → s.fenceReady q1 = false → keeps t q1) ∧
    (1 + condPackets n ≤ q.backlog → ok → s.fenceReady q1 = true → (∀ i, i < n → holds i = true) →
      moves s t ({ q1 with pkIdx := 0 }.past (1 + condPackets n))) ∧
    (1 + condPackets n ≤ q.backlog → ok → s.fenceReady q1 = true → (∃ i, i < n ∧ holds i = false) →
      ∃ mask, keeps t { q1 with condMask := mask } ∧
      ∀ i, i < 16 → mask.getLsbD i = (decide (i < n) && holds i))) ∧
  (∀ q, s.fwUp = true → s.served k.district = true → s.ownQueue k = q → q.state = 3 → q.pkind = 2 →
    let n := fieldOf (s.packetBytes q q.pkIdx) 1 1
    let holds := fun (i : Nat) => q.condMask.getLsbD i || condHolds (fieldOf (s.condition q i) 7 1)
      (s.vle asid (fieldOf (s.condition q i) 0 7) 8) (fieldOf (s.condition q i) 8 8)
    (s.fenceReady q = false → exec (.fenceRetest k) s = .next s) ∧ (s.fenceReady q = true → ∃ t, exec (.fenceRetest k) s = .next t ∧
      ((∀ i, i < n → holds i = true) → n ≤ 16 → moves s t ({ q with condMask := 0, pkIdx := 0 }.past (1 + condPackets n))) ∧
      ((∃ i, i < n ∧ i < 16 ∧ holds i = false) → ∃ mask, keeps t { q with condMask := mask } ∧
        ∀ i, i < n → i < 16 → mask.getLsbD i = holds i))) ∧
  runs (.predPacket k) 3 (fun q p t =>
    let yes := fieldOf p 2 1
    let no := fieldOf p 3 1
    let holds := condHolds (fieldOf p 1 1) (s.vle asid (fieldOf p 8 8) 8) (fieldOf p 16 8)
    let goes := fun (arm skip before : Nat) => moves s t ({ q with
      pkIdx := q.rdIdx, rdIdx := q.rdIdx + 1, pkind := 3, armLeft := arm, skipLeft := skip, skipNow := before } : Queue).skip
    (holds = true → goes yes no 0) ∧ (holds = false → no ≠ 0 → goes no 0 yes) ∧ (holds = false → no = 0 → goes 0 yes 0)) ∧
  runs (.signalPacket k) 4 (fun q p t =>
    let f := fieldOf p 1 1
    let n := if bit f 3 then 8 else 4
    let places := s.vlocs asid (fieldOf p 8 8) n
    let v := if bit f 1 then s.vle asid (fieldOf p 8 8) n + fieldOf p 16 n else fieldOf p 16 n
    let s1 := s.vput asid (fieldOf p 8 8) (leBytes v n)
    let s2 := s1.performed k
    let s3 := s2.saveQueue (s2.queue k)
    (places.length = n → Stores places (leBytes v n) s s1) ∧ ((s.ownQueue k).state = 3 → moves s1 s2 (q.past 1)) ∧
      t = (if bit f 2 then s3.addCompletion (s3.fnOf (vkeyOfQ k)) (fieldOf p 2 1) k else s3).testFences) ∧
  runs (.copyPacket k) 5 (fun _ p t =>
    let c : HubCopy := { queue := k, dst := BitVec.ofNat 64 (fieldOf p 8 8), src := BitVec.ofNat 64 (fieldOf p 16 8)
                         bytes := fieldOf p 24 8 }
    t = { s with hubCopies := s.hubCopies ++ [c] }) ∧
  (∀ c, s.hubCopies.find? (fun x => x.queue = k) = some c → s.copyReady c = false →
    exec (.copyPacketComplete k) s = .next s) ∧
  (∀ c q, s.fwUp = true → s.hubCopies.find? (fun x => x.queue = k) = some c → s.ownQueue k = q → q.state = 3 →
    s.copyReady c = true → (s.vlocs asid c.dst.toNat c.bytes).length = c.bytes → ∃ t, exec (.copyPacketComplete k) s = .next t ∧
      let s1 := ({ s with hubCopies := s.hubCopies.filter (fun x => x.queue ≠ k) } : State).vput asid c.dst.toNat
        (s.vread asid c.src.toNat c.bytes)
      Stores (s.vlocs asid c.dst.toNat c.bytes) (s.vread asid c.src.toNat c.bytes) s s1 ∧ t = s1.performed k ∧
      moves s1 t (q.past 1) ∧ t.hubCopies = s.hubCopies.filter (fun x => x.queue ≠ k)) ∧
  runs (.markPacket k) 6 (fun q p t =>
    let s1 := s.route { type := 11, district := k.district, vdev := k.vdev, queue := k.idx, slot := q.slot.getD 0xFF
                        payload := fieldOf p 8 8 }
    t = s1.performed k ∧ ((s.ownQueue k).state = 3 → moves s1 t (q.past 1)) ∧
    ∀ a, (s.districts[k.district]?).bind (·.record) = some a → s.pready a.toNat 24 = true →
      s.pready (cellLe s.mem a.toNat 8 + 32 * (cellLe s.mem (a.toNat + 16) 8 % cellLe s.mem (a.toNat + 8) 4)) 32 = true →
      cellLe s1.mem (a.toNat + 16) 8 = (cellLe s.mem (a.toNat + 16) 8 + 1) % 2 ^ 64) ∧
  (∀ q p, s.head k = some (q, p) → 7 ≤ fieldOf p 0 1 → ∃ t, exec (.reservedPacketType k) s = .next t ∧
    t.ownQueue k = { q with state := 4, errCode := 1, errField := 0, slot := none, waiting := false } ∧
    t.irqs = s.irqs ++ [{ fn := s.fnOf (vkeyOfQ k), vector := 63 }]) ∧
  ∀ q, s.fwUp = true → s.served k.district = true → s.ownQueue k = q → q.state = 3 →
    (q.waiting = false ∨ q.earlier ≠ [] ∨ s.headReady q = false → exec (.waitprevRelease k) s = .next s) ∧
    (q.waiting = true → q.earlier = [] → s.copying k = false → q.pkind ≠ 2 → q.backlog ≠ 0 → s.headReady q = true →
      let s1 := s.putQueue { q with waiting := false }
      let p := s.packetBytes q q.rdIdx
      lowest (s1.offences { q with waiting := false } p) = none → ∃ t, exec (.waitprevRelease k) s = .next t ∧
        (fieldOf p 0 1 = 0 → exec (.nopPacket k) s1 = .next t) ∧ (fieldOf p 0 1 = 1 → exec (.launchPacket k) s1 = .next t) ∧
        (fieldOf p 0 1 = 4 → exec (.signalPacket k) s1 = .next t) ∧ (fieldOf p 0 1 = 5 → exec (.copyPacket k) s1 = .next t) ∧
        (fieldOf p 0 1 = 6 → exec (.markPacket k) s1 = .next t))

/-- Launches: a launch that is chosen gets its place, one fresh team on each core of its clusters with its arguments at the
start of scratchpad; a saved one resumes; one whose teams have all retired completes with STATUS 1, or 2 after a fault, and
EDITED. At a slice boundary every mapped queue with work ages by 1, in a district whose queues are all mapped, where none is
swapped (R26, R27, R309, R311, R314, R319, R324). What the firmware reads for a start or a boundary waits for its channels (R347).
That a slice counts host-interface clocks from the last boundary is the model's choice of log entry 55, that a placement or a
resumption waits until no rope is active that of log entry 122, and how a read waits that of log entry 110. -/
def Obligations.LaunchLifecycle : Prop :=
  (∀ (s : State) (n : Nat), s.fwUp = true →
    let s1 := s.rechoose
    (s1.unsettled = true ∨ s1.noRopes = false → exec (.launchPlacement n) s = .next s1 ∧ exec (.teamResume n) s = .next s1) ∧
    (∀ l, s1.choose.find? (fun x => x.num == n) = some l → s1.startReady l = false →
      exec (.launchPlacement n) s = .next s1 ∧ exec (.teamResume n) s = .next s1) ∧
    (∀ l, s1.unsettled = false → s1.noRopes = true → s1.choose.find? (fun x => x.num == n) = some l → (s1.launch? n).isSome = true →
      s1.startReady l = true →
      (l.phase = .admitted → (∀ m ∈ s1.teams, m.ref.launch ≠ n) → ∃ t, exec (.launchPlacement n) s = .next t ∧
        (t.launch? n).map (·.phase) = some .running ∧
        ∀ j c, (readyCores l.clu l.desc.pair)[j]? = some c → ∃ m, t.team? { launch := n, team := j } = some m ∧ m.core = c ∧
          m.pair = l.desc.pair ∧ m.saved = false ∧ m.cur.parts.length = l.desc.parts ∧ m.cur.cores.length = m.coreCount ∧
          (∀ p i, p < l.desc.parts → i < l.desc.groups → ∃ g, m.group? p i = some g ∧ g.regs = [] ∧ g.width = l.desc.width ∧
            g.live = fullMask l.desc.width ∧ g.paths = [{ pc := l.desc.entry, mask := fullMask l.desc.width }]) ∧
          ∀ h ∈ m.cur.cores, h.tiles = [] ∧ h.qs = [] ∧ ∀ i, cellRead h.scratch i =
            (s1.vread (s1.spaceOfVdev (vkeyOfQ l.queue)) l.args.toNat l.argLen).getD i 0) ∧
      (l.phase = .saved → ∃ t, exec (.teamResume n) s = .next t ∧ (t.launch? n).map (·.phase) = some .running ∧
        ∀ m ∈ t.teams, m.ref.launch = n → m.saved = false))) ∧
  (∀ (s : State) (n : Nat) (l : Launch), s.fwUp = true → s.launch? n = some l →
    (l.phase = .admitted ∨ l.stopDue.isSome = true ∨ (∃ m ∈ s.teams, m.ref.launch = n) →
      exec (.launchComplete n) s = .next s) ∧
    (l.phase ≠ .admitted → l.stopDue = none → (∀ m ∈ s.teams, m.ref.launch ≠ n) → ∃ t, exec (.launchComplete n) s = .next t ∧
      t.launch? n = none ∧
      t = (((s.putStatus l ((if l.faulted then 2 else 1) + 256 * l.edited.toNat)).endRightOf n).dropLaunch l).rechoose)) ∧
  ∀ (s : State) (d : Nat) (x : District), s.fwUp = true → s.districts[d]? = some x →
    (s.hostClk < x.lastSlice + 1000 * x.quota.slice ∨ s.sliceReady d = false → exec (.sliceBoundary d) s = .next s) ∧
    (x.lastSlice + 1000 * x.quota.slice ≤ s.hostClk → s.sliceReady d = true → ∃ t, exec (.sliceBoundary d) s = .next t ∧
      (t.districts[d]?).map (·.lastSlice) = some s.hostClk ∧
      ∀ k q, k.district = d → s.ownQueue k = q → q.state = 3 → q.hasWork = true →
        (∀ y ∈ s.queues, y.key.district = d → y.state = 3) → (t.ownQueue k).age = min 255 (q.age + 1))

/-! ## The device (00 R5; 16 R326, R327, R330; 17 R332, R334, R346, R351; 19 R379 to R383) -/

/-- Registers, vectors, heat and power, training and reset, and what error units find: ARGS and the MSI-X table are written
as bytes; a vector's T and D change unless one is zero, for the completions counted after that; it fires at T completions, D
cycles after the oldest one or when its queue is idle; a cluster's clock steps by 50 MHz within 550 MHz to 1.1 GHz; the trip
stops the compute dies; a unit sets its READY bit, and the last one DONE; a reset clears all but memory, and verified firmware
runs after it where the boot image has a valid signature, a security version that is at least the fused minimum and at most 16 MiB
(R352); the activation that
brings a row to 1,024 counts an alert, backs its bank off and refreshes its neighbours; a scrub counts what it finds on its
channel and marks what it cannot correct (R5, R15, R19, R326, R327, R330, R346, R347, R351, R379 to R383). How the time that
heat takes is rounded is the model's choice of log entry 72; that memory stays over DEVICE_RESET that of log entry 101, and that
the boot image is an input whose signature, length and version are free values that of log entry 4; that activations come as acts
of the agenda that of log entry 107; the rows of an alert and its LOC that of log entry 70; that errors are inputs and in which
terms they name a place that of log entry 77; and the channel of an address that of log entry 96. -/
def Obligations.DeviceEvents : Prop := ∀ (s : State),
  (∀ f off (val : Dword),
    (s.answers = false ∨ off < 0x1008 ∨ (0x1040 ≤ off ∧ off < 0x2000) ∨ 0x2400 ≤ off →
      exec (.registerWrite f off val) s = .next s) ∧
    (s.answers = true → 0x1008 ≤ off → off < 0x1040 → ∃ t, exec (.registerWrite f off val) s = .next t ∧
      (∀ g, g ≠ f → t.fnState g = s.fnState g) ∧ ({ t with fns := [] } : State) = { s with fns := [] } ∧
      ∀ a, cellRead (t.fnState f).mailbox.args a = if off ≤ a + 0x1008 ∧ a + 0x1008 < min (off + 8) 0x1040
        then wordByte (val.extractLsb' (8 * (a + 0x1008 - off)) 32) 0 else cellRead (s.fnState f).mailbox.args a) ∧
    (s.answers = true → 0x2000 ≤ off → off < 0x2400 → ∃ t, exec (.registerWrite f off val) s = .next t ∧
      ∀ a, cellRead (t.fnState f).msix a = if off ≤ a + 0x2000 ∧ a + 0x2000 < min (off + 8) 0x2400
        then wordByte (val.extractLsb' (8 * (a + 0x2000 - off)) 32) 0 else cellRead (s.fnState f).msix a)) ∧
  (∀ f v (val : Dword),
    (s.answers = false ∨ 64 ≤ v ∨ val.extractLsb' 16 8 = 0 ∨ val.extractLsb' 0 16 = 0 →
      exec (.vectorCoalescingWrite f v val) s = .next s) ∧
    (s.answers = true → v < 64 → val.extractLsb' 16 8 ≠ 0 → val.extractLsb' 0 16 ≠ 0 →
      ∃ t, exec (.vectorCoalescingWrite f v val) s = .next t ∧
        (t.fnState f).vector v = { (s.fnState f).vector v with t := val.extractLsb' 16 8, d := val.extractLsb' 0 16 } ∧
        ∀ w, w ≠ v → (t.fnState f).vector w = (s.fnState f).vector w)) ∧
  (∀ f v, let x := (s.fnState f).vector v
    let fires := fun (i : Instr) => ∃ t, exec i s = .next t ∧ (t.fnState f).vector v = { x with pending := 0 } ∧
      t.irqs = s.irqs ++ [{ fn := f, vector := v }]
    (∀ q, let t := s.addCompletion f v q
      (x.pending + 1 < x.t.toNat → t.irqs = s.irqs ∧ (t.fnState f).vector v = { x with
        pending := x.pending + 1, due := (if x.pending = 0 then s.hostClk + x.d.toNat else x.due), last := some q, idleFor := 0 }) ∧
      (x.t.toNat ≤ x.pending + 1 → t.irqs = s.irqs ++ [{ fn := f, vector := v }] ∧ ((t.fnState f).vector v).pending = 0)) ∧
    (x.pending ≠ 0 → x.due ≤ s.hostClk → fires (.vectorDelayExpiry f v)) ∧
    (x.pending = 0 ∨ s.hostClk < x.due → exec (.vectorDelayExpiry f v) s = .next s) ∧
    (∀ k, x.pending ≠ 0 → x.last = some k → s.queueIdle k = true → fires (.vectorIdleFire f v)) ∧
    (x.pending = 0 ∨ x.last = none ∨ (∃ k, x.last = some k ∧ s.queueIdle k = false) → exec (.vectorIdleFire f v) s = .next s)) ∧
  (∀ c up, (s.ready.trip = true ∨ 8 ≤ c → exec (.thermalStep c up) s = .next s) ∧
    (s.ready.trip = false → c < 8 → s.freq.length = 8 → ∃ t, exec (.thermalStep c up) s = .next t ∧ t.teams = s.teams ∧
      (∀ j, j < 8 → t.freq.getD j 0 = if j = c then (if up then min 1100 (s.freq.getD j 0 + 50) else max 550 (s.freq.getD j 0 - 50))
        else s.freq.getD j 0) ∧
      ∀ n l, (s.launches.map (·.num)).Nodup → s.launch? n = some l → l.phase = .running → (t.launch? n).map (·.loss) =
        some (if s.runsOn l c then l.loss + (s.hostClk - max (s.freqSince.getD c 0) l.since) * (1100 - s.freq.getD c 1100) / 1100
          else l.loss))) ∧
  (∀ cs : List Nat, (s.fwUp = false → exec (.powerLimitStep cs) s = .next s) ∧
    (s.fwUp = true → s.freq.length = 8 → cs.Nodup → ∃ t, exec (.powerLimitStep cs) s = .next t ∧ t.teams = s.teams ∧
      ∀ j, j < 8 → t.freq.getD j 0 = if j ∈ cs then max 550 (s.freq.getD j 0 - 50) else s.freq.getD j 0)) ∧
  (∃ t, exec .criticalTrip s = .next t ∧ t = { s with ready := { s.ready with trip := true } }) ∧
  (∃ t, exec .deviceReset s = .next t ∧ t.mem = s.mem ∧ t.memPoison = s.memPoison ∧ t.teams = [] ∧ t.launches = [] ∧ t.queues = [] ∧
    t.vdevs = [] ∧ t.launchCount = 0 ∧ t.districts = State.reset.districts ∧ t.power = 2200 ∧ t.ready.clu = 0 ∧ t.ready.chan = 0 ∧
    t.ready.cxl = 0 ∧ t.ready.peer = 0 ∧ t.ready.link = 0 ∧ t.ready.trip = false ∧ t.ready.done = false ∧
    t.ready.cc = (if Config.bootSignatureValid s.free = true ∧ s.fwMin ≤ Config.bootImageVersion s.free
      ∧ Config.bootImageLength s.free ≤ 2 ^ 24 then 0xFF else 0)) ∧
  (∀ u, (s.ready.trip = true → exec (.unitTrained u) s = .next s) ∧
    (s.ready.trip = false → ∃ t, exec (.unitTrained u) s = .next t ∧
      t.ready.done = (s.ready.done || (t.ready.clu == BitVec.allOnes 8 && t.ready.cc == BitVec.allOnes 8 &&
        t.ready.cxl == BitVec.allOnes 4 && t.ready.peer == BitVec.allOnes 16 && t.ready.link == BitVec.allOnes 2 &&
        t.ready.chan == BitVec.allOnes 192)) ∧
      (∀ i, u = .channel i → ∀ r g, t.group? r = some g → g.hold ≠ some .channel) ∧ match u with
      | .cluster i => i < 8 → t.ready.clu.getLsbD i = true ∧ ∀ j, j ≠ i → t.ready.clu.getLsbD j = s.ready.clu.getLsbD j
      | .channel i => i < 192 → t.ready.chan.getLsbD i = true ∧ ∀ j, j ≠ i → t.ready.chan.getLsbD j = s.ready.chan.getLsbD j
      | .hostLink i => i < 2 → t.ready.link.getLsbD i = true ∧ ∀ j, j ≠ i → t.ready.link.getLsbD j = s.ready.link.getLsbD j
      | .cxl i n => i < 4 → t.ready.cxl.getLsbD i = true ∧ (∀ j, j ≠ i → t.ready.cxl.getLsbD j = s.ready.cxl.getLsbD j) ∧
        ∀ z, n = some z → lookupD t.cxlSize i 0 = z
      | .peer i n => i < 16 → t.ready.peer.getLsbD i = true ∧ (∀ j, j ≠ i → t.ready.peer.getLsbD j = s.ready.peer.getLsbD j) ∧
        ∀ z, n = some z → lookupD t.peerSize i 0 = z)) ∧
  (∀ ch bank row, let r := s.rows ch
    (192 ≤ ch ∨ 16 ≤ bank ∨ 2 ^ 20 ≤ row ∨ bank ∈ r.backoff ∨ r.count bank row ≠ 1023 ∨ s.ready.trip = true →
      exec (.rowActivationAlert ch bank row) s = .next s) ∧
    (s.ready.trip = true → exec (.bankBackoffEnd ch bank) s = .next s ∧ exec (.refreshWindowStart ch) s = .next s) ∧
    (s.ready.trip = false → ch < 192 → bank < 16 → row < 2 ^ 20 → bank ∉ r.backoff →
      (∀ rest, s.agenda = .activate ch bank row :: rest → r.count bank row ≠ 1023 → ∃ t, step s = .next t ∧ t.mem = s.mem ∧
        (t.rows ch).count bank row = r.count bank row + 1 ∧ (t.rows ch).alerts = r.alerts) ∧
      (∀ rest, s.agenda = .activate ch bank row :: rest → r.count bank row = 1023 →
        step s = exec (.rowActivationAlert ch bank row) { s with agenda := rest })) ∧
    (s.ready.trip = false → ch < 192 → bank < 16 → row < 2 ^ 20 → bank ∉ r.backoff → r.count bank row = 1023 →
      ∃ t, exec (.rowActivationAlert ch bank row) s = .next t ∧
      t.mem = s.mem ∧ (t.rows ch).alerts = r.alerts + 1 ∧ (2 ≤ row → (t.rows ch).rfms = r.rfms + 4) ∧ (t.rows ch).bank.toNat = bank ∧
      (t.rows ch).row.toNat = row ∧ (t.rows ch).backoff = r.backoff ++ [bank] ∧ (t.rows ch).count bank row = 0 ∧
      t.lastError.mech = 32 ∧ t.lastError.unit = ch) ∧
    (s.ready.trip = false → ∃ t, exec (.bankBackoffEnd ch bank) s = .next t ∧ (t.rows ch) = { r with backoff := r.backoff.filter (· != bank) } ∧
      t.mem = s.mem) ∧
    (s.ready.trip = false → ∃ t, exec (.refreshWindowStart ch) s = .next t ∧ (t.rows ch) = { r with counts := [] } ∧ t.mem = s.mem)) ∧
  ∀ ch (found : List DataErr), (s.ready.trip = true → exec (.patrolScrub ch found) s = .next s) ∧
    (s.ready.trip = false → ∃ t, exec (.patrolScrub ch found) s = .next t ∧ t.mem = s.mem ∧
    let here := found.filter (fun e => decide (e.loc.toNat < Config.lpddrBytes) && e.loc.toNat / 2048 % 192 == ch)
    lookupD t.errs 8 (0, 0) = ((lookupD s.errs 8 (0, 0)).1 + BitVec.ofNat 32 (here.filter (fun e => !e.fatal)).length,
      (lookupD s.errs 8 (0, 0)).2 + BitVec.ofNat 32 (here.filter (·.fatal)).length) ∧
    ∀ e ∈ here, e.fatal = true → (t.sectorPoison (physKey 0 e.loc.toNat)).isSome = true)

/-- Accesses from outside: a peer reaches the exported window of LPDDR6, and is told of an access outside it; the host reaches
memory through BAR2 of a PF, with no AtomicOp; an access waits for its channels. A read of BAR0 gives zero for a write-only
field, a reserved one and an offset without a register, and PENDING, STATUS, the vectors, READY0 with DONE and the channels'
bits; only READY is answered before verified firmware has started, and the mailbox too after the trip (R5, R6, R298, R327,
R332, R334, R344, R346, R347, R351, R352). That the response outside the window has no bytes, and that the host gets no response
outside its aperture and to an AtomicOp, is the model's choice of log entry 73; that the mailbox is read after the trip that of
log entry 74; what waits for a channel that of log entry 110; the channel of an address that of log entry 96; and the numbers of
the requesters that of log entry 71. -/
def Obligations.AccessesFromOutside : Prop := ∀ (s : State) (off : Nat) (acc : BusAccess),
  let at_ := fun (pa n : Nat) => physSpan (physKey 0 pa) n
  let waits := fun (pa : Nat) => ∃ p ∈ at_ pa (busSize acc), s.locReady p = false
  (∀ pa, pa < Config.lpddrBytes → s.locReady { space := .phys, addr := physKey 0 pa } = s.ready.chan.getLsbD (pa / 2048 % 192)) ∧
  (∀ port, (s.answers = false ∨ 16 ≤ port → exec (.peerAccess port off acc) s = .next s) ∧
    (s.answers = true → port < 16 →
      (s.peerWin = none ∨ (∃ w, s.peerWin = some w ∧ w.2 < off + busSize acc) → ∃ t, exec (.peerAccess port off acc) s = .next t ∧
        t = { s with replies := s.replies ++ [(16 + port, [])] }) ∧
      (∀ base size, s.peerWin = some (base, size) → off + busSize acc ≤ size → waits (base.toNat + off) →
        exec (.peerAccess port off acc) s = .next s) ∧
      ∀ base size, s.peerWin = some (base, size) → off + busSize acc ≤ size → ¬ waits (base.toNat + off) →
        ∃ t, exec (.peerAccess port off acc) s = .next t ∧
        (∀ n, acc = .read n → t = { s with replies := s.replies ++ [(16 + port, (at_ (base.toNat + off) n).map s.readLoc)] }) ∧
        (∀ bs, acc = .write bs → Stores (at_ (base.toNat + off) bs.length) bs s t ∧ t.replies = s.replies) ∧
        ∀ op wide b c, acc = .atomic op wide b c →
          let n := if wide then 8 else 4
          let old := (at_ (base.toNat + off) n).map s.readLoc
          Stores (at_ (base.toNat + off) n) (leBytes (atomOp op.toNat (8 * n) (leNat old) (b.toNat % 2 ^ (8 * n))
            (c.toNat % 2 ^ (8 * n))) n) s t ∧ t.replies = s.replies ++ [(16 + port, old)])) ∧
  (∀ f : Fn, let pa := (lookupD s.apertures f.link 0).toNat + off
    (s.answers = false ∨ f.num ≠ 0 ∨ 2 ≤ f.link ∨ 2 ^ 36 < off + busSize acc ∨ Config.lpddrBytes < pa + busSize acc ∨ waits pa →
      exec (.hostApertureAccess f off acc) s = .next s) ∧
    (s.answers = true → f.num = 0 → f.link < 2 → off + busSize acc ≤ 2 ^ 36 → pa + busSize acc ≤ Config.lpddrBytes → ¬ waits pa →
      ∃ t, exec (.hostApertureAccess f off acc) s = .next t ∧
        (∀ n, acc = .read n → t = { s with replies := s.replies ++ [(f.link, (at_ pa n).map s.readLoc)] }) ∧
        (∀ bs, acc = .write bs → Stores (at_ pa bs.length) bs s t ∧ t.replies = s.replies) ∧
        ∀ op wide b c, acc = .atomic op wide b c → t = s)) ∧
  (s.answers = (!s.ready.trip && (s.ready.cc != 0 || !s.reloads.isEmpty))) ∧
  ∀ f : Fn,
    let x := s.fnState f
    let ready := 0x3000 ≤ off ∧ off < 0x3020
    let mailbox := s.ready.trip = true ∧ 0x1000 ≤ off ∧ off < 0x1080
    (s.answers = true ∨ ready ∨ mailbox → s.registerRead f off = some ((List.range 8).map (fun i => s.registerByte f (off + i)))) ∧
    (s.answers = false → ¬ ready → ¬ mailbox → s.registerRead f off = none) ∧
    (∀ i, i < 8 ∨ (16 ≤ i ∧ i < 0x1000) ∨ (0x1080 ≤ i ∧ i < 0x2000) ∨ (0x2400 ≤ i ∧ i < 0x2800) ∨ (0x2A00 ≤ i ∧ i < 0x3000) ∨
      (0x3020 ≤ i ∧ i < 0x4000) ∨ (f.num ≠ 0 ∧ 0x3000 ≤ i) → s.registerByte f i = 0) ∧
    (∀ i v, i < 8 → s.vdevOf f = some v → s.registerByte f (8 + i) = BitVec.ofNat 8 (v.pending.toNat / 256 ^ i)) ∧
    s.registerByte f 0x1040 = BitVec.ofNat 8 (x.mailbox.busy.toNat + 2 * x.mailbox.done.toNat + 256 * x.mailbox.result) ∧
    s.registerByte f 0x1041 = BitVec.ofNat 8 ((x.mailbox.busy.toNat + 2 * x.mailbox.done.toNat + 256 * x.mailbox.result) / 256) ∧
    (∀ i, i < 56 → s.registerByte f (0x1008 + i) = cellRead x.mailbox.args i ∧ s.registerByte f (0x1048 + i) = x.mailbox.out.getD i 0) ∧
    (∀ v, v < 64 → s.registerByte f (0x2800 + 8 * v + 2) = (x.vector v).t ∧
      leNat [s.registerByte f (0x2800 + 8 * v), s.registerByte f (0x2801 + 8 * v)] = (x.vector v).d.toNat) ∧
    (f.num = 0 → s.registerByte f 0x3000 = s.ready.clu ∧ s.registerByte f 0x3001 = s.ready.cc ∧
      s.registerByte f 0x3002 = BitVec.ofNat 8 (s.ready.cxl.toNat + 16 * (s.ready.peer.toNat % 16)) ∧
      s.registerByte f 0x3003 = BitVec.ofNat 8 (s.ready.peer.toNat / 16) ∧
      s.registerByte f 0x3004 = BitVec.ofNat 8 (s.ready.peer.toNat / 4096 + 16 * s.ready.link.toNat) ∧
      s.registerByte f 0x3007 = BitVec.ofNat 8 (64 * s.ready.trip.toNat + 128 * s.ready.done.toNat) ∧
      ∀ i, i < 24 → s.registerByte f (0x3008 + i) = BitVec.ofNat 8 (s.ready.chan.toNat / 256 ^ i))

/-! ## Reset, decoding, and one step of the machine (01 R396; 07 R149 to R167; 16 R398; 17 R346, R351) -/

/-- Right after reset, and after DEVICE_RESET in any state: no unit is ready but the command complex after DEVICE_RESET, no
launch, team, queue or binding is there, the module limit is 2,200 W, district 0 holds every quota at its limit and the others
hold none, every vector has its default delay and threshold, and the first launch gets number 1 (R310, R326, R346, R351,
R398). That every byte of memory reads 0 is the model's choice of log entry 1, that the clusters start at 1,100 MHz that of
log entry 2, that READY's CC bits are set at once by DEVICE_RESET, when the boot image is accepted, that of log entry 4, and
that memory stays over DEVICE_RESET that of log entry 101. -/
def Obligations.ResetState : Prop :=
  let fresh := fun (s : State) =>
    s.ready.clu = 0 ∧ s.ready.chan = 0 ∧ s.ready.cxl = 0 ∧ s.ready.peer = 0 ∧ s.ready.link = 0 ∧ s.ready.trip = false ∧
    s.launches = [] ∧ s.teams = [] ∧ s.queues = [] ∧ s.vdevs = [] ∧ s.rights = [] ∧ s.engines = [] ∧ s.asids = [] ∧
    s.power = 2200 ∧ s.freq = List.replicate 8 1100 ∧ s.districts.length = 8 ∧
    s.quota 0 = { groupSlots := 8, registerRows := 8, compactWords := 8, scratchRows := 8, tiles := 8, ropeLanes := 63,
                  engineWeight := 64, queueSlots := 128, capacity := 384, slice := 1000, campInt := 20 } ∧
    (∀ d, 1 ≤ d → d < 8 → s.quota d = { groupSlots := 0, registerRows := 0, compactWords := 0, scratchRows := 0, tiles := 0
                                        ropeLanes := 0, engineWeight := 0, queueSlots := 0, capacity := 0, slice := 1000
                                        campInt := 20 }) ∧
    (∀ f v, ((s.fnState f).vector v).t = 0x20 ∧ ((s.fnState f).vector v).d = 4096 ∧ ((s.fnState f).vector v).pending = 0) ∧
    (∀ f, (s.fnState f).mailbox.busy = false) ∧ (∀ m, lookupD s.errs m (0, 0) = (0, 0)) ∧
    (∀ ch, (s.rows ch).alerts = 0 ∧ (s.rows ch).rfms = 0) ∧
    nextNumber (s.launches.map (·.num)) (s.launches.length + 2) (s.launchCount + 1) = 1
  fresh State.reset ∧ State.reset.Safe ∧ State.reset.ready.cc = 0 ∧ (∀ a, cellRead State.reset.mem a = 0) ∧
  ∀ s : State, ∃ t, exec .deviceReset s = .next t ∧ fresh t ∧ t.mem = s.mem ∧ (t.ready.cc = 0 ∨ t.ready.cc = 0xFF)

/-- The instructions of Table 7.19, word for word as the table has them, decode to what they stand for, and so does the
word with which code is padded; the all-zero word and major 0x3F are no instruction (R149, R151, R152, R157, R213). -/
def Obligations.DecodedWords : Prop :=
  let d := fun (ws : List Word) => decode (ws.flatMap wordBytes)
  d [0x01030102] = .instr (.iadd 0x03 0x01 0x02) 1 ∧
  d [0x0D0303FC] = .instr (.iaddi 0x03 0x03 0xFC) 1 ∧
  d [0x12A203E8] = .instr (.movi 0xA2 1000) 1 ∧
  d [0x53060000, 0x12345678, 0x00000000] = .instr (.movBl 0x06 0x12345678) 3 ∧
  d [0x21010410] = .instr (.ld32 0x01 0x04 0x10) 1 ∧
  d [0x25FFFFFD] = .instr (.bra 0xFFFFFD) 1 ∧
  d [0x290105FF] = .instr (.xfer 0x01 0x05 0xFF) 1 ∧
  d [0x2A0F1F02] = .instr (.wait 0 15 1 15 0x02) 1 ∧
  d [0x2B020020] = .instr (.join 2 0x20) 1 ∧
  d [0x2DA40000] = .instr (.tfetch 0xA4) 1 ∧
  d [0x3E208480, 0x17080203] = .instr (.pfx 2 0 1 0x09 0x17080203) 2 ∧
  d [0x81040506, 0x00080001, 0x00000008] = .instr (.iminX { d := 0x04, a := 0x05, b := 0x06, wmode := 1, f := 0x08 }) 3 ∧
  d [0x820A0102, 0x00001141, 0x0000C800] =
    .instr (.faddX { d := 0x0A, a := 0x01, b := 0x02, apat := 1, aparm := 5, wmode := 1, mask := 3, round := 1 }) 3 ∧
  d [0xC700E400, 0x00010000, 0x00000000, 0x00000006, 0x00000000] = .instr (.brd { a := 0xE4, lit := some 6 }) 5 ∧
  d [0x13FFFF00] = .instr (.mov 0xFF 0xFF) 1 ∧
  d [0x00000000] = .illegal 0 24 ∧ d [0x3F000000] = .illegal 0 24

/-- A step of a group that issues runs the instruction that its words decode to, read at its PC with the right to fetch, in the
machine as the group finds it; it then only completes a debug step that the instruction was and notes a step on a sync word.
Words that are no instruction run as the encoding that no rule defines; while a channel that holds one of its words is not ready
the group waits for it (R347; log entry 110). An instruction that hands on mail or the baton finds the groups of its partition
FAULTED that fault in the same clock (R361, R365), and these issue next; the order of one clock is the model's reading of log
entry 8. With nothing on the agenda, no camp to take and no trip, the first group that can issue does (R149, R150, R151, R355,
R396), which is the model's choice of log entry 6. -/
def Obligations.StepRunsDecodedInstruction : Prop :=
  (∀ (s : State) (r : GroupRef) (rest : List Act) (c : Ctx) (w : Nat → Word), s.agenda = .issue r :: rest →
    let s0 : State := { s with agenda := rest }
    let s1 := s0.begins r
    let ends := finish r (s0.found r) (s0.stepOf r)
    s0.issues r = true → s0.inTurn r = true → ctxOf s1 = some c →
    (∀ i, i < instrLen (w 0) → s1.fetchWord c.launch (c.pc + BitVec.ofNat 64 (4 * i)).toNat = .ok (w i)) →
    ((∃ i, i < instrLen (w 0) ∧ s1.wordReady c.launch (c.pc + BitVec.ofNat 64 (4 * i)).toNat = false) → ∃ t, step s = .next t ∧
      t.mem = s.mem ∧ ∀ g, t.group? r = some g → g.hold = some .channel) ∧
    ((∀ i, i < instrLen (w 0) → s1.wordReady c.launch (c.pc + BitVec.ofNat 64 (4 * i)).toNat = true) →
    (∀ i n, decodeWords (w 0) (w 1) (w 2) (w 3) (w 4) = .instr i n → step s = ends (exec i s1)) ∧
    (∀ o b, decodeWords (w 0) (w 1) (w 2) (w 3) (w 4) = .illegal o b → step s = ends (exec (.illegalEncoding o b) s1)))) ∧
  (∀ (s : State) (r : GroupRef),
    let s1 := s.begins r
    s1 = { s with cur := r, doomed := s1.doomed, teams := s1.teams } ∧
    (∀ q, (∀ e ∈ s.found r, e.1 ≠ q) → s1.group? q = s.group? q) ∧
    (∀ e ∈ s.found r, (s1.group? e.1).map (·.state) = (s.group? e.1).map (fun _ => .faulted)) ∧
    (s.found r = [] → s1.teams = s.teams ∧ s1.doomed = s.doomed.filter (· ≠ r))) ∧
  (∀ (s : State) (r : GroupRef), s.agenda = [] → s.ready.trip = false → s.nextCamp = none → s.nextIssue = some r →
    step s = step { s with agenda := [.issue r] }) ∧
  (∀ (r : GroupRef) (t : State) (g : Group), t.group? r = some g → g.stepDue = none → finish r [] none (.next t) = .next t ∧
    ∀ p, ∃ steps, finish r [] p (.next t) = .next { t with steps := steps }) ∧
  ∀ (s : State) (l : Launch) (pc : Nat) (a : Loc), isWindow pc = false → s.vaLoc l pc 4 4 = .ok a →
    s.fetchWord l pc = .ok (s.readLoc { a with addr := a.addr + 3 } ++ s.readLoc { a with addr := a.addr + 2 } ++
      s.readLoc { a with addr := a.addr + 1 } ++ s.readLoc a)

/-- Every instruction that breaks no encoding rule decodes, from the words that the encoder gives it, to itself with every
operand as it was, and to its own length; and the words of an instruction that the decoder reads are those that the encoder
gives it, so that no bit of an encoding is dropped. A PFX before a word that it does not accept keeps none of its own zero
bits (R149, R151 to R167). -/
def Obligations.RoundTrip : Prop :=
  (∀ i : Instr, i.wf = true → encode i ≠ [] → decode (encodeBytes i) = .instr i (encode i).length) ∧
  ∀ (bs : List Byte) (i : Instr) (n : Nat), 20 ≤ bs.length → decode bs = .instr i n →
    (∀ m w r f next, i = .pfx m w r f next → pfxNextOk next = true) →
    encodeBytes i = bs.take (4 * n) ∧ i.wf = true ∧ n = (encode i).length

/-- Every step keeps the canonical form of memory: no address twice, addresses rising, no byte listed that an unlisted one
would read the same. It holds of every state, not only of those that a run reaches. -/
def Obligations.StepKeepsMemoryForm : Prop := ∀ s t : State, s.Safe → step s = .next t → t.Safe
end

