-- ==== Sys2Proof/Laws/State.lean ====
section
/-! SUPPORT. What each plain update of State writes, and that it leaves every other field. -/

namespace Sys2Proof.Machine

@[simp] theorem State.modTeam_mem (s : State) (t : TeamRef) (f : Team → Team) : (s.modTeam t f).mem = s.mem := rfl
@[simp] theorem State.modTeam_memPoison (s : State) (t : TeamRef) (f : Team → Team) : (s.modTeam t f).memPoison = s.memPoison := rfl
@[simp] theorem State.modTeam_clocks (s : State) (t : TeamRef) (f : Team → Team) : (s.modTeam t f).clocks = s.clocks := rfl
@[simp] theorem State.modTeam_hostClk (s : State) (t : TeamRef) (f : Team → Team) : (s.modTeam t f).hostClk = s.hostClk := rfl
@[simp] theorem State.modTeam_ccClk (s : State) (t : TeamRef) (f : Team → Team) : (s.modTeam t f).ccClk = s.ccClk := rfl
@[simp] theorem State.modTeam_chanClk (s : State) (t : TeamRef) (f : Team → Team) : (s.modTeam t f).chanClk = s.chanClk := rfl
@[simp] theorem State.modTeam_freq (s : State) (t : TeamRef) (f : Team → Team) : (s.modTeam t f).freq = s.freq := rfl
@[simp] theorem State.modTeam_freqSince (s : State) (t : TeamRef) (f : Team → Team) : (s.modTeam t f).freqSince = s.freqSince := rfl
@[simp] theorem State.modTeam_power (s : State) (t : TeamRef) (f : Team → Team) : (s.modTeam t f).power = s.power := rfl
@[simp] theorem State.modTeam_ready (s : State) (t : TeamRef) (f : Team → Team) : (s.modTeam t f).ready = s.ready := rfl
@[simp] theorem State.modTeam_cxlSize (s : State) (t : TeamRef) (f : Team → Team) : (s.modTeam t f).cxlSize = s.cxlSize := rfl
@[simp] theorem State.modTeam_peerSize (s : State) (t : TeamRef) (f : Team → Team) : (s.modTeam t f).peerSize = s.peerSize := rfl
@[simp] theorem State.modTeam_coreSeq (s : State) (t : TeamRef) (f : Team → Team) : (s.modTeam t f).coreSeq = s.coreSeq := rfl
@[simp] theorem State.modTeam_ccSeq (s : State) (t : TeamRef) (f : Team → Team) : (s.modTeam t f).ccSeq = s.ccSeq := rfl
@[simp] theorem State.modTeam_cluSeq (s : State) (t : TeamRef) (f : Team → Team) : (s.modTeam t f).cluSeq = s.cluSeq := rfl
@[simp] theorem State.modTeam_asyncSeq (s : State) (t : TeamRef) (f : Team → Team) : (s.modTeam t f).asyncSeq = s.asyncSeq := rfl
@[simp] theorem State.modTeam_chanSeq (s : State) (t : TeamRef) (f : Team → Team) : (s.modTeam t f).chanSeq = s.chanSeq := rfl
@[simp] theorem State.modTeam_errs (s : State) (t : TeamRef) (f : Team → Team) : (s.modTeam t f).errs = s.errs := rfl
@[simp] theorem State.modTeam_lastError (s : State) (t : TeamRef) (f : Team → Team) : (s.modTeam t f).lastError = s.lastError := rfl
@[simp] theorem State.modTeam_rowAct (s : State) (t : TeamRef) (f : Team → Team) : (s.modTeam t f).rowAct = s.rowAct := rfl
@[simp] theorem State.modTeam_fns (s : State) (t : TeamRef) (f : Team → Team) : (s.modTeam t f).fns = s.fns := rfl
@[simp] theorem State.modTeam_vdevs (s : State) (t : TeamRef) (f : Team → Team) : (s.modTeam t f).vdevs = s.vdevs := rfl
@[simp] theorem State.modTeam_queues (s : State) (t : TeamRef) (f : Team → Team) : (s.modTeam t f).queues = s.queues := rfl
@[simp] theorem State.modTeam_hubCopies (s : State) (t : TeamRef) (f : Team → Team) : (s.modTeam t f).hubCopies = s.hubCopies := rfl
@[simp] theorem State.modTeam_late (s : State) (t : TeamRef) (f : Team → Team) : (s.modTeam t f).late = s.late := rfl
@[simp] theorem State.modTeam_districts (s : State) (t : TeamRef) (f : Team → Team) : (s.modTeam t f).districts = s.districts := rfl
@[simp] theorem State.modTeam_launchCount (s : State) (t : TeamRef) (f : Team → Team) : (s.modTeam t f).launchCount = s.launchCount := rfl
@[simp] theorem State.modTeam_launches (s : State) (t : TeamRef) (f : Team → Team) : (s.modTeam t f).launches = s.launches := rfl
@[simp] theorem State.modTeam_teams (s : State) (t : TeamRef) (f : Team → Team) : (s.modTeam t f).teams = s.teams.map (fun m => if m.ref = t then f m else m) := rfl
@[simp] theorem State.modTeam_nextOrder (s : State) (t : TeamRef) (f : Team → Team) : (s.modTeam t f).nextOrder = s.nextOrder := rfl
@[simp] theorem State.modTeam_engines (s : State) (t : TeamRef) (f : Team → Team) : (s.modTeam t f).engines = s.engines := rfl
@[simp] theorem State.modTeam_asids (s : State) (t : TeamRef) (f : Team → Team) : (s.modTeam t f).asids = s.asids := rfl
@[simp] theorem State.modTeam_apertures (s : State) (t : TeamRef) (f : Team → Team) : (s.modTeam t f).apertures = s.apertures := rfl
@[simp] theorem State.modTeam_cxlMap (s : State) (t : TeamRef) (f : Team → Team) : (s.modTeam t f).cxlMap = s.cxlMap := rfl
@[simp] theorem State.modTeam_peerWin (s : State) (t : TeamRef) (f : Team → Team) : (s.modTeam t f).peerWin = s.peerWin := rfl
@[simp] theorem State.modTeam_fw (s : State) (t : TeamRef) (f : Team → Team) : (s.modTeam t f).fw = s.fw := rfl
@[simp] theorem State.modTeam_fwMin (s : State) (t : TeamRef) (f : Team → Team) : (s.modTeam t f).fwMin = s.fwMin := rfl
@[simp] theorem State.modTeam_reloads (s : State) (t : TeamRef) (f : Team → Team) : (s.modTeam t f).reloads = s.reloads := rfl
@[simp] theorem State.modTeam_serving (s : State) (t : TeamRef) (f : Team → Team) : (s.modTeam t f).serving = s.serving := rfl
@[simp] theorem State.modTeam_rights (s : State) (t : TeamRef) (f : Team → Team) : (s.modTeam t f).rights = s.rights := rfl
@[simp] theorem State.modTeam_eventSeq (s : State) (t : TeamRef) (f : Team → Team) : (s.modTeam t f).eventSeq = s.eventSeq := rfl
@[simp] theorem State.modTeam_invals (s : State) (t : TeamRef) (f : Team → Team) : (s.modTeam t f).invals = s.invals := rfl
@[simp] theorem State.modTeam_drains (s : State) (t : TeamRef) (f : Team → Team) : (s.modTeam t f).drains = s.drains := rfl
@[simp] theorem State.modTeam_retrains (s : State) (t : TeamRef) (f : Team → Team) : (s.modTeam t f).retrains = s.retrains := rfl
@[simp] theorem State.modTeam_replies (s : State) (t : TeamRef) (f : Team → Team) : (s.modTeam t f).replies = s.replies := rfl
@[simp] theorem State.modTeam_irqs (s : State) (t : TeamRef) (f : Team → Team) : (s.modTeam t f).irqs = s.irqs := rfl
@[simp] theorem State.modTeam_marks (s : State) (t : TeamRef) (f : Team → Team) : (s.modTeam t f).marks = s.marks := rfl
@[simp] theorem State.modTeam_blockSeqs (s : State) (t : TeamRef) (f : Team → Team) : (s.modTeam t f).blockSeqs = s.blockSeqs := rfl
@[simp] theorem State.modTeam_agenda (s : State) (t : TeamRef) (f : Team → Team) : (s.modTeam t f).agenda = s.agenda := rfl
@[simp] theorem State.modTeam_cur (s : State) (t : TeamRef) (f : Team → Team) : (s.modTeam t f).cur = s.cur := rfl
@[simp] theorem State.modTeam_free (s : State) (t : TeamRef) (f : Team → Team) : (s.modTeam t f).free = s.free := rfl
@[simp] theorem State.modTeam_doomed (s : State) (t : TeamRef) (f : Team → Team) : (s.modTeam t f).doomed = s.doomed := rfl
@[simp] theorem State.modTeam_steps (s : State) (t : TeamRef) (f : Team → Team) : (s.modTeam t f).steps = s.steps := rfl

@[simp] theorem State.modGroup_mem (s : State) (g : GroupRef) (f : Group → Group) : (s.modGroup g f).mem = s.mem := rfl
@[simp] theorem State.modGroup_memPoison (s : State) (g : GroupRef) (f : Group → Group) : (s.modGroup g f).memPoison = s.memPoison := rfl
@[simp] theorem State.modGroup_clocks (s : State) (g : GroupRef) (f : Group → Group) : (s.modGroup g f).clocks = s.clocks := rfl
@[simp] theorem State.modGroup_hostClk (s : State) (g : GroupRef) (f : Group → Group) : (s.modGroup g f).hostClk = s.hostClk := rfl
@[simp] theorem State.modGroup_ccClk (s : State) (g : GroupRef) (f : Group → Group) : (s.modGroup g f).ccClk = s.ccClk := rfl
@[simp] theorem State.modGroup_chanClk (s : State) (g : GroupRef) (f : Group → Group) : (s.modGroup g f).chanClk = s.chanClk := rfl
@[simp] theorem State.modGroup_freq (s : State) (g : GroupRef) (f : Group → Group) : (s.modGroup g f).freq = s.freq := rfl
@[simp] theorem State.modGroup_freqSince (s : State) (g : GroupRef) (f : Group → Group) : (s.modGroup g f).freqSince = s.freqSince := rfl
@[simp] theorem State.modGroup_power (s : State) (g : GroupRef) (f : Group → Group) : (s.modGroup g f).power = s.power := rfl
@[simp] theorem State.modGroup_ready (s : State) (g : GroupRef) (f : Group → Group) : (s.modGroup g f).ready = s.ready := rfl
@[simp] theorem State.modGroup_cxlSize (s : State) (g : GroupRef) (f : Group → Group) : (s.modGroup g f).cxlSize = s.cxlSize := rfl
@[simp] theorem State.modGroup_peerSize (s : State) (g : GroupRef) (f : Group → Group) : (s.modGroup g f).peerSize = s.peerSize := rfl
@[simp] theorem State.modGroup_coreSeq (s : State) (g : GroupRef) (f : Group → Group) : (s.modGroup g f).coreSeq = s.coreSeq := rfl
@[simp] theorem State.modGroup_ccSeq (s : State) (g : GroupRef) (f : Group → Group) : (s.modGroup g f).ccSeq = s.ccSeq := rfl
@[simp] theorem State.modGroup_cluSeq (s : State) (g : GroupRef) (f : Group → Group) : (s.modGroup g f).cluSeq = s.cluSeq := rfl
@[simp] theorem State.modGroup_asyncSeq (s : State) (g : GroupRef) (f : Group → Group) : (s.modGroup g f).asyncSeq = s.asyncSeq := rfl
@[simp] theorem State.modGroup_chanSeq (s : State) (g : GroupRef) (f : Group → Group) : (s.modGroup g f).chanSeq = s.chanSeq := rfl
@[simp] theorem State.modGroup_errs (s : State) (g : GroupRef) (f : Group → Group) : (s.modGroup g f).errs = s.errs := rfl
@[simp] theorem State.modGroup_lastError (s : State) (g : GroupRef) (f : Group → Group) : (s.modGroup g f).lastError = s.lastError := rfl
@[simp] theorem State.modGroup_rowAct (s : State) (g : GroupRef) (f : Group → Group) : (s.modGroup g f).rowAct = s.rowAct := rfl
@[simp] theorem State.modGroup_fns (s : State) (g : GroupRef) (f : Group → Group) : (s.modGroup g f).fns = s.fns := rfl
@[simp] theorem State.modGroup_vdevs (s : State) (g : GroupRef) (f : Group → Group) : (s.modGroup g f).vdevs = s.vdevs := rfl
@[simp] theorem State.modGroup_queues (s : State) (g : GroupRef) (f : Group → Group) : (s.modGroup g f).queues = s.queues := rfl
@[simp] theorem State.modGroup_hubCopies (s : State) (g : GroupRef) (f : Group → Group) : (s.modGroup g f).hubCopies = s.hubCopies := rfl
@[simp] theorem State.modGroup_late (s : State) (g : GroupRef) (f : Group → Group) : (s.modGroup g f).late = s.late := rfl
@[simp] theorem State.modGroup_districts (s : State) (g : GroupRef) (f : Group → Group) : (s.modGroup g f).districts = s.districts := rfl
@[simp] theorem State.modGroup_launchCount (s : State) (g : GroupRef) (f : Group → Group) : (s.modGroup g f).launchCount = s.launchCount := rfl
@[simp] theorem State.modGroup_launches (s : State) (g : GroupRef) (f : Group → Group) : (s.modGroup g f).launches = s.launches := rfl
@[simp] theorem State.modGroup_nextOrder (s : State) (g : GroupRef) (f : Group → Group) : (s.modGroup g f).nextOrder = s.nextOrder := rfl
@[simp] theorem State.modGroup_engines (s : State) (g : GroupRef) (f : Group → Group) : (s.modGroup g f).engines = s.engines := rfl
@[simp] theorem State.modGroup_asids (s : State) (g : GroupRef) (f : Group → Group) : (s.modGroup g f).asids = s.asids := rfl
@[simp] theorem State.modGroup_apertures (s : State) (g : GroupRef) (f : Group → Group) : (s.modGroup g f).apertures = s.apertures := rfl
@[simp] theorem State.modGroup_cxlMap (s : State) (g : GroupRef) (f : Group → Group) : (s.modGroup g f).cxlMap = s.cxlMap := rfl
@[simp] theorem State.modGroup_peerWin (s : State) (g : GroupRef) (f : Group → Group) : (s.modGroup g f).peerWin = s.peerWin := rfl
@[simp] theorem State.modGroup_fw (s : State) (g : GroupRef) (f : Group → Group) : (s.modGroup g f).fw = s.fw := rfl
@[simp] theorem State.modGroup_fwMin (s : State) (g : GroupRef) (f : Group → Group) : (s.modGroup g f).fwMin = s.fwMin := rfl
@[simp] theorem State.modGroup_reloads (s : State) (g : GroupRef) (f : Group → Group) : (s.modGroup g f).reloads = s.reloads := rfl
@[simp] theorem State.modGroup_serving (s : State) (g : GroupRef) (f : Group → Group) : (s.modGroup g f).serving = s.serving := rfl
@[simp] theorem State.modGroup_rights (s : State) (g : GroupRef) (f : Group → Group) : (s.modGroup g f).rights = s.rights := rfl
@[simp] theorem State.modGroup_eventSeq (s : State) (g : GroupRef) (f : Group → Group) : (s.modGroup g f).eventSeq = s.eventSeq := rfl
@[simp] theorem State.modGroup_invals (s : State) (g : GroupRef) (f : Group → Group) : (s.modGroup g f).invals = s.invals := rfl
@[simp] theorem State.modGroup_drains (s : State) (g : GroupRef) (f : Group → Group) : (s.modGroup g f).drains = s.drains := rfl
@[simp] theorem State.modGroup_retrains (s : State) (g : GroupRef) (f : Group → Group) : (s.modGroup g f).retrains = s.retrains := rfl
@[simp] theorem State.modGroup_replies (s : State) (g : GroupRef) (f : Group → Group) : (s.modGroup g f).replies = s.replies := rfl
@[simp] theorem State.modGroup_irqs (s : State) (g : GroupRef) (f : Group → Group) : (s.modGroup g f).irqs = s.irqs := rfl
@[simp] theorem State.modGroup_marks (s : State) (g : GroupRef) (f : Group → Group) : (s.modGroup g f).marks = s.marks := rfl
@[simp] theorem State.modGroup_blockSeqs (s : State) (g : GroupRef) (f : Group → Group) : (s.modGroup g f).blockSeqs = s.blockSeqs := rfl
@[simp] theorem State.modGroup_agenda (s : State) (g : GroupRef) (f : Group → Group) : (s.modGroup g f).agenda = s.agenda := rfl
@[simp] theorem State.modGroup_cur (s : State) (g : GroupRef) (f : Group → Group) : (s.modGroup g f).cur = s.cur := rfl
@[simp] theorem State.modGroup_free (s : State) (g : GroupRef) (f : Group → Group) : (s.modGroup g f).free = s.free := rfl
@[simp] theorem State.modGroup_doomed (s : State) (g : GroupRef) (f : Group → Group) : (s.modGroup g f).doomed = s.doomed := rfl
@[simp] theorem State.modGroup_steps (s : State) (g : GroupRef) (f : Group → Group) : (s.modGroup g f).steps = s.steps := rfl

@[simp] theorem State.modLaunch_mem (s : State) (n : Nat) (f : Launch → Launch) : (s.modLaunch n f).mem = s.mem := rfl
@[simp] theorem State.modLaunch_memPoison (s : State) (n : Nat) (f : Launch → Launch) : (s.modLaunch n f).memPoison = s.memPoison := rfl
@[simp] theorem State.modLaunch_clocks (s : State) (n : Nat) (f : Launch → Launch) : (s.modLaunch n f).clocks = s.clocks := rfl
@[simp] theorem State.modLaunch_hostClk (s : State) (n : Nat) (f : Launch → Launch) : (s.modLaunch n f).hostClk = s.hostClk := rfl
@[simp] theorem State.modLaunch_ccClk (s : State) (n : Nat) (f : Launch → Launch) : (s.modLaunch n f).ccClk = s.ccClk := rfl
@[simp] theorem State.modLaunch_chanClk (s : State) (n : Nat) (f : Launch → Launch) : (s.modLaunch n f).chanClk = s.chanClk := rfl
@[simp] theorem State.modLaunch_freq (s : State) (n : Nat) (f : Launch → Launch) : (s.modLaunch n f).freq = s.freq := rfl
@[simp] theorem State.modLaunch_freqSince (s : State) (n : Nat) (f : Launch → Launch) : (s.modLaunch n f).freqSince = s.freqSince := rfl
@[simp] theorem State.modLaunch_power (s : State) (n : Nat) (f : Launch → Launch) : (s.modLaunch n f).power = s.power := rfl
@[simp] theorem State.modLaunch_ready (s : State) (n : Nat) (f : Launch → Launch) : (s.modLaunch n f).ready = s.ready := rfl
@[simp] theorem State.modLaunch_cxlSize (s : State) (n : Nat) (f : Launch → Launch) : (s.modLaunch n f).cxlSize = s.cxlSize := rfl
@[simp] theorem State.modLaunch_peerSize (s : State) (n : Nat) (f : Launch → Launch) : (s.modLaunch n f).peerSize = s.peerSize := rfl
@[simp] theorem State.modLaunch_coreSeq (s : State) (n : Nat) (f : Launch → Launch) : (s.modLaunch n f).coreSeq = s.coreSeq := rfl
@[simp] theorem State.modLaunch_ccSeq (s : State) (n : Nat) (f : Launch → Launch) : (s.modLaunch n f).ccSeq = s.ccSeq := rfl
@[simp] theorem State.modLaunch_cluSeq (s : State) (n : Nat) (f : Launch → Launch) : (s.modLaunch n f).cluSeq = s.cluSeq := rfl
@[simp] theorem State.modLaunch_asyncSeq (s : State) (n : Nat) (f : Launch → Launch) : (s.modLaunch n f).asyncSeq = s.asyncSeq := rfl
@[simp] theorem State.modLaunch_chanSeq (s : State) (n : Nat) (f : Launch → Launch) : (s.modLaunch n f).chanSeq = s.chanSeq := rfl
@[simp] theorem State.modLaunch_errs (s : State) (n : Nat) (f : Launch → Launch) : (s.modLaunch n f).errs = s.errs := rfl
@[simp] theorem State.modLaunch_lastError (s : State) (n : Nat) (f : Launch → Launch) : (s.modLaunch n f).lastError = s.lastError := rfl
@[simp] theorem State.modLaunch_rowAct (s : State) (n : Nat) (f : Launch → Launch) : (s.modLaunch n f).rowAct = s.rowAct := rfl
@[simp] theorem State.modLaunch_fns (s : State) (n : Nat) (f : Launch → Launch) : (s.modLaunch n f).fns = s.fns := rfl
@[simp] theorem State.modLaunch_vdevs (s : State) (n : Nat) (f : Launch → Launch) : (s.modLaunch n f).vdevs = s.vdevs := rfl
@[simp] theorem State.modLaunch_queues (s : State) (n : Nat) (f : Launch → Launch) : (s.modLaunch n f).queues = s.queues := rfl
@[simp] theorem State.modLaunch_hubCopies (s : State) (n : Nat) (f : Launch → Launch) : (s.modLaunch n f).hubCopies = s.hubCopies := rfl
@[simp] theorem State.modLaunch_late (s : State) (n : Nat) (f : Launch → Launch) : (s.modLaunch n f).late = s.late := rfl
@[simp] theorem State.modLaunch_districts (s : State) (n : Nat) (f : Launch → Launch) : (s.modLaunch n f).districts = s.districts := rfl
@[simp] theorem State.modLaunch_launchCount (s : State) (n : Nat) (f : Launch → Launch) : (s.modLaunch n f).launchCount = s.launchCount := rfl
@[simp] theorem State.modLaunch_launches (s : State) (n : Nat) (f : Launch → Launch) : (s.modLaunch n f).launches = s.launches.map (fun l => if l.num = n then f l else l) := rfl
@[simp] theorem State.modLaunch_teams (s : State) (n : Nat) (f : Launch → Launch) : (s.modLaunch n f).teams = s.teams := rfl
@[simp] theorem State.modLaunch_nextOrder (s : State) (n : Nat) (f : Launch → Launch) : (s.modLaunch n f).nextOrder = s.nextOrder := rfl
@[simp] theorem State.modLaunch_engines (s : State) (n : Nat) (f : Launch → Launch) : (s.modLaunch n f).engines = s.engines := rfl
@[simp] theorem State.modLaunch_asids (s : State) (n : Nat) (f : Launch → Launch) : (s.modLaunch n f).asids = s.asids := rfl
@[simp] theorem State.modLaunch_apertures (s : State) (n : Nat) (f : Launch → Launch) : (s.modLaunch n f).apertures = s.apertures := rfl
@[simp] theorem State.modLaunch_cxlMap (s : State) (n : Nat) (f : Launch → Launch) : (s.modLaunch n f).cxlMap = s.cxlMap := rfl
@[simp] theorem State.modLaunch_peerWin (s : State) (n : Nat) (f : Launch → Launch) : (s.modLaunch n f).peerWin = s.peerWin := rfl
@[simp] theorem State.modLaunch_fw (s : State) (n : Nat) (f : Launch → Launch) : (s.modLaunch n f).fw = s.fw := rfl
@[simp] theorem State.modLaunch_fwMin (s : State) (n : Nat) (f : Launch → Launch) : (s.modLaunch n f).fwMin = s.fwMin := rfl
@[simp] theorem State.modLaunch_reloads (s : State) (n : Nat) (f : Launch → Launch) : (s.modLaunch n f).reloads = s.reloads := rfl
@[simp] theorem State.modLaunch_serving (s : State) (n : Nat) (f : Launch → Launch) : (s.modLaunch n f).serving = s.serving := rfl
@[simp] theorem State.modLaunch_rights (s : State) (n : Nat) (f : Launch → Launch) : (s.modLaunch n f).rights = s.rights := rfl
@[simp] theorem State.modLaunch_eventSeq (s : State) (n : Nat) (f : Launch → Launch) : (s.modLaunch n f).eventSeq = s.eventSeq := rfl
@[simp] theorem State.modLaunch_invals (s : State) (n : Nat) (f : Launch → Launch) : (s.modLaunch n f).invals = s.invals := rfl
@[simp] theorem State.modLaunch_drains (s : State) (n : Nat) (f : Launch → Launch) : (s.modLaunch n f).drains = s.drains := rfl
@[simp] theorem State.modLaunch_retrains (s : State) (n : Nat) (f : Launch → Launch) : (s.modLaunch n f).retrains = s.retrains := rfl
@[simp] theorem State.modLaunch_replies (s : State) (n : Nat) (f : Launch → Launch) : (s.modLaunch n f).replies = s.replies := rfl
@[simp] theorem State.modLaunch_irqs (s : State) (n : Nat) (f : Launch → Launch) : (s.modLaunch n f).irqs = s.irqs := rfl
@[simp] theorem State.modLaunch_marks (s : State) (n : Nat) (f : Launch → Launch) : (s.modLaunch n f).marks = s.marks := rfl
@[simp] theorem State.modLaunch_blockSeqs (s : State) (n : Nat) (f : Launch → Launch) : (s.modLaunch n f).blockSeqs = s.blockSeqs := rfl
@[simp] theorem State.modLaunch_agenda (s : State) (n : Nat) (f : Launch → Launch) : (s.modLaunch n f).agenda = s.agenda := rfl
@[simp] theorem State.modLaunch_cur (s : State) (n : Nat) (f : Launch → Launch) : (s.modLaunch n f).cur = s.cur := rfl
@[simp] theorem State.modLaunch_free (s : State) (n : Nat) (f : Launch → Launch) : (s.modLaunch n f).free = s.free := rfl
@[simp] theorem State.modLaunch_doomed (s : State) (n : Nat) (f : Launch → Launch) : (s.modLaunch n f).doomed = s.doomed := rfl
@[simp] theorem State.modLaunch_steps (s : State) (n : Nat) (f : Launch → Launch) : (s.modLaunch n f).steps = s.steps := rfl

@[simp] theorem State.modDistrict_mem (s : State) (d : Nat) (f : District → District) : (s.modDistrict d f).mem = s.mem := rfl
@[simp] theorem State.modDistrict_memPoison (s : State) (d : Nat) (f : District → District) : (s.modDistrict d f).memPoison = s.memPoison := rfl
@[simp] theorem State.modDistrict_clocks (s : State) (d : Nat) (f : District → District) : (s.modDistrict d f).clocks = s.clocks := rfl
@[simp] theorem State.modDistrict_hostClk (s : State) (d : Nat) (f : District → District) : (s.modDistrict d f).hostClk = s.hostClk := rfl
@[simp] theorem State.modDistrict_ccClk (s : State) (d : Nat) (f : District → District) : (s.modDistrict d f).ccClk = s.ccClk := rfl
@[simp] theorem State.modDistrict_chanClk (s : State) (d : Nat) (f : District → District) : (s.modDistrict d f).chanClk = s.chanClk := rfl
@[simp] theorem State.modDistrict_freq (s : State) (d : Nat) (f : District → District) : (s.modDistrict d f).freq = s.freq := rfl
@[simp] theorem State.modDistrict_freqSince (s : State) (d : Nat) (f : District → District) : (s.modDistrict d f).freqSince = s.freqSince := rfl
@[simp] theorem State.modDistrict_power (s : State) (d : Nat) (f : District → District) : (s.modDistrict d f).power = s.power := rfl
@[simp] theorem State.modDistrict_ready (s : State) (d : Nat) (f : District → District) : (s.modDistrict d f).ready = s.ready := rfl
@[simp] theorem State.modDistrict_cxlSize (s : State) (d : Nat) (f : District → District) : (s.modDistrict d f).cxlSize = s.cxlSize := rfl
@[simp] theorem State.modDistrict_peerSize (s : State) (d : Nat) (f : District → District) : (s.modDistrict d f).peerSize = s.peerSize := rfl
@[simp] theorem State.modDistrict_coreSeq (s : State) (d : Nat) (f : District → District) : (s.modDistrict d f).coreSeq = s.coreSeq := rfl
@[simp] theorem State.modDistrict_ccSeq (s : State) (d : Nat) (f : District → District) : (s.modDistrict d f).ccSeq = s.ccSeq := rfl
@[simp] theorem State.modDistrict_cluSeq (s : State) (d : Nat) (f : District → District) : (s.modDistrict d f).cluSeq = s.cluSeq := rfl
@[simp] theorem State.modDistrict_asyncSeq (s : State) (d : Nat) (f : District → District) : (s.modDistrict d f).asyncSeq = s.asyncSeq := rfl
@[simp] theorem State.modDistrict_chanSeq (s : State) (d : Nat) (f : District → District) : (s.modDistrict d f).chanSeq = s.chanSeq := rfl
@[simp] theorem State.modDistrict_errs (s : State) (d : Nat) (f : District → District) : (s.modDistrict d f).errs = s.errs := rfl
@[simp] theorem State.modDistrict_lastError (s : State) (d : Nat) (f : District → District) : (s.modDistrict d f).lastError = s.lastError := rfl
@[simp] theorem State.modDistrict_rowAct (s : State) (d : Nat) (f : District → District) : (s.modDistrict d f).rowAct = s.rowAct := rfl
@[simp] theorem State.modDistrict_fns (s : State) (d : Nat) (f : District → District) : (s.modDistrict d f).fns = s.fns := rfl
@[simp] theorem State.modDistrict_vdevs (s : State) (d : Nat) (f : District → District) : (s.modDistrict d f).vdevs = s.vdevs := rfl
@[simp] theorem State.modDistrict_queues (s : State) (d : Nat) (f : District → District) : (s.modDistrict d f).queues = s.queues := rfl
@[simp] theorem State.modDistrict_hubCopies (s : State) (d : Nat) (f : District → District) : (s.modDistrict d f).hubCopies = s.hubCopies := rfl
@[simp] theorem State.modDistrict_late (s : State) (d : Nat) (f : District → District) : (s.modDistrict d f).late = s.late := rfl
@[simp] theorem State.modDistrict_districts (s : State) (d : Nat) (f : District → District) : (s.modDistrict d f).districts = modAt s.districts d f := rfl
@[simp] theorem State.modDistrict_launchCount (s : State) (d : Nat) (f : District → District) : (s.modDistrict d f).launchCount = s.launchCount := rfl
@[simp] theorem State.modDistrict_launches (s : State) (d : Nat) (f : District → District) : (s.modDistrict d f).launches = s.launches := rfl
@[simp] theorem State.modDistrict_teams (s : State) (d : Nat) (f : District → District) : (s.modDistrict d f).teams = s.teams := rfl
@[simp] theorem State.modDistrict_nextOrder (s : State) (d : Nat) (f : District → District) : (s.modDistrict d f).nextOrder = s.nextOrder := rfl
@[simp] theorem State.modDistrict_engines (s : State) (d : Nat) (f : District → District) : (s.modDistrict d f).engines = s.engines := rfl
@[simp] theorem State.modDistrict_asids (s : State) (d : Nat) (f : District → District) : (s.modDistrict d f).asids = s.asids := rfl
@[simp] theorem State.modDistrict_apertures (s : State) (d : Nat) (f : District → District) : (s.modDistrict d f).apertures = s.apertures := rfl
@[simp] theorem State.modDistrict_cxlMap (s : State) (d : Nat) (f : District → District) : (s.modDistrict d f).cxlMap = s.cxlMap := rfl
@[simp] theorem State.modDistrict_peerWin (s : State) (d : Nat) (f : District → District) : (s.modDistrict d f).peerWin = s.peerWin := rfl
@[simp] theorem State.modDistrict_fw (s : State) (d : Nat) (f : District → District) : (s.modDistrict d f).fw = s.fw := rfl
@[simp] theorem State.modDistrict_fwMin (s : State) (d : Nat) (f : District → District) : (s.modDistrict d f).fwMin = s.fwMin := rfl
@[simp] theorem State.modDistrict_reloads (s : State) (d : Nat) (f : District → District) : (s.modDistrict d f).reloads = s.reloads := rfl
@[simp] theorem State.modDistrict_serving (s : State) (d : Nat) (f : District → District) : (s.modDistrict d f).serving = s.serving := rfl
@[simp] theorem State.modDistrict_rights (s : State) (d : Nat) (f : District → District) : (s.modDistrict d f).rights = s.rights := rfl
@[simp] theorem State.modDistrict_eventSeq (s : State) (d : Nat) (f : District → District) : (s.modDistrict d f).eventSeq = s.eventSeq := rfl
@[simp] theorem State.modDistrict_invals (s : State) (d : Nat) (f : District → District) : (s.modDistrict d f).invals = s.invals := rfl
@[simp] theorem State.modDistrict_drains (s : State) (d : Nat) (f : District → District) : (s.modDistrict d f).drains = s.drains := rfl
@[simp] theorem State.modDistrict_retrains (s : State) (d : Nat) (f : District → District) : (s.modDistrict d f).retrains = s.retrains := rfl
@[simp] theorem State.modDistrict_replies (s : State) (d : Nat) (f : District → District) : (s.modDistrict d f).replies = s.replies := rfl
@[simp] theorem State.modDistrict_irqs (s : State) (d : Nat) (f : District → District) : (s.modDistrict d f).irqs = s.irqs := rfl
@[simp] theorem State.modDistrict_marks (s : State) (d : Nat) (f : District → District) : (s.modDistrict d f).marks = s.marks := rfl
@[simp] theorem State.modDistrict_blockSeqs (s : State) (d : Nat) (f : District → District) : (s.modDistrict d f).blockSeqs = s.blockSeqs := rfl
@[simp] theorem State.modDistrict_agenda (s : State) (d : Nat) (f : District → District) : (s.modDistrict d f).agenda = s.agenda := rfl
@[simp] theorem State.modDistrict_cur (s : State) (d : Nat) (f : District → District) : (s.modDistrict d f).cur = s.cur := rfl
@[simp] theorem State.modDistrict_free (s : State) (d : Nat) (f : District → District) : (s.modDistrict d f).free = s.free := rfl
@[simp] theorem State.modDistrict_doomed (s : State) (d : Nat) (f : District → District) : (s.modDistrict d f).doomed = s.doomed := rfl
@[simp] theorem State.modDistrict_steps (s : State) (d : Nat) (f : District → District) : (s.modDistrict d f).steps = s.steps := rfl

@[simp] theorem State.modEngine_mem (s : State) (q : Nat) (f : Engine → Engine) : (s.modEngine q f).mem = s.mem := rfl
@[simp] theorem State.modEngine_memPoison (s : State) (q : Nat) (f : Engine → Engine) : (s.modEngine q f).memPoison = s.memPoison := rfl
@[simp] theorem State.modEngine_clocks (s : State) (q : Nat) (f : Engine → Engine) : (s.modEngine q f).clocks = s.clocks := rfl
@[simp] theorem State.modEngine_hostClk (s : State) (q : Nat) (f : Engine → Engine) : (s.modEngine q f).hostClk = s.hostClk := rfl
@[simp] theorem State.modEngine_ccClk (s : State) (q : Nat) (f : Engine → Engine) : (s.modEngine q f).ccClk = s.ccClk := rfl
@[simp] theorem State.modEngine_chanClk (s : State) (q : Nat) (f : Engine → Engine) : (s.modEngine q f).chanClk = s.chanClk := rfl
@[simp] theorem State.modEngine_freq (s : State) (q : Nat) (f : Engine → Engine) : (s.modEngine q f).freq = s.freq := rfl
@[simp] theorem State.modEngine_freqSince (s : State) (q : Nat) (f : Engine → Engine) : (s.modEngine q f).freqSince = s.freqSince := rfl
@[simp] theorem State.modEngine_power (s : State) (q : Nat) (f : Engine → Engine) : (s.modEngine q f).power = s.power := rfl
@[simp] theorem State.modEngine_ready (s : State) (q : Nat) (f : Engine → Engine) : (s.modEngine q f).ready = s.ready := rfl
@[simp] theorem State.modEngine_cxlSize (s : State) (q : Nat) (f : Engine → Engine) : (s.modEngine q f).cxlSize = s.cxlSize := rfl
@[simp] theorem State.modEngine_peerSize (s : State) (q : Nat) (f : Engine → Engine) : (s.modEngine q f).peerSize = s.peerSize := rfl
@[simp] theorem State.modEngine_coreSeq (s : State) (q : Nat) (f : Engine → Engine) : (s.modEngine q f).coreSeq = s.coreSeq := rfl
@[simp] theorem State.modEngine_ccSeq (s : State) (q : Nat) (f : Engine → Engine) : (s.modEngine q f).ccSeq = s.ccSeq := rfl
@[simp] theorem State.modEngine_cluSeq (s : State) (q : Nat) (f : Engine → Engine) : (s.modEngine q f).cluSeq = s.cluSeq := rfl
@[simp] theorem State.modEngine_asyncSeq (s : State) (q : Nat) (f : Engine → Engine) : (s.modEngine q f).asyncSeq = s.asyncSeq := rfl
@[simp] theorem State.modEngine_chanSeq (s : State) (q : Nat) (f : Engine → Engine) : (s.modEngine q f).chanSeq = s.chanSeq := rfl
@[simp] theorem State.modEngine_errs (s : State) (q : Nat) (f : Engine → Engine) : (s.modEngine q f).errs = s.errs := rfl
@[simp] theorem State.modEngine_lastError (s : State) (q : Nat) (f : Engine → Engine) : (s.modEngine q f).lastError = s.lastError := rfl
@[simp] theorem State.modEngine_rowAct (s : State) (q : Nat) (f : Engine → Engine) : (s.modEngine q f).rowAct = s.rowAct := rfl
@[simp] theorem State.modEngine_fns (s : State) (q : Nat) (f : Engine → Engine) : (s.modEngine q f).fns = s.fns := rfl
@[simp] theorem State.modEngine_vdevs (s : State) (q : Nat) (f : Engine → Engine) : (s.modEngine q f).vdevs = s.vdevs := rfl
@[simp] theorem State.modEngine_queues (s : State) (q : Nat) (f : Engine → Engine) : (s.modEngine q f).queues = s.queues := rfl
@[simp] theorem State.modEngine_hubCopies (s : State) (q : Nat) (f : Engine → Engine) : (s.modEngine q f).hubCopies = s.hubCopies := rfl
@[simp] theorem State.modEngine_late (s : State) (q : Nat) (f : Engine → Engine) : (s.modEngine q f).late = s.late := rfl
@[simp] theorem State.modEngine_districts (s : State) (q : Nat) (f : Engine → Engine) : (s.modEngine q f).districts = s.districts := rfl
@[simp] theorem State.modEngine_launchCount (s : State) (q : Nat) (f : Engine → Engine) : (s.modEngine q f).launchCount = s.launchCount := rfl
@[simp] theorem State.modEngine_launches (s : State) (q : Nat) (f : Engine → Engine) : (s.modEngine q f).launches = s.launches := rfl
@[simp] theorem State.modEngine_teams (s : State) (q : Nat) (f : Engine → Engine) : (s.modEngine q f).teams = s.teams := rfl
@[simp] theorem State.modEngine_nextOrder (s : State) (q : Nat) (f : Engine → Engine) : (s.modEngine q f).nextOrder = s.nextOrder := rfl
@[simp] theorem State.modEngine_engines (s : State) (q : Nat) (f : Engine → Engine) : (s.modEngine q f).engines = insertKey s.engines q (f (s.engine q)) := rfl
@[simp] theorem State.modEngine_asids (s : State) (q : Nat) (f : Engine → Engine) : (s.modEngine q f).asids = s.asids := rfl
@[simp] theorem State.modEngine_apertures (s : State) (q : Nat) (f : Engine → Engine) : (s.modEngine q f).apertures = s.apertures := rfl
@[simp] theorem State.modEngine_cxlMap (s : State) (q : Nat) (f : Engine → Engine) : (s.modEngine q f).cxlMap = s.cxlMap := rfl
@[simp] theorem State.modEngine_peerWin (s : State) (q : Nat) (f : Engine → Engine) : (s.modEngine q f).peerWin = s.peerWin := rfl
@[simp] theorem State.modEngine_fw (s : State) (q : Nat) (f : Engine → Engine) : (s.modEngine q f).fw = s.fw := rfl
@[simp] theorem State.modEngine_fwMin (s : State) (q : Nat) (f : Engine → Engine) : (s.modEngine q f).fwMin = s.fwMin := rfl
@[simp] theorem State.modEngine_reloads (s : State) (q : Nat) (f : Engine → Engine) : (s.modEngine q f).reloads = s.reloads := rfl
@[simp] theorem State.modEngine_serving (s : State) (q : Nat) (f : Engine → Engine) : (s.modEngine q f).serving = s.serving := rfl
@[simp] theorem State.modEngine_rights (s : State) (q : Nat) (f : Engine → Engine) : (s.modEngine q f).rights = s.rights := rfl
@[simp] theorem State.modEngine_eventSeq (s : State) (q : Nat) (f : Engine → Engine) : (s.modEngine q f).eventSeq = s.eventSeq := rfl
@[simp] theorem State.modEngine_invals (s : State) (q : Nat) (f : Engine → Engine) : (s.modEngine q f).invals = s.invals := rfl
@[simp] theorem State.modEngine_drains (s : State) (q : Nat) (f : Engine → Engine) : (s.modEngine q f).drains = s.drains := rfl
@[simp] theorem State.modEngine_retrains (s : State) (q : Nat) (f : Engine → Engine) : (s.modEngine q f).retrains = s.retrains := rfl
@[simp] theorem State.modEngine_replies (s : State) (q : Nat) (f : Engine → Engine) : (s.modEngine q f).replies = s.replies := rfl
@[simp] theorem State.modEngine_irqs (s : State) (q : Nat) (f : Engine → Engine) : (s.modEngine q f).irqs = s.irqs := rfl
@[simp] theorem State.modEngine_marks (s : State) (q : Nat) (f : Engine → Engine) : (s.modEngine q f).marks = s.marks := rfl
@[simp] theorem State.modEngine_blockSeqs (s : State) (q : Nat) (f : Engine → Engine) : (s.modEngine q f).blockSeqs = s.blockSeqs := rfl
@[simp] theorem State.modEngine_agenda (s : State) (q : Nat) (f : Engine → Engine) : (s.modEngine q f).agenda = s.agenda := rfl
@[simp] theorem State.modEngine_cur (s : State) (q : Nat) (f : Engine → Engine) : (s.modEngine q f).cur = s.cur := rfl
@[simp] theorem State.modEngine_free (s : State) (q : Nat) (f : Engine → Engine) : (s.modEngine q f).free = s.free := rfl
@[simp] theorem State.modEngine_doomed (s : State) (q : Nat) (f : Engine → Engine) : (s.modEngine q f).doomed = s.doomed := rfl
@[simp] theorem State.modEngine_steps (s : State) (q : Nat) (f : Engine → Engine) : (s.modEngine q f).steps = s.steps := rfl

@[simp] theorem State.modFn_mem (s : State) (f : Fn) (g : FnState → FnState) : (s.modFn f g).mem = s.mem := by unfold State.modFn; split <;> rfl
@[simp] theorem State.modFn_memPoison (s : State) (f : Fn) (g : FnState → FnState) : (s.modFn f g).memPoison = s.memPoison := by unfold State.modFn; split <;> rfl
@[simp] theorem State.modFn_clocks (s : State) (f : Fn) (g : FnState → FnState) : (s.modFn f g).clocks = s.clocks := by unfold State.modFn; split <;> rfl
@[simp] theorem State.modFn_hostClk (s : State) (f : Fn) (g : FnState → FnState) : (s.modFn f g).hostClk = s.hostClk := by unfold State.modFn; split <;> rfl
@[simp] theorem State.modFn_ccClk (s : State) (f : Fn) (g : FnState → FnState) : (s.modFn f g).ccClk = s.ccClk := by unfold State.modFn; split <;> rfl
@[simp] theorem State.modFn_chanClk (s : State) (f : Fn) (g : FnState → FnState) : (s.modFn f g).chanClk = s.chanClk := by unfold State.modFn; split <;> rfl
@[simp] theorem State.modFn_freq (s : State) (f : Fn) (g : FnState → FnState) : (s.modFn f g).freq = s.freq := by unfold State.modFn; split <;> rfl
@[simp] theorem State.modFn_freqSince (s : State) (f : Fn) (g : FnState → FnState) : (s.modFn f g).freqSince = s.freqSince := by unfold State.modFn; split <;> rfl
@[simp] theorem State.modFn_power (s : State) (f : Fn) (g : FnState → FnState) : (s.modFn f g).power = s.power := by unfold State.modFn; split <;> rfl
@[simp] theorem State.modFn_ready (s : State) (f : Fn) (g : FnState → FnState) : (s.modFn f g).ready = s.ready := by unfold State.modFn; split <;> rfl
@[simp] theorem State.modFn_cxlSize (s : State) (f : Fn) (g : FnState → FnState) : (s.modFn f g).cxlSize = s.cxlSize := by unfold State.modFn; split <;> rfl
@[simp] theorem State.modFn_peerSize (s : State) (f : Fn) (g : FnState → FnState) : (s.modFn f g).peerSize = s.peerSize := by unfold State.modFn; split <;> rfl
@[simp] theorem State.modFn_coreSeq (s : State) (f : Fn) (g : FnState → FnState) : (s.modFn f g).coreSeq = s.coreSeq := by unfold State.modFn; split <;> rfl
@[simp] theorem State.modFn_ccSeq (s : State) (f : Fn) (g : FnState → FnState) : (s.modFn f g).ccSeq = s.ccSeq := by unfold State.modFn; split <;> rfl
@[simp] theorem State.modFn_cluSeq (s : State) (f : Fn) (g : FnState → FnState) : (s.modFn f g).cluSeq = s.cluSeq := by unfold State.modFn; split <;> rfl
@[simp] theorem State.modFn_asyncSeq (s : State) (f : Fn) (g : FnState → FnState) : (s.modFn f g).asyncSeq = s.asyncSeq := by unfold State.modFn; split <;> rfl
@[simp] theorem State.modFn_chanSeq (s : State) (f : Fn) (g : FnState → FnState) : (s.modFn f g).chanSeq = s.chanSeq := by unfold State.modFn; split <;> rfl
@[simp] theorem State.modFn_errs (s : State) (f : Fn) (g : FnState → FnState) : (s.modFn f g).errs = s.errs := by unfold State.modFn; split <;> rfl
@[simp] theorem State.modFn_lastError (s : State) (f : Fn) (g : FnState → FnState) : (s.modFn f g).lastError = s.lastError := by unfold State.modFn; split <;> rfl
@[simp] theorem State.modFn_rowAct (s : State) (f : Fn) (g : FnState → FnState) : (s.modFn f g).rowAct = s.rowAct := by unfold State.modFn; split <;> rfl
@[simp] theorem State.modFn_vdevs (s : State) (f : Fn) (g : FnState → FnState) : (s.modFn f g).vdevs = s.vdevs := by unfold State.modFn; split <;> rfl
@[simp] theorem State.modFn_queues (s : State) (f : Fn) (g : FnState → FnState) : (s.modFn f g).queues = s.queues := by unfold State.modFn; split <;> rfl
@[simp] theorem State.modFn_hubCopies (s : State) (f : Fn) (g : FnState → FnState) : (s.modFn f g).hubCopies = s.hubCopies := by unfold State.modFn; split <;> rfl
@[simp] theorem State.modFn_late (s : State) (f : Fn) (g : FnState → FnState) : (s.modFn f g).late = s.late := by unfold State.modFn; split <;> rfl
@[simp] theorem State.modFn_districts (s : State) (f : Fn) (g : FnState → FnState) : (s.modFn f g).districts = s.districts := by unfold State.modFn; split <;> rfl
@[simp] theorem State.modFn_launchCount (s : State) (f : Fn) (g : FnState → FnState) : (s.modFn f g).launchCount = s.launchCount := by unfold State.modFn; split <;> rfl
@[simp] theorem State.modFn_launches (s : State) (f : Fn) (g : FnState → FnState) : (s.modFn f g).launches = s.launches := by unfold State.modFn; split <;> rfl
@[simp] theorem State.modFn_teams (s : State) (f : Fn) (g : FnState → FnState) : (s.modFn f g).teams = s.teams := by unfold State.modFn; split <;> rfl
@[simp] theorem State.modFn_nextOrder (s : State) (f : Fn) (g : FnState → FnState) : (s.modFn f g).nextOrder = s.nextOrder := by unfold State.modFn; split <;> rfl
@[simp] theorem State.modFn_engines (s : State) (f : Fn) (g : FnState → FnState) : (s.modFn f g).engines = s.engines := by unfold State.modFn; split <;> rfl
@[simp] theorem State.modFn_asids (s : State) (f : Fn) (g : FnState → FnState) : (s.modFn f g).asids = s.asids := by unfold State.modFn; split <;> rfl
@[simp] theorem State.modFn_apertures (s : State) (f : Fn) (g : FnState → FnState) : (s.modFn f g).apertures = s.apertures := by unfold State.modFn; split <;> rfl
@[simp] theorem State.modFn_cxlMap (s : State) (f : Fn) (g : FnState → FnState) : (s.modFn f g).cxlMap = s.cxlMap := by unfold State.modFn; split <;> rfl
@[simp] theorem State.modFn_peerWin (s : State) (f : Fn) (g : FnState → FnState) : (s.modFn f g).peerWin = s.peerWin := by unfold State.modFn; split <;> rfl
@[simp] theorem State.modFn_fw (s : State) (f : Fn) (g : FnState → FnState) : (s.modFn f g).fw = s.fw := by unfold State.modFn; split <;> rfl
@[simp] theorem State.modFn_fwMin (s : State) (f : Fn) (g : FnState → FnState) : (s.modFn f g).fwMin = s.fwMin := by unfold State.modFn; split <;> rfl
@[simp] theorem State.modFn_reloads (s : State) (f : Fn) (g : FnState → FnState) : (s.modFn f g).reloads = s.reloads := by unfold State.modFn; split <;> rfl
@[simp] theorem State.modFn_serving (s : State) (f : Fn) (g : FnState → FnState) : (s.modFn f g).serving = s.serving := by unfold State.modFn; split <;> rfl
@[simp] theorem State.modFn_rights (s : State) (f : Fn) (g : FnState → FnState) : (s.modFn f g).rights = s.rights := by unfold State.modFn; split <;> rfl
@[simp] theorem State.modFn_eventSeq (s : State) (f : Fn) (g : FnState → FnState) : (s.modFn f g).eventSeq = s.eventSeq := by unfold State.modFn; split <;> rfl
@[simp] theorem State.modFn_invals (s : State) (f : Fn) (g : FnState → FnState) : (s.modFn f g).invals = s.invals := by unfold State.modFn; split <;> rfl
@[simp] theorem State.modFn_drains (s : State) (f : Fn) (g : FnState → FnState) : (s.modFn f g).drains = s.drains := by unfold State.modFn; split <;> rfl
@[simp] theorem State.modFn_retrains (s : State) (f : Fn) (g : FnState → FnState) : (s.modFn f g).retrains = s.retrains := by unfold State.modFn; split <;> rfl
@[simp] theorem State.modFn_replies (s : State) (f : Fn) (g : FnState → FnState) : (s.modFn f g).replies = s.replies := by unfold State.modFn; split <;> rfl
@[simp] theorem State.modFn_irqs (s : State) (f : Fn) (g : FnState → FnState) : (s.modFn f g).irqs = s.irqs := by unfold State.modFn; split <;> rfl
@[simp] theorem State.modFn_marks (s : State) (f : Fn) (g : FnState → FnState) : (s.modFn f g).marks = s.marks := by unfold State.modFn; split <;> rfl
@[simp] theorem State.modFn_blockSeqs (s : State) (f : Fn) (g : FnState → FnState) : (s.modFn f g).blockSeqs = s.blockSeqs := by unfold State.modFn; split <;> rfl
@[simp] theorem State.modFn_agenda (s : State) (f : Fn) (g : FnState → FnState) : (s.modFn f g).agenda = s.agenda := by unfold State.modFn; split <;> rfl
@[simp] theorem State.modFn_cur (s : State) (f : Fn) (g : FnState → FnState) : (s.modFn f g).cur = s.cur := by unfold State.modFn; split <;> rfl
@[simp] theorem State.modFn_free (s : State) (f : Fn) (g : FnState → FnState) : (s.modFn f g).free = s.free := by unfold State.modFn; split <;> rfl
@[simp] theorem State.modFn_doomed (s : State) (f : Fn) (g : FnState → FnState) : (s.modFn f g).doomed = s.doomed := by unfold State.modFn; split <;> rfl
@[simp] theorem State.modFn_steps (s : State) (f : Fn) (g : FnState → FnState) : (s.modFn f g).steps = s.steps := by unfold State.modFn; split <;> rfl

@[simp] theorem State.putQueue_mem (s : State) (q : Queue) : (s.putQueue q).mem = s.mem := by unfold State.putQueue; split <;> rfl
@[simp] theorem State.putQueue_memPoison (s : State) (q : Queue) : (s.putQueue q).memPoison = s.memPoison := by unfold State.putQueue; split <;> rfl
@[simp] theorem State.putQueue_clocks (s : State) (q : Queue) : (s.putQueue q).clocks = s.clocks := by unfold State.putQueue; split <;> rfl
@[simp] theorem State.putQueue_hostClk (s : State) (q : Queue) : (s.putQueue q).hostClk = s.hostClk := by unfold State.putQueue; split <;> rfl
@[simp] theorem State.putQueue_ccClk (s : State) (q : Queue) : (s.putQueue q).ccClk = s.ccClk := by unfold State.putQueue; split <;> rfl
@[simp] theorem State.putQueue_chanClk (s : State) (q : Queue) : (s.putQueue q).chanClk = s.chanClk := by unfold State.putQueue; split <;> rfl
@[simp] theorem State.putQueue_freq (s : State) (q : Queue) : (s.putQueue q).freq = s.freq := by unfold State.putQueue; split <;> rfl
@[simp] theorem State.putQueue_freqSince (s : State) (q : Queue) : (s.putQueue q).freqSince = s.freqSince := by unfold State.putQueue; split <;> rfl
@[simp] theorem State.putQueue_power (s : State) (q : Queue) : (s.putQueue q).power = s.power := by unfold State.putQueue; split <;> rfl
@[simp] theorem State.putQueue_ready (s : State) (q : Queue) : (s.putQueue q).ready = s.ready := by unfold State.putQueue; split <;> rfl
@[simp] theorem State.putQueue_cxlSize (s : State) (q : Queue) : (s.putQueue q).cxlSize = s.cxlSize := by unfold State.putQueue; split <;> rfl
@[simp] theorem State.putQueue_peerSize (s : State) (q : Queue) : (s.putQueue q).peerSize = s.peerSize := by unfold State.putQueue; split <;> rfl
@[simp] theorem State.putQueue_coreSeq (s : State) (q : Queue) : (s.putQueue q).coreSeq = s.coreSeq := by unfold State.putQueue; split <;> rfl
@[simp] theorem State.putQueue_ccSeq (s : State) (q : Queue) : (s.putQueue q).ccSeq = s.ccSeq := by unfold State.putQueue; split <;> rfl
@[simp] theorem State.putQueue_cluSeq (s : State) (q : Queue) : (s.putQueue q).cluSeq = s.cluSeq := by unfold State.putQueue; split <;> rfl
@[simp] theorem State.putQueue_asyncSeq (s : State) (q : Queue) : (s.putQueue q).asyncSeq = s.asyncSeq := by unfold State.putQueue; split <;> rfl
@[simp] theorem State.putQueue_chanSeq (s : State) (q : Queue) : (s.putQueue q).chanSeq = s.chanSeq := by unfold State.putQueue; split <;> rfl
@[simp] theorem State.putQueue_errs (s : State) (q : Queue) : (s.putQueue q).errs = s.errs := by unfold State.putQueue; split <;> rfl
@[simp] theorem State.putQueue_lastError (s : State) (q : Queue) : (s.putQueue q).lastError = s.lastError := by unfold State.putQueue; split <;> rfl
@[simp] theorem State.putQueue_rowAct (s : State) (q : Queue) : (s.putQueue q).rowAct = s.rowAct := by unfold State.putQueue; split <;> rfl
@[simp] theorem State.putQueue_fns (s : State) (q : Queue) : (s.putQueue q).fns = s.fns := by unfold State.putQueue; split <;> rfl
@[simp] theorem State.putQueue_vdevs (s : State) (q : Queue) : (s.putQueue q).vdevs = s.vdevs := by unfold State.putQueue; split <;> rfl
@[simp] theorem State.putQueue_hubCopies (s : State) (q : Queue) : (s.putQueue q).hubCopies = s.hubCopies := by unfold State.putQueue; split <;> rfl
@[simp] theorem State.putQueue_late (s : State) (q : Queue) : (s.putQueue q).late = s.late := by unfold State.putQueue; split <;> rfl
@[simp] theorem State.putQueue_districts (s : State) (q : Queue) : (s.putQueue q).districts = s.districts := by unfold State.putQueue; split <;> rfl
@[simp] theorem State.putQueue_launchCount (s : State) (q : Queue) : (s.putQueue q).launchCount = s.launchCount := by unfold State.putQueue; split <;> rfl
@[simp] theorem State.putQueue_launches (s : State) (q : Queue) : (s.putQueue q).launches = s.launches := by unfold State.putQueue; split <;> rfl
@[simp] theorem State.putQueue_teams (s : State) (q : Queue) : (s.putQueue q).teams = s.teams := by unfold State.putQueue; split <;> rfl
@[simp] theorem State.putQueue_nextOrder (s : State) (q : Queue) : (s.putQueue q).nextOrder = s.nextOrder := by unfold State.putQueue; split <;> rfl
@[simp] theorem State.putQueue_engines (s : State) (q : Queue) : (s.putQueue q).engines = s.engines := by unfold State.putQueue; split <;> rfl
@[simp] theorem State.putQueue_asids (s : State) (q : Queue) : (s.putQueue q).asids = s.asids := by unfold State.putQueue; split <;> rfl
@[simp] theorem State.putQueue_apertures (s : State) (q : Queue) : (s.putQueue q).apertures = s.apertures := by unfold State.putQueue; split <;> rfl
@[simp] theorem State.putQueue_cxlMap (s : State) (q : Queue) : (s.putQueue q).cxlMap = s.cxlMap := by unfold State.putQueue; split <;> rfl
@[simp] theorem State.putQueue_peerWin (s : State) (q : Queue) : (s.putQueue q).peerWin = s.peerWin := by unfold State.putQueue; split <;> rfl
@[simp] theorem State.putQueue_fw (s : State) (q : Queue) : (s.putQueue q).fw = s.fw := by unfold State.putQueue; split <;> rfl
@[simp] theorem State.putQueue_fwMin (s : State) (q : Queue) : (s.putQueue q).fwMin = s.fwMin := by unfold State.putQueue; split <;> rfl
@[simp] theorem State.putQueue_reloads (s : State) (q : Queue) : (s.putQueue q).reloads = s.reloads := by unfold State.putQueue; split <;> rfl
@[simp] theorem State.putQueue_serving (s : State) (q : Queue) : (s.putQueue q).serving = s.serving := by unfold State.putQueue; split <;> rfl
@[simp] theorem State.putQueue_rights (s : State) (q : Queue) : (s.putQueue q).rights = s.rights := by unfold State.putQueue; split <;> rfl
@[simp] theorem State.putQueue_eventSeq (s : State) (q : Queue) : (s.putQueue q).eventSeq = s.eventSeq := by unfold State.putQueue; split <;> rfl
@[simp] theorem State.putQueue_invals (s : State) (q : Queue) : (s.putQueue q).invals = s.invals := by unfold State.putQueue; split <;> rfl
@[simp] theorem State.putQueue_drains (s : State) (q : Queue) : (s.putQueue q).drains = s.drains := by unfold State.putQueue; split <;> rfl
@[simp] theorem State.putQueue_retrains (s : State) (q : Queue) : (s.putQueue q).retrains = s.retrains := by unfold State.putQueue; split <;> rfl
@[simp] theorem State.putQueue_replies (s : State) (q : Queue) : (s.putQueue q).replies = s.replies := by unfold State.putQueue; split <;> rfl
@[simp] theorem State.putQueue_irqs (s : State) (q : Queue) : (s.putQueue q).irqs = s.irqs := by unfold State.putQueue; split <;> rfl
@[simp] theorem State.putQueue_marks (s : State) (q : Queue) : (s.putQueue q).marks = s.marks := by unfold State.putQueue; split <;> rfl
@[simp] theorem State.putQueue_blockSeqs (s : State) (q : Queue) : (s.putQueue q).blockSeqs = s.blockSeqs := by unfold State.putQueue; split <;> rfl
@[simp] theorem State.putQueue_agenda (s : State) (q : Queue) : (s.putQueue q).agenda = s.agenda := by unfold State.putQueue; split <;> rfl
@[simp] theorem State.putQueue_cur (s : State) (q : Queue) : (s.putQueue q).cur = s.cur := by unfold State.putQueue; split <;> rfl
@[simp] theorem State.putQueue_free (s : State) (q : Queue) : (s.putQueue q).free = s.free := by unfold State.putQueue; split <;> rfl
@[simp] theorem State.putQueue_doomed (s : State) (q : Queue) : (s.putQueue q).doomed = s.doomed := by unfold State.putQueue; split <;> rfl
@[simp] theorem State.putQueue_steps (s : State) (q : Queue) : (s.putQueue q).steps = s.steps := by unfold State.putQueue; split <;> rfl

@[simp] theorem State.setPending_mem (s : State) (k : QueueKey) (on : Bool) : (s.setPending k on).mem = s.mem := rfl
@[simp] theorem State.setPending_memPoison (s : State) (k : QueueKey) (on : Bool) : (s.setPending k on).memPoison = s.memPoison := rfl
@[simp] theorem State.setPending_clocks (s : State) (k : QueueKey) (on : Bool) : (s.setPending k on).clocks = s.clocks := rfl
@[simp] theorem State.setPending_hostClk (s : State) (k : QueueKey) (on : Bool) : (s.setPending k on).hostClk = s.hostClk := rfl
@[simp] theorem State.setPending_ccClk (s : State) (k : QueueKey) (on : Bool) : (s.setPending k on).ccClk = s.ccClk := rfl
@[simp] theorem State.setPending_chanClk (s : State) (k : QueueKey) (on : Bool) : (s.setPending k on).chanClk = s.chanClk := rfl
@[simp] theorem State.setPending_freq (s : State) (k : QueueKey) (on : Bool) : (s.setPending k on).freq = s.freq := rfl
@[simp] theorem State.setPending_freqSince (s : State) (k : QueueKey) (on : Bool) : (s.setPending k on).freqSince = s.freqSince := rfl
@[simp] theorem State.setPending_power (s : State) (k : QueueKey) (on : Bool) : (s.setPending k on).power = s.power := rfl
@[simp] theorem State.setPending_ready (s : State) (k : QueueKey) (on : Bool) : (s.setPending k on).ready = s.ready := rfl
@[simp] theorem State.setPending_cxlSize (s : State) (k : QueueKey) (on : Bool) : (s.setPending k on).cxlSize = s.cxlSize := rfl
@[simp] theorem State.setPending_peerSize (s : State) (k : QueueKey) (on : Bool) : (s.setPending k on).peerSize = s.peerSize := rfl
@[simp] theorem State.setPending_coreSeq (s : State) (k : QueueKey) (on : Bool) : (s.setPending k on).coreSeq = s.coreSeq := rfl
@[simp] theorem State.setPending_ccSeq (s : State) (k : QueueKey) (on : Bool) : (s.setPending k on).ccSeq = s.ccSeq := rfl
@[simp] theorem State.setPending_cluSeq (s : State) (k : QueueKey) (on : Bool) : (s.setPending k on).cluSeq = s.cluSeq := rfl
@[simp] theorem State.setPending_asyncSeq (s : State) (k : QueueKey) (on : Bool) : (s.setPending k on).asyncSeq = s.asyncSeq := rfl
@[simp] theorem State.setPending_chanSeq (s : State) (k : QueueKey) (on : Bool) : (s.setPending k on).chanSeq = s.chanSeq := rfl
@[simp] theorem State.setPending_errs (s : State) (k : QueueKey) (on : Bool) : (s.setPending k on).errs = s.errs := rfl
@[simp] theorem State.setPending_lastError (s : State) (k : QueueKey) (on : Bool) : (s.setPending k on).lastError = s.lastError := rfl
@[simp] theorem State.setPending_rowAct (s : State) (k : QueueKey) (on : Bool) : (s.setPending k on).rowAct = s.rowAct := rfl
@[simp] theorem State.setPending_fns (s : State) (k : QueueKey) (on : Bool) : (s.setPending k on).fns = s.fns := rfl
@[simp] theorem State.setPending_queues (s : State) (k : QueueKey) (on : Bool) : (s.setPending k on).queues = s.queues := rfl
@[simp] theorem State.setPending_hubCopies (s : State) (k : QueueKey) (on : Bool) : (s.setPending k on).hubCopies = s.hubCopies := rfl
@[simp] theorem State.setPending_late (s : State) (k : QueueKey) (on : Bool) : (s.setPending k on).late = s.late := rfl
@[simp] theorem State.setPending_districts (s : State) (k : QueueKey) (on : Bool) : (s.setPending k on).districts = s.districts := rfl
@[simp] theorem State.setPending_launchCount (s : State) (k : QueueKey) (on : Bool) : (s.setPending k on).launchCount = s.launchCount := rfl
@[simp] theorem State.setPending_launches (s : State) (k : QueueKey) (on : Bool) : (s.setPending k on).launches = s.launches := rfl
@[simp] theorem State.setPending_teams (s : State) (k : QueueKey) (on : Bool) : (s.setPending k on).teams = s.teams := rfl
@[simp] theorem State.setPending_nextOrder (s : State) (k : QueueKey) (on : Bool) : (s.setPending k on).nextOrder = s.nextOrder := rfl
@[simp] theorem State.setPending_engines (s : State) (k : QueueKey) (on : Bool) : (s.setPending k on).engines = s.engines := rfl
@[simp] theorem State.setPending_asids (s : State) (k : QueueKey) (on : Bool) : (s.setPending k on).asids = s.asids := rfl
@[simp] theorem State.setPending_apertures (s : State) (k : QueueKey) (on : Bool) : (s.setPending k on).apertures = s.apertures := rfl
@[simp] theorem State.setPending_cxlMap (s : State) (k : QueueKey) (on : Bool) : (s.setPending k on).cxlMap = s.cxlMap := rfl
@[simp] theorem State.setPending_peerWin (s : State) (k : QueueKey) (on : Bool) : (s.setPending k on).peerWin = s.peerWin := rfl
@[simp] theorem State.setPending_fw (s : State) (k : QueueKey) (on : Bool) : (s.setPending k on).fw = s.fw := rfl
@[simp] theorem State.setPending_fwMin (s : State) (k : QueueKey) (on : Bool) : (s.setPending k on).fwMin = s.fwMin := rfl
@[simp] theorem State.setPending_reloads (s : State) (k : QueueKey) (on : Bool) : (s.setPending k on).reloads = s.reloads := rfl
@[simp] theorem State.setPending_serving (s : State) (k : QueueKey) (on : Bool) : (s.setPending k on).serving = s.serving := rfl
@[simp] theorem State.setPending_rights (s : State) (k : QueueKey) (on : Bool) : (s.setPending k on).rights = s.rights := rfl
@[simp] theorem State.setPending_eventSeq (s : State) (k : QueueKey) (on : Bool) : (s.setPending k on).eventSeq = s.eventSeq := rfl
@[simp] theorem State.setPending_invals (s : State) (k : QueueKey) (on : Bool) : (s.setPending k on).invals = s.invals := rfl
@[simp] theorem State.setPending_drains (s : State) (k : QueueKey) (on : Bool) : (s.setPending k on).drains = s.drains := rfl
@[simp] theorem State.setPending_retrains (s : State) (k : QueueKey) (on : Bool) : (s.setPending k on).retrains = s.retrains := rfl
@[simp] theorem State.setPending_replies (s : State) (k : QueueKey) (on : Bool) : (s.setPending k on).replies = s.replies := rfl
@[simp] theorem State.setPending_irqs (s : State) (k : QueueKey) (on : Bool) : (s.setPending k on).irqs = s.irqs := rfl
@[simp] theorem State.setPending_marks (s : State) (k : QueueKey) (on : Bool) : (s.setPending k on).marks = s.marks := rfl
@[simp] theorem State.setPending_blockSeqs (s : State) (k : QueueKey) (on : Bool) : (s.setPending k on).blockSeqs = s.blockSeqs := rfl
@[simp] theorem State.setPending_agenda (s : State) (k : QueueKey) (on : Bool) : (s.setPending k on).agenda = s.agenda := rfl
@[simp] theorem State.setPending_cur (s : State) (k : QueueKey) (on : Bool) : (s.setPending k on).cur = s.cur := rfl
@[simp] theorem State.setPending_free (s : State) (k : QueueKey) (on : Bool) : (s.setPending k on).free = s.free := rfl
@[simp] theorem State.setPending_doomed (s : State) (k : QueueKey) (on : Bool) : (s.setPending k on).doomed = s.doomed := rfl
@[simp] theorem State.setPending_steps (s : State) (k : QueueKey) (on : Bool) : (s.setPending k on).steps = s.steps := rfl

@[simp] theorem State.sendIrq_mem (s : State) (f : Fn) (v : Nat) : (s.sendIrq f v).mem = s.mem := rfl
@[simp] theorem State.sendIrq_memPoison (s : State) (f : Fn) (v : Nat) : (s.sendIrq f v).memPoison = s.memPoison := rfl
@[simp] theorem State.sendIrq_clocks (s : State) (f : Fn) (v : Nat) : (s.sendIrq f v).clocks = s.clocks := rfl
@[simp] theorem State.sendIrq_hostClk (s : State) (f : Fn) (v : Nat) : (s.sendIrq f v).hostClk = s.hostClk := rfl
@[simp] theorem State.sendIrq_ccClk (s : State) (f : Fn) (v : Nat) : (s.sendIrq f v).ccClk = s.ccClk := rfl
@[simp] theorem State.sendIrq_chanClk (s : State) (f : Fn) (v : Nat) : (s.sendIrq f v).chanClk = s.chanClk := rfl
@[simp] theorem State.sendIrq_freq (s : State) (f : Fn) (v : Nat) : (s.sendIrq f v).freq = s.freq := rfl
@[simp] theorem State.sendIrq_freqSince (s : State) (f : Fn) (v : Nat) : (s.sendIrq f v).freqSince = s.freqSince := rfl
@[simp] theorem State.sendIrq_power (s : State) (f : Fn) (v : Nat) : (s.sendIrq f v).power = s.power := rfl
@[simp] theorem State.sendIrq_ready (s : State) (f : Fn) (v : Nat) : (s.sendIrq f v).ready = s.ready := rfl
@[simp] theorem State.sendIrq_cxlSize (s : State) (f : Fn) (v : Nat) : (s.sendIrq f v).cxlSize = s.cxlSize := rfl
@[simp] theorem State.sendIrq_peerSize (s : State) (f : Fn) (v : Nat) : (s.sendIrq f v).peerSize = s.peerSize := rfl
@[simp] theorem State.sendIrq_coreSeq (s : State) (f : Fn) (v : Nat) : (s.sendIrq f v).coreSeq = s.coreSeq := rfl
@[simp] theorem State.sendIrq_ccSeq (s : State) (f : Fn) (v : Nat) : (s.sendIrq f v).ccSeq = s.ccSeq := rfl
@[simp] theorem State.sendIrq_cluSeq (s : State) (f : Fn) (v : Nat) : (s.sendIrq f v).cluSeq = s.cluSeq := rfl
@[simp] theorem State.sendIrq_asyncSeq (s : State) (f : Fn) (v : Nat) : (s.sendIrq f v).asyncSeq = s.asyncSeq := rfl
@[simp] theorem State.sendIrq_chanSeq (s : State) (f : Fn) (v : Nat) : (s.sendIrq f v).chanSeq = s.chanSeq := rfl
@[simp] theorem State.sendIrq_errs (s : State) (f : Fn) (v : Nat) : (s.sendIrq f v).errs = s.errs := rfl
@[simp] theorem State.sendIrq_lastError (s : State) (f : Fn) (v : Nat) : (s.sendIrq f v).lastError = s.lastError := rfl
@[simp] theorem State.sendIrq_rowAct (s : State) (f : Fn) (v : Nat) : (s.sendIrq f v).rowAct = s.rowAct := rfl
@[simp] theorem State.sendIrq_fns (s : State) (f : Fn) (v : Nat) : (s.sendIrq f v).fns = s.fns := rfl
@[simp] theorem State.sendIrq_vdevs (s : State) (f : Fn) (v : Nat) : (s.sendIrq f v).vdevs = s.vdevs := rfl
@[simp] theorem State.sendIrq_queues (s : State) (f : Fn) (v : Nat) : (s.sendIrq f v).queues = s.queues := rfl
@[simp] theorem State.sendIrq_hubCopies (s : State) (f : Fn) (v : Nat) : (s.sendIrq f v).hubCopies = s.hubCopies := rfl
@[simp] theorem State.sendIrq_late (s : State) (f : Fn) (v : Nat) : (s.sendIrq f v).late = s.late := rfl
@[simp] theorem State.sendIrq_districts (s : State) (f : Fn) (v : Nat) : (s.sendIrq f v).districts = s.districts := rfl
@[simp] theorem State.sendIrq_launchCount (s : State) (f : Fn) (v : Nat) : (s.sendIrq f v).launchCount = s.launchCount := rfl
@[simp] theorem State.sendIrq_launches (s : State) (f : Fn) (v : Nat) : (s.sendIrq f v).launches = s.launches := rfl
@[simp] theorem State.sendIrq_teams (s : State) (f : Fn) (v : Nat) : (s.sendIrq f v).teams = s.teams := rfl
@[simp] theorem State.sendIrq_nextOrder (s : State) (f : Fn) (v : Nat) : (s.sendIrq f v).nextOrder = s.nextOrder := rfl
@[simp] theorem State.sendIrq_engines (s : State) (f : Fn) (v : Nat) : (s.sendIrq f v).engines = s.engines := rfl
@[simp] theorem State.sendIrq_asids (s : State) (f : Fn) (v : Nat) : (s.sendIrq f v).asids = s.asids := rfl
@[simp] theorem State.sendIrq_apertures (s : State) (f : Fn) (v : Nat) : (s.sendIrq f v).apertures = s.apertures := rfl
@[simp] theorem State.sendIrq_cxlMap (s : State) (f : Fn) (v : Nat) : (s.sendIrq f v).cxlMap = s.cxlMap := rfl
@[simp] theorem State.sendIrq_peerWin (s : State) (f : Fn) (v : Nat) : (s.sendIrq f v).peerWin = s.peerWin := rfl
@[simp] theorem State.sendIrq_fw (s : State) (f : Fn) (v : Nat) : (s.sendIrq f v).fw = s.fw := rfl
@[simp] theorem State.sendIrq_fwMin (s : State) (f : Fn) (v : Nat) : (s.sendIrq f v).fwMin = s.fwMin := rfl
@[simp] theorem State.sendIrq_reloads (s : State) (f : Fn) (v : Nat) : (s.sendIrq f v).reloads = s.reloads := rfl
@[simp] theorem State.sendIrq_serving (s : State) (f : Fn) (v : Nat) : (s.sendIrq f v).serving = s.serving := rfl
@[simp] theorem State.sendIrq_rights (s : State) (f : Fn) (v : Nat) : (s.sendIrq f v).rights = s.rights := rfl
@[simp] theorem State.sendIrq_eventSeq (s : State) (f : Fn) (v : Nat) : (s.sendIrq f v).eventSeq = s.eventSeq := rfl
@[simp] theorem State.sendIrq_invals (s : State) (f : Fn) (v : Nat) : (s.sendIrq f v).invals = s.invals := rfl
@[simp] theorem State.sendIrq_drains (s : State) (f : Fn) (v : Nat) : (s.sendIrq f v).drains = s.drains := rfl
@[simp] theorem State.sendIrq_retrains (s : State) (f : Fn) (v : Nat) : (s.sendIrq f v).retrains = s.retrains := rfl
@[simp] theorem State.sendIrq_replies (s : State) (f : Fn) (v : Nat) : (s.sendIrq f v).replies = s.replies := rfl
@[simp] theorem State.sendIrq_irqs (s : State) (f : Fn) (v : Nat) : (s.sendIrq f v).irqs = s.irqs ++ [{ fn := f, vector := v }] := rfl
@[simp] theorem State.sendIrq_marks (s : State) (f : Fn) (v : Nat) : (s.sendIrq f v).marks = s.marks := rfl
@[simp] theorem State.sendIrq_blockSeqs (s : State) (f : Fn) (v : Nat) : (s.sendIrq f v).blockSeqs = s.blockSeqs := rfl
@[simp] theorem State.sendIrq_agenda (s : State) (f : Fn) (v : Nat) : (s.sendIrq f v).agenda = s.agenda := rfl
@[simp] theorem State.sendIrq_cur (s : State) (f : Fn) (v : Nat) : (s.sendIrq f v).cur = s.cur := rfl
@[simp] theorem State.sendIrq_free (s : State) (f : Fn) (v : Nat) : (s.sendIrq f v).free = s.free := rfl
@[simp] theorem State.sendIrq_doomed (s : State) (f : Fn) (v : Nat) : (s.sendIrq f v).doomed = s.doomed := rfl
@[simp] theorem State.sendIrq_steps (s : State) (f : Fn) (v : Nat) : (s.sendIrq f v).steps = s.steps := rfl

@[simp] theorem State.respond_mem (s : State) (i : Nat) (bs : List Byte) : (s.respond i bs).mem = s.mem := rfl
@[simp] theorem State.respond_memPoison (s : State) (i : Nat) (bs : List Byte) : (s.respond i bs).memPoison = s.memPoison := rfl
@[simp] theorem State.respond_clocks (s : State) (i : Nat) (bs : List Byte) : (s.respond i bs).clocks = s.clocks := rfl
@[simp] theorem State.respond_hostClk (s : State) (i : Nat) (bs : List Byte) : (s.respond i bs).hostClk = s.hostClk := rfl
@[simp] theorem State.respond_ccClk (s : State) (i : Nat) (bs : List Byte) : (s.respond i bs).ccClk = s.ccClk := rfl
@[simp] theorem State.respond_chanClk (s : State) (i : Nat) (bs : List Byte) : (s.respond i bs).chanClk = s.chanClk := rfl
@[simp] theorem State.respond_freq (s : State) (i : Nat) (bs : List Byte) : (s.respond i bs).freq = s.freq := rfl
@[simp] theorem State.respond_freqSince (s : State) (i : Nat) (bs : List Byte) : (s.respond i bs).freqSince = s.freqSince := rfl
@[simp] theorem State.respond_power (s : State) (i : Nat) (bs : List Byte) : (s.respond i bs).power = s.power := rfl
@[simp] theorem State.respond_ready (s : State) (i : Nat) (bs : List Byte) : (s.respond i bs).ready = s.ready := rfl
@[simp] theorem State.respond_cxlSize (s : State) (i : Nat) (bs : List Byte) : (s.respond i bs).cxlSize = s.cxlSize := rfl
@[simp] theorem State.respond_peerSize (s : State) (i : Nat) (bs : List Byte) : (s.respond i bs).peerSize = s.peerSize := rfl
@[simp] theorem State.respond_coreSeq (s : State) (i : Nat) (bs : List Byte) : (s.respond i bs).coreSeq = s.coreSeq := rfl
@[simp] theorem State.respond_ccSeq (s : State) (i : Nat) (bs : List Byte) : (s.respond i bs).ccSeq = s.ccSeq := rfl
@[simp] theorem State.respond_cluSeq (s : State) (i : Nat) (bs : List Byte) : (s.respond i bs).cluSeq = s.cluSeq := rfl
@[simp] theorem State.respond_asyncSeq (s : State) (i : Nat) (bs : List Byte) : (s.respond i bs).asyncSeq = s.asyncSeq := rfl
@[simp] theorem State.respond_chanSeq (s : State) (i : Nat) (bs : List Byte) : (s.respond i bs).chanSeq = s.chanSeq := rfl
@[simp] theorem State.respond_errs (s : State) (i : Nat) (bs : List Byte) : (s.respond i bs).errs = s.errs := rfl
@[simp] theorem State.respond_lastError (s : State) (i : Nat) (bs : List Byte) : (s.respond i bs).lastError = s.lastError := rfl
@[simp] theorem State.respond_rowAct (s : State) (i : Nat) (bs : List Byte) : (s.respond i bs).rowAct = s.rowAct := rfl
@[simp] theorem State.respond_fns (s : State) (i : Nat) (bs : List Byte) : (s.respond i bs).fns = s.fns := rfl
@[simp] theorem State.respond_vdevs (s : State) (i : Nat) (bs : List Byte) : (s.respond i bs).vdevs = s.vdevs := rfl
@[simp] theorem State.respond_queues (s : State) (i : Nat) (bs : List Byte) : (s.respond i bs).queues = s.queues := rfl
@[simp] theorem State.respond_hubCopies (s : State) (i : Nat) (bs : List Byte) : (s.respond i bs).hubCopies = s.hubCopies := rfl
@[simp] theorem State.respond_late (s : State) (i : Nat) (bs : List Byte) : (s.respond i bs).late = s.late := rfl
@[simp] theorem State.respond_districts (s : State) (i : Nat) (bs : List Byte) : (s.respond i bs).districts = s.districts := rfl
@[simp] theorem State.respond_launchCount (s : State) (i : Nat) (bs : List Byte) : (s.respond i bs).launchCount = s.launchCount := rfl
@[simp] theorem State.respond_launches (s : State) (i : Nat) (bs : List Byte) : (s.respond i bs).launches = s.launches := rfl
@[simp] theorem State.respond_teams (s : State) (i : Nat) (bs : List Byte) : (s.respond i bs).teams = s.teams := rfl
@[simp] theorem State.respond_nextOrder (s : State) (i : Nat) (bs : List Byte) : (s.respond i bs).nextOrder = s.nextOrder := rfl
@[simp] theorem State.respond_engines (s : State) (i : Nat) (bs : List Byte) : (s.respond i bs).engines = s.engines := rfl
@[simp] theorem State.respond_asids (s : State) (i : Nat) (bs : List Byte) : (s.respond i bs).asids = s.asids := rfl
@[simp] theorem State.respond_apertures (s : State) (i : Nat) (bs : List Byte) : (s.respond i bs).apertures = s.apertures := rfl
@[simp] theorem State.respond_cxlMap (s : State) (i : Nat) (bs : List Byte) : (s.respond i bs).cxlMap = s.cxlMap := rfl
@[simp] theorem State.respond_peerWin (s : State) (i : Nat) (bs : List Byte) : (s.respond i bs).peerWin = s.peerWin := rfl
@[simp] theorem State.respond_fw (s : State) (i : Nat) (bs : List Byte) : (s.respond i bs).fw = s.fw := rfl
@[simp] theorem State.respond_fwMin (s : State) (i : Nat) (bs : List Byte) : (s.respond i bs).fwMin = s.fwMin := rfl
@[simp] theorem State.respond_reloads (s : State) (i : Nat) (bs : List Byte) : (s.respond i bs).reloads = s.reloads := rfl
@[simp] theorem State.respond_serving (s : State) (i : Nat) (bs : List Byte) : (s.respond i bs).serving = s.serving := rfl
@[simp] theorem State.respond_rights (s : State) (i : Nat) (bs : List Byte) : (s.respond i bs).rights = s.rights := rfl
@[simp] theorem State.respond_eventSeq (s : State) (i : Nat) (bs : List Byte) : (s.respond i bs).eventSeq = s.eventSeq := rfl
@[simp] theorem State.respond_invals (s : State) (i : Nat) (bs : List Byte) : (s.respond i bs).invals = s.invals := rfl
@[simp] theorem State.respond_drains (s : State) (i : Nat) (bs : List Byte) : (s.respond i bs).drains = s.drains := rfl
@[simp] theorem State.respond_retrains (s : State) (i : Nat) (bs : List Byte) : (s.respond i bs).retrains = s.retrains := rfl
@[simp] theorem State.respond_replies (s : State) (i : Nat) (bs : List Byte) : (s.respond i bs).replies = s.replies ++ [(i, bs)] := rfl
@[simp] theorem State.respond_irqs (s : State) (i : Nat) (bs : List Byte) : (s.respond i bs).irqs = s.irqs := rfl
@[simp] theorem State.respond_marks (s : State) (i : Nat) (bs : List Byte) : (s.respond i bs).marks = s.marks := rfl
@[simp] theorem State.respond_blockSeqs (s : State) (i : Nat) (bs : List Byte) : (s.respond i bs).blockSeqs = s.blockSeqs := rfl
@[simp] theorem State.respond_agenda (s : State) (i : Nat) (bs : List Byte) : (s.respond i bs).agenda = s.agenda := rfl
@[simp] theorem State.respond_cur (s : State) (i : Nat) (bs : List Byte) : (s.respond i bs).cur = s.cur := rfl
@[simp] theorem State.respond_free (s : State) (i : Nat) (bs : List Byte) : (s.respond i bs).free = s.free := rfl
@[simp] theorem State.respond_doomed (s : State) (i : Nat) (bs : List Byte) : (s.respond i bs).doomed = s.doomed := rfl
@[simp] theorem State.respond_steps (s : State) (i : Nat) (bs : List Byte) : (s.respond i bs).steps = s.steps := rfl

@[simp] theorem State.pstore_mem (s : State) (pa : Nat) (bs : List Byte) : (s.pstore pa bs).mem = cellWrites s.mem pa bs := rfl
@[simp] theorem State.pstore_memPoison (s : State) (pa : Nat) (bs : List Byte) : (s.pstore pa bs).memPoison = s.memPoison := rfl
@[simp] theorem State.pstore_clocks (s : State) (pa : Nat) (bs : List Byte) : (s.pstore pa bs).clocks = s.clocks := rfl
@[simp] theorem State.pstore_hostClk (s : State) (pa : Nat) (bs : List Byte) : (s.pstore pa bs).hostClk = s.hostClk := rfl
@[simp] theorem State.pstore_ccClk (s : State) (pa : Nat) (bs : List Byte) : (s.pstore pa bs).ccClk = s.ccClk := rfl
@[simp] theorem State.pstore_chanClk (s : State) (pa : Nat) (bs : List Byte) : (s.pstore pa bs).chanClk = s.chanClk := rfl
@[simp] theorem State.pstore_freq (s : State) (pa : Nat) (bs : List Byte) : (s.pstore pa bs).freq = s.freq := rfl
@[simp] theorem State.pstore_freqSince (s : State) (pa : Nat) (bs : List Byte) : (s.pstore pa bs).freqSince = s.freqSince := rfl
@[simp] theorem State.pstore_power (s : State) (pa : Nat) (bs : List Byte) : (s.pstore pa bs).power = s.power := rfl
@[simp] theorem State.pstore_ready (s : State) (pa : Nat) (bs : List Byte) : (s.pstore pa bs).ready = s.ready := rfl
@[simp] theorem State.pstore_cxlSize (s : State) (pa : Nat) (bs : List Byte) : (s.pstore pa bs).cxlSize = s.cxlSize := rfl
@[simp] theorem State.pstore_peerSize (s : State) (pa : Nat) (bs : List Byte) : (s.pstore pa bs).peerSize = s.peerSize := rfl
@[simp] theorem State.pstore_coreSeq (s : State) (pa : Nat) (bs : List Byte) : (s.pstore pa bs).coreSeq = s.coreSeq := rfl
@[simp] theorem State.pstore_ccSeq (s : State) (pa : Nat) (bs : List Byte) : (s.pstore pa bs).ccSeq = s.ccSeq := rfl
@[simp] theorem State.pstore_cluSeq (s : State) (pa : Nat) (bs : List Byte) : (s.pstore pa bs).cluSeq = s.cluSeq := rfl
@[simp] theorem State.pstore_asyncSeq (s : State) (pa : Nat) (bs : List Byte) : (s.pstore pa bs).asyncSeq = s.asyncSeq := rfl
@[simp] theorem State.pstore_chanSeq (s : State) (pa : Nat) (bs : List Byte) : (s.pstore pa bs).chanSeq = s.chanSeq := rfl
@[simp] theorem State.pstore_errs (s : State) (pa : Nat) (bs : List Byte) : (s.pstore pa bs).errs = s.errs := rfl
@[simp] theorem State.pstore_lastError (s : State) (pa : Nat) (bs : List Byte) : (s.pstore pa bs).lastError = s.lastError := rfl
@[simp] theorem State.pstore_rowAct (s : State) (pa : Nat) (bs : List Byte) : (s.pstore pa bs).rowAct = s.rowAct := rfl
@[simp] theorem State.pstore_fns (s : State) (pa : Nat) (bs : List Byte) : (s.pstore pa bs).fns = s.fns := rfl
@[simp] theorem State.pstore_vdevs (s : State) (pa : Nat) (bs : List Byte) : (s.pstore pa bs).vdevs = s.vdevs := rfl
@[simp] theorem State.pstore_queues (s : State) (pa : Nat) (bs : List Byte) : (s.pstore pa bs).queues = s.queues := rfl
@[simp] theorem State.pstore_hubCopies (s : State) (pa : Nat) (bs : List Byte) : (s.pstore pa bs).hubCopies = s.hubCopies := rfl
@[simp] theorem State.pstore_late (s : State) (pa : Nat) (bs : List Byte) : (s.pstore pa bs).late = s.late := rfl
@[simp] theorem State.pstore_districts (s : State) (pa : Nat) (bs : List Byte) : (s.pstore pa bs).districts = s.districts := rfl
@[simp] theorem State.pstore_launchCount (s : State) (pa : Nat) (bs : List Byte) : (s.pstore pa bs).launchCount = s.launchCount := rfl
@[simp] theorem State.pstore_launches (s : State) (pa : Nat) (bs : List Byte) : (s.pstore pa bs).launches = s.launches := rfl
@[simp] theorem State.pstore_teams (s : State) (pa : Nat) (bs : List Byte) : (s.pstore pa bs).teams = s.teams := rfl
@[simp] theorem State.pstore_nextOrder (s : State) (pa : Nat) (bs : List Byte) : (s.pstore pa bs).nextOrder = s.nextOrder := rfl
@[simp] theorem State.pstore_engines (s : State) (pa : Nat) (bs : List Byte) : (s.pstore pa bs).engines = s.engines := rfl
@[simp] theorem State.pstore_asids (s : State) (pa : Nat) (bs : List Byte) : (s.pstore pa bs).asids = s.asids := rfl
@[simp] theorem State.pstore_apertures (s : State) (pa : Nat) (bs : List Byte) : (s.pstore pa bs).apertures = s.apertures := rfl
@[simp] theorem State.pstore_cxlMap (s : State) (pa : Nat) (bs : List Byte) : (s.pstore pa bs).cxlMap = s.cxlMap := rfl
@[simp] theorem State.pstore_peerWin (s : State) (pa : Nat) (bs : List Byte) : (s.pstore pa bs).peerWin = s.peerWin := rfl
@[simp] theorem State.pstore_fw (s : State) (pa : Nat) (bs : List Byte) : (s.pstore pa bs).fw = s.fw := rfl
@[simp] theorem State.pstore_fwMin (s : State) (pa : Nat) (bs : List Byte) : (s.pstore pa bs).fwMin = s.fwMin := rfl
@[simp] theorem State.pstore_reloads (s : State) (pa : Nat) (bs : List Byte) : (s.pstore pa bs).reloads = s.reloads := rfl
@[simp] theorem State.pstore_serving (s : State) (pa : Nat) (bs : List Byte) : (s.pstore pa bs).serving = s.serving := rfl
@[simp] theorem State.pstore_rights (s : State) (pa : Nat) (bs : List Byte) : (s.pstore pa bs).rights = s.rights := rfl
@[simp] theorem State.pstore_eventSeq (s : State) (pa : Nat) (bs : List Byte) : (s.pstore pa bs).eventSeq = s.eventSeq := rfl
@[simp] theorem State.pstore_invals (s : State) (pa : Nat) (bs : List Byte) : (s.pstore pa bs).invals = s.invals := rfl
@[simp] theorem State.pstore_drains (s : State) (pa : Nat) (bs : List Byte) : (s.pstore pa bs).drains = s.drains := rfl
@[simp] theorem State.pstore_retrains (s : State) (pa : Nat) (bs : List Byte) : (s.pstore pa bs).retrains = s.retrains := rfl
@[simp] theorem State.pstore_replies (s : State) (pa : Nat) (bs : List Byte) : (s.pstore pa bs).replies = s.replies := rfl
@[simp] theorem State.pstore_irqs (s : State) (pa : Nat) (bs : List Byte) : (s.pstore pa bs).irqs = s.irqs := rfl
@[simp] theorem State.pstore_marks (s : State) (pa : Nat) (bs : List Byte) : (s.pstore pa bs).marks = s.marks := rfl
@[simp] theorem State.pstore_blockSeqs (s : State) (pa : Nat) (bs : List Byte) : (s.pstore pa bs).blockSeqs = s.blockSeqs := rfl
@[simp] theorem State.pstore_agenda (s : State) (pa : Nat) (bs : List Byte) : (s.pstore pa bs).agenda = s.agenda := rfl
@[simp] theorem State.pstore_cur (s : State) (pa : Nat) (bs : List Byte) : (s.pstore pa bs).cur = s.cur := rfl
@[simp] theorem State.pstore_free (s : State) (pa : Nat) (bs : List Byte) : (s.pstore pa bs).free = s.free := rfl
@[simp] theorem State.pstore_doomed (s : State) (pa : Nat) (bs : List Byte) : (s.pstore pa bs).doomed = s.doomed := rfl
@[simp] theorem State.pstore_steps (s : State) (pa : Nat) (bs : List Byte) : (s.pstore pa bs).steps = s.steps := rfl

@[simp] theorem State.defer_mem (s : State) (x : Late) : (s.defer x).mem = s.mem := rfl
@[simp] theorem State.defer_memPoison (s : State) (x : Late) : (s.defer x).memPoison = s.memPoison := rfl
@[simp] theorem State.defer_clocks (s : State) (x : Late) : (s.defer x).clocks = s.clocks := rfl
@[simp] theorem State.defer_hostClk (s : State) (x : Late) : (s.defer x).hostClk = s.hostClk := rfl
@[simp] theorem State.defer_ccClk (s : State) (x : Late) : (s.defer x).ccClk = s.ccClk := rfl
@[simp] theorem State.defer_chanClk (s : State) (x : Late) : (s.defer x).chanClk = s.chanClk := rfl
@[simp] theorem State.defer_freq (s : State) (x : Late) : (s.defer x).freq = s.freq := rfl
@[simp] theorem State.defer_freqSince (s : State) (x : Late) : (s.defer x).freqSince = s.freqSince := rfl
@[simp] theorem State.defer_power (s : State) (x : Late) : (s.defer x).power = s.power := rfl
@[simp] theorem State.defer_ready (s : State) (x : Late) : (s.defer x).ready = s.ready := rfl
@[simp] theorem State.defer_cxlSize (s : State) (x : Late) : (s.defer x).cxlSize = s.cxlSize := rfl
@[simp] theorem State.defer_peerSize (s : State) (x : Late) : (s.defer x).peerSize = s.peerSize := rfl
@[simp] theorem State.defer_coreSeq (s : State) (x : Late) : (s.defer x).coreSeq = s.coreSeq := rfl
@[simp] theorem State.defer_ccSeq (s : State) (x : Late) : (s.defer x).ccSeq = s.ccSeq := rfl
@[simp] theorem State.defer_cluSeq (s : State) (x : Late) : (s.defer x).cluSeq = s.cluSeq := rfl
@[simp] theorem State.defer_asyncSeq (s : State) (x : Late) : (s.defer x).asyncSeq = s.asyncSeq := rfl
@[simp] theorem State.defer_chanSeq (s : State) (x : Late) : (s.defer x).chanSeq = s.chanSeq := rfl
@[simp] theorem State.defer_errs (s : State) (x : Late) : (s.defer x).errs = s.errs := rfl
@[simp] theorem State.defer_lastError (s : State) (x : Late) : (s.defer x).lastError = s.lastError := rfl
@[simp] theorem State.defer_rowAct (s : State) (x : Late) : (s.defer x).rowAct = s.rowAct := rfl
@[simp] theorem State.defer_fns (s : State) (x : Late) : (s.defer x).fns = s.fns := rfl
@[simp] theorem State.defer_vdevs (s : State) (x : Late) : (s.defer x).vdevs = s.vdevs := rfl
@[simp] theorem State.defer_queues (s : State) (x : Late) : (s.defer x).queues = s.queues := rfl
@[simp] theorem State.defer_hubCopies (s : State) (x : Late) : (s.defer x).hubCopies = s.hubCopies := rfl
@[simp] theorem State.defer_late (s : State) (x : Late) : (s.defer x).late = s.late ++ [x] := rfl
@[simp] theorem State.defer_districts (s : State) (x : Late) : (s.defer x).districts = s.districts := rfl
@[simp] theorem State.defer_launchCount (s : State) (x : Late) : (s.defer x).launchCount = s.launchCount := rfl
@[simp] theorem State.defer_launches (s : State) (x : Late) : (s.defer x).launches = s.launches := rfl
@[simp] theorem State.defer_teams (s : State) (x : Late) : (s.defer x).teams = s.teams := rfl
@[simp] theorem State.defer_nextOrder (s : State) (x : Late) : (s.defer x).nextOrder = s.nextOrder := rfl
@[simp] theorem State.defer_engines (s : State) (x : Late) : (s.defer x).engines = s.engines := rfl
@[simp] theorem State.defer_asids (s : State) (x : Late) : (s.defer x).asids = s.asids := rfl
@[simp] theorem State.defer_apertures (s : State) (x : Late) : (s.defer x).apertures = s.apertures := rfl
@[simp] theorem State.defer_cxlMap (s : State) (x : Late) : (s.defer x).cxlMap = s.cxlMap := rfl
@[simp] theorem State.defer_peerWin (s : State) (x : Late) : (s.defer x).peerWin = s.peerWin := rfl
@[simp] theorem State.defer_fw (s : State) (x : Late) : (s.defer x).fw = s.fw := rfl
@[simp] theorem State.defer_fwMin (s : State) (x : Late) : (s.defer x).fwMin = s.fwMin := rfl
@[simp] theorem State.defer_reloads (s : State) (x : Late) : (s.defer x).reloads = s.reloads := rfl
@[simp] theorem State.defer_serving (s : State) (x : Late) : (s.defer x).serving = s.serving := rfl
@[simp] theorem State.defer_rights (s : State) (x : Late) : (s.defer x).rights = s.rights := rfl
@[simp] theorem State.defer_eventSeq (s : State) (x : Late) : (s.defer x).eventSeq = s.eventSeq := rfl
@[simp] theorem State.defer_invals (s : State) (x : Late) : (s.defer x).invals = s.invals := rfl
@[simp] theorem State.defer_drains (s : State) (x : Late) : (s.defer x).drains = s.drains := rfl
@[simp] theorem State.defer_retrains (s : State) (x : Late) : (s.defer x).retrains = s.retrains := rfl
@[simp] theorem State.defer_replies (s : State) (x : Late) : (s.defer x).replies = s.replies := rfl
@[simp] theorem State.defer_irqs (s : State) (x : Late) : (s.defer x).irqs = s.irqs := rfl
@[simp] theorem State.defer_marks (s : State) (x : Late) : (s.defer x).marks = s.marks := rfl
@[simp] theorem State.defer_blockSeqs (s : State) (x : Late) : (s.defer x).blockSeqs = s.blockSeqs := rfl
@[simp] theorem State.defer_agenda (s : State) (x : Late) : (s.defer x).agenda = s.agenda := rfl
@[simp] theorem State.defer_cur (s : State) (x : Late) : (s.defer x).cur = s.cur := rfl
@[simp] theorem State.defer_free (s : State) (x : Late) : (s.defer x).free = s.free := rfl
@[simp] theorem State.defer_doomed (s : State) (x : Late) : (s.defer x).doomed = s.doomed := rfl
@[simp] theorem State.defer_steps (s : State) (x : Late) : (s.defer x).steps = s.steps := rfl

@[simp] theorem State.poisonSector_mem (s : State) (key src : Nat) : (s.poisonSector key src).mem = s.mem := rfl
@[simp] theorem State.poisonSector_memPoison (s : State) (key src : Nat) : (s.poisonSector key src).memPoison = insertKey s.memPoison (key / 32) src := rfl
@[simp] theorem State.poisonSector_clocks (s : State) (key src : Nat) : (s.poisonSector key src).clocks = s.clocks := rfl
@[simp] theorem State.poisonSector_hostClk (s : State) (key src : Nat) : (s.poisonSector key src).hostClk = s.hostClk := rfl
@[simp] theorem State.poisonSector_ccClk (s : State) (key src : Nat) : (s.poisonSector key src).ccClk = s.ccClk := rfl
@[simp] theorem State.poisonSector_chanClk (s : State) (key src : Nat) : (s.poisonSector key src).chanClk = s.chanClk := rfl
@[simp] theorem State.poisonSector_freq (s : State) (key src : Nat) : (s.poisonSector key src).freq = s.freq := rfl
@[simp] theorem State.poisonSector_freqSince (s : State) (key src : Nat) : (s.poisonSector key src).freqSince = s.freqSince := rfl
@[simp] theorem State.poisonSector_power (s : State) (key src : Nat) : (s.poisonSector key src).power = s.power := rfl
@[simp] theorem State.poisonSector_ready (s : State) (key src : Nat) : (s.poisonSector key src).ready = s.ready := rfl
@[simp] theorem State.poisonSector_cxlSize (s : State) (key src : Nat) : (s.poisonSector key src).cxlSize = s.cxlSize := rfl
@[simp] theorem State.poisonSector_peerSize (s : State) (key src : Nat) : (s.poisonSector key src).peerSize = s.peerSize := rfl
@[simp] theorem State.poisonSector_coreSeq (s : State) (key src : Nat) : (s.poisonSector key src).coreSeq = s.coreSeq := rfl
@[simp] theorem State.poisonSector_ccSeq (s : State) (key src : Nat) : (s.poisonSector key src).ccSeq = s.ccSeq := rfl
@[simp] theorem State.poisonSector_cluSeq (s : State) (key src : Nat) : (s.poisonSector key src).cluSeq = s.cluSeq := rfl
@[simp] theorem State.poisonSector_asyncSeq (s : State) (key src : Nat) : (s.poisonSector key src).asyncSeq = s.asyncSeq := rfl
@[simp] theorem State.poisonSector_chanSeq (s : State) (key src : Nat) : (s.poisonSector key src).chanSeq = s.chanSeq := rfl
@[simp] theorem State.poisonSector_errs (s : State) (key src : Nat) : (s.poisonSector key src).errs = s.errs := rfl
@[simp] theorem State.poisonSector_lastError (s : State) (key src : Nat) : (s.poisonSector key src).lastError = s.lastError := rfl
@[simp] theorem State.poisonSector_rowAct (s : State) (key src : Nat) : (s.poisonSector key src).rowAct = s.rowAct := rfl
@[simp] theorem State.poisonSector_fns (s : State) (key src : Nat) : (s.poisonSector key src).fns = s.fns := rfl
@[simp] theorem State.poisonSector_vdevs (s : State) (key src : Nat) : (s.poisonSector key src).vdevs = s.vdevs := rfl
@[simp] theorem State.poisonSector_queues (s : State) (key src : Nat) : (s.poisonSector key src).queues = s.queues := rfl
@[simp] theorem State.poisonSector_hubCopies (s : State) (key src : Nat) : (s.poisonSector key src).hubCopies = s.hubCopies := rfl
@[simp] theorem State.poisonSector_late (s : State) (key src : Nat) : (s.poisonSector key src).late = s.late := rfl
@[simp] theorem State.poisonSector_districts (s : State) (key src : Nat) : (s.poisonSector key src).districts = s.districts := rfl
@[simp] theorem State.poisonSector_launchCount (s : State) (key src : Nat) : (s.poisonSector key src).launchCount = s.launchCount := rfl
@[simp] theorem State.poisonSector_launches (s : State) (key src : Nat) : (s.poisonSector key src).launches = s.launches := rfl
@[simp] theorem State.poisonSector_teams (s : State) (key src : Nat) : (s.poisonSector key src).teams = s.teams := rfl
@[simp] theorem State.poisonSector_nextOrder (s : State) (key src : Nat) : (s.poisonSector key src).nextOrder = s.nextOrder := rfl
@[simp] theorem State.poisonSector_engines (s : State) (key src : Nat) : (s.poisonSector key src).engines = s.engines := rfl
@[simp] theorem State.poisonSector_asids (s : State) (key src : Nat) : (s.poisonSector key src).asids = s.asids := rfl
@[simp] theorem State.poisonSector_apertures (s : State) (key src : Nat) : (s.poisonSector key src).apertures = s.apertures := rfl
@[simp] theorem State.poisonSector_cxlMap (s : State) (key src : Nat) : (s.poisonSector key src).cxlMap = s.cxlMap := rfl
@[simp] theorem State.poisonSector_peerWin (s : State) (key src : Nat) : (s.poisonSector key src).peerWin = s.peerWin := rfl
@[simp] theorem State.poisonSector_fw (s : State) (key src : Nat) : (s.poisonSector key src).fw = s.fw := rfl
@[simp] theorem State.poisonSector_fwMin (s : State) (key src : Nat) : (s.poisonSector key src).fwMin = s.fwMin := rfl
@[simp] theorem State.poisonSector_reloads (s : State) (key src : Nat) : (s.poisonSector key src).reloads = s.reloads := rfl
@[simp] theorem State.poisonSector_serving (s : State) (key src : Nat) : (s.poisonSector key src).serving = s.serving := rfl
@[simp] theorem State.poisonSector_rights (s : State) (key src : Nat) : (s.poisonSector key src).rights = s.rights := rfl
@[simp] theorem State.poisonSector_eventSeq (s : State) (key src : Nat) : (s.poisonSector key src).eventSeq = s.eventSeq := rfl
@[simp] theorem State.poisonSector_invals (s : State) (key src : Nat) : (s.poisonSector key src).invals = s.invals := rfl
@[simp] theorem State.poisonSector_drains (s : State) (key src : Nat) : (s.poisonSector key src).drains = s.drains := rfl
@[simp] theorem State.poisonSector_retrains (s : State) (key src : Nat) : (s.poisonSector key src).retrains = s.retrains := rfl
@[simp] theorem State.poisonSector_replies (s : State) (key src : Nat) : (s.poisonSector key src).replies = s.replies := rfl
@[simp] theorem State.poisonSector_irqs (s : State) (key src : Nat) : (s.poisonSector key src).irqs = s.irqs := rfl
@[simp] theorem State.poisonSector_marks (s : State) (key src : Nat) : (s.poisonSector key src).marks = s.marks := rfl
@[simp] theorem State.poisonSector_blockSeqs (s : State) (key src : Nat) : (s.poisonSector key src).blockSeqs = s.blockSeqs := rfl
@[simp] theorem State.poisonSector_agenda (s : State) (key src : Nat) : (s.poisonSector key src).agenda = s.agenda := rfl
@[simp] theorem State.poisonSector_cur (s : State) (key src : Nat) : (s.poisonSector key src).cur = s.cur := rfl
@[simp] theorem State.poisonSector_free (s : State) (key src : Nat) : (s.poisonSector key src).free = s.free := rfl
@[simp] theorem State.poisonSector_doomed (s : State) (key src : Nat) : (s.poisonSector key src).doomed = s.doomed := rfl
@[simp] theorem State.poisonSector_steps (s : State) (key src : Nat) : (s.poisonSector key src).steps = s.steps := rfl

@[simp] theorem State.cleanSector_mem (s : State) (key : Nat) : (s.cleanSector key).mem = s.mem := rfl
@[simp] theorem State.cleanSector_memPoison (s : State) (key : Nat) : (s.cleanSector key).memPoison = eraseKey s.memPoison (key / 32) := rfl
@[simp] theorem State.cleanSector_clocks (s : State) (key : Nat) : (s.cleanSector key).clocks = s.clocks := rfl
@[simp] theorem State.cleanSector_hostClk (s : State) (key : Nat) : (s.cleanSector key).hostClk = s.hostClk := rfl
@[simp] theorem State.cleanSector_ccClk (s : State) (key : Nat) : (s.cleanSector key).ccClk = s.ccClk := rfl
@[simp] theorem State.cleanSector_chanClk (s : State) (key : Nat) : (s.cleanSector key).chanClk = s.chanClk := rfl
@[simp] theorem State.cleanSector_freq (s : State) (key : Nat) : (s.cleanSector key).freq = s.freq := rfl
@[simp] theorem State.cleanSector_freqSince (s : State) (key : Nat) : (s.cleanSector key).freqSince = s.freqSince := rfl
@[simp] theorem State.cleanSector_power (s : State) (key : Nat) : (s.cleanSector key).power = s.power := rfl
@[simp] theorem State.cleanSector_ready (s : State) (key : Nat) : (s.cleanSector key).ready = s.ready := rfl
@[simp] theorem State.cleanSector_cxlSize (s : State) (key : Nat) : (s.cleanSector key).cxlSize = s.cxlSize := rfl
@[simp] theorem State.cleanSector_peerSize (s : State) (key : Nat) : (s.cleanSector key).peerSize = s.peerSize := rfl
@[simp] theorem State.cleanSector_coreSeq (s : State) (key : Nat) : (s.cleanSector key).coreSeq = s.coreSeq := rfl
@[simp] theorem State.cleanSector_ccSeq (s : State) (key : Nat) : (s.cleanSector key).ccSeq = s.ccSeq := rfl
@[simp] theorem State.cleanSector_cluSeq (s : State) (key : Nat) : (s.cleanSector key).cluSeq = s.cluSeq := rfl
@[simp] theorem State.cleanSector_asyncSeq (s : State) (key : Nat) : (s.cleanSector key).asyncSeq = s.asyncSeq := rfl
@[simp] theorem State.cleanSector_chanSeq (s : State) (key : Nat) : (s.cleanSector key).chanSeq = s.chanSeq := rfl
@[simp] theorem State.cleanSector_errs (s : State) (key : Nat) : (s.cleanSector key).errs = s.errs := rfl
@[simp] theorem State.cleanSector_lastError (s : State) (key : Nat) : (s.cleanSector key).lastError = s.lastError := rfl
@[simp] theorem State.cleanSector_rowAct (s : State) (key : Nat) : (s.cleanSector key).rowAct = s.rowAct := rfl
@[simp] theorem State.cleanSector_fns (s : State) (key : Nat) : (s.cleanSector key).fns = s.fns := rfl
@[simp] theorem State.cleanSector_vdevs (s : State) (key : Nat) : (s.cleanSector key).vdevs = s.vdevs := rfl
@[simp] theorem State.cleanSector_queues (s : State) (key : Nat) : (s.cleanSector key).queues = s.queues := rfl
@[simp] theorem State.cleanSector_hubCopies (s : State) (key : Nat) : (s.cleanSector key).hubCopies = s.hubCopies := rfl
@[simp] theorem State.cleanSector_late (s : State) (key : Nat) : (s.cleanSector key).late = s.late := rfl
@[simp] theorem State.cleanSector_districts (s : State) (key : Nat) : (s.cleanSector key).districts = s.districts := rfl
@[simp] theorem State.cleanSector_launchCount (s : State) (key : Nat) : (s.cleanSector key).launchCount = s.launchCount := rfl
@[simp] theorem State.cleanSector_launches (s : State) (key : Nat) : (s.cleanSector key).launches = s.launches := rfl
@[simp] theorem State.cleanSector_teams (s : State) (key : Nat) : (s.cleanSector key).teams = s.teams := rfl
@[simp] theorem State.cleanSector_nextOrder (s : State) (key : Nat) : (s.cleanSector key).nextOrder = s.nextOrder := rfl
@[simp] theorem State.cleanSector_engines (s : State) (key : Nat) : (s.cleanSector key).engines = s.engines := rfl
@[simp] theorem State.cleanSector_asids (s : State) (key : Nat) : (s.cleanSector key).asids = s.asids := rfl
@[simp] theorem State.cleanSector_apertures (s : State) (key : Nat) : (s.cleanSector key).apertures = s.apertures := rfl
@[simp] theorem State.cleanSector_cxlMap (s : State) (key : Nat) : (s.cleanSector key).cxlMap = s.cxlMap := rfl
@[simp] theorem State.cleanSector_peerWin (s : State) (key : Nat) : (s.cleanSector key).peerWin = s.peerWin := rfl
@[simp] theorem State.cleanSector_fw (s : State) (key : Nat) : (s.cleanSector key).fw = s.fw := rfl
@[simp] theorem State.cleanSector_fwMin (s : State) (key : Nat) : (s.cleanSector key).fwMin = s.fwMin := rfl
@[simp] theorem State.cleanSector_reloads (s : State) (key : Nat) : (s.cleanSector key).reloads = s.reloads := rfl
@[simp] theorem State.cleanSector_serving (s : State) (key : Nat) : (s.cleanSector key).serving = s.serving := rfl
@[simp] theorem State.cleanSector_rights (s : State) (key : Nat) : (s.cleanSector key).rights = s.rights := rfl
@[simp] theorem State.cleanSector_eventSeq (s : State) (key : Nat) : (s.cleanSector key).eventSeq = s.eventSeq := rfl
@[simp] theorem State.cleanSector_invals (s : State) (key : Nat) : (s.cleanSector key).invals = s.invals := rfl
@[simp] theorem State.cleanSector_drains (s : State) (key : Nat) : (s.cleanSector key).drains = s.drains := rfl
@[simp] theorem State.cleanSector_retrains (s : State) (key : Nat) : (s.cleanSector key).retrains = s.retrains := rfl
@[simp] theorem State.cleanSector_replies (s : State) (key : Nat) : (s.cleanSector key).replies = s.replies := rfl
@[simp] theorem State.cleanSector_irqs (s : State) (key : Nat) : (s.cleanSector key).irqs = s.irqs := rfl
@[simp] theorem State.cleanSector_marks (s : State) (key : Nat) : (s.cleanSector key).marks = s.marks := rfl
@[simp] theorem State.cleanSector_blockSeqs (s : State) (key : Nat) : (s.cleanSector key).blockSeqs = s.blockSeqs := rfl
@[simp] theorem State.cleanSector_agenda (s : State) (key : Nat) : (s.cleanSector key).agenda = s.agenda := rfl
@[simp] theorem State.cleanSector_cur (s : State) (key : Nat) : (s.cleanSector key).cur = s.cur := rfl
@[simp] theorem State.cleanSector_free (s : State) (key : Nat) : (s.cleanSector key).free = s.free := rfl
@[simp] theorem State.cleanSector_doomed (s : State) (key : Nat) : (s.cleanSector key).doomed = s.doomed := rfl
@[simp] theorem State.cleanSector_steps (s : State) (key : Nat) : (s.cleanSector key).steps = s.steps := rfl

end Sys2Proof.Machine
end

