-- ==== Sys2Proof/Laws/Groups.lean ====
section
/-! SUPPORT. Finding a team or a group after an update of one. -/

namespace Sys2Proof.Machine

/-! ## Lists -/

@[simp] theorem modAt_length {α : Type} (l : List α) (i : Nat) (f : α → α) : (modAt l i f).length = l.length := by
  induction l generalizing i with
  | nil => rfl
  | cons x t ih => cases i with
    | zero => rfl
    | succ i => simp [modAt, ih]

theorem modAt_getElem?_self {α : Type} (l : List α) (i : Nat) (f : α → α) : (modAt l i f)[i]? = (l[i]?).map f := by
  induction l generalizing i with
  | nil => rfl
  | cons x t ih => cases i with
    | zero => rfl
    | succ i => simpa [modAt] using ih i

theorem modAt_getElem?_ne {α : Type} (l : List α) {i j : Nat} (f : α → α) (h : i ≠ j) : (modAt l i f)[j]? = l[j]? := by
  induction l generalizing i j with
  | nil => rfl
  | cons x t ih => cases i with
    | zero => cases j with
      | zero => exact absurd rfl h
      | succ j => rfl
    | succ i => cases j with
      | zero => rfl
      | succ j => simpa [modAt] using ih (i := i) (j := j) (by omega)

theorem lookupD_insertKey_self {α β : Type} [DecidableEq α] (l : List (α × β)) (k : α) (v d : β) :
    lookupD (insertKey l k v) k d = v := by
  induction l with
  | nil => simp [insertKey, lookupD]
  | cons e t ih =>
    simp only [insertKey]
    split
    · simp [lookupD]
    · simp [lookupD, ih, *]

theorem lookupD_insertKey_ne {α β : Type} [DecidableEq α] (l : List (α × β)) {k j : α} (v d : β) (h : k ≠ j) :
    lookupD (insertKey l k v) j d = lookupD l j d := by
  induction l with
  | nil => simp [insertKey, lookupD, h]
  | cons e t ih =>
    simp only [insertKey]
    split
    · rename_i he
      simp [lookupD, h, he ▸ h]
    · simp only [lookupD, ih]

/-! ## Teams -/

theorem find_map_ref (l : List Team) (t u : TeamRef) (f : Team → Team) (hf : ∀ m, (f m).ref = m.ref) :
    (l.map (fun m => if m.ref = t then f m else m)).find? (fun m => m.ref == u)
      = (l.find? (fun m => m.ref == u)).map (fun m => if u = t then f m else m) := by
  induction l with
  | nil => rfl
  | cons m l ih =>
    simp only [List.map_cons, List.find?_cons]
    by_cases hm : m.ref = t
    · by_cases hu : m.ref = u
      · have : u = t := hu ▸ hm
        simp [hm, hf, hu, this]
      · have h1 : (m.ref == u) = false := by simpa using hu
        have h2 : ((f m).ref == u) = false := by simpa [hf] using hu
        simp only [hm, if_true, h2]
        rw [← hm, h1]
        simpa [hm] using ih
    · by_cases hu : m.ref = u
      · have : ¬ u = t := fun e => hm (hu.trans e)
        simp [hm, hu, this]
      · have h1 : (m.ref == u) = false := by simpa using hu
        simp only [hm, if_false, h1]
        exact ih

/-- A team after an update that keeps its reference. -/
theorem State.team?_modTeam (s : State) (t u : TeamRef) (f : Team → Team) (hf : ∀ m, (f m).ref = m.ref) :
    (s.modTeam t f).team? u = (s.team? u).map (fun m => if u = t then f m else m) :=
  find_map_ref s.teams t u f hf

@[simp] theorem Team.modCur_ref (t : Team) (f : TeamState → TeamState) : (t.modCur f).ref = t.ref := rfl
@[simp] theorem Team.modPart_ref (t : Team) (p : Nat) (f : Part → Part) : (t.modPart p f).ref = t.ref := rfl
@[simp] theorem Team.modGroup_ref (t : Team) (p g : Nat) (f : Group → Group) : (t.modGroup p g f).ref = t.ref := rfl
@[simp] theorem Team.modShare_ref (t : Team) (c : Nat) (f : CoreShare → CoreShare) : (t.modShare c f).ref = t.ref := rfl

theorem Team.addLog_eq (t : Team) (keys : List LogKey) : ∃ l, t.addLog keys = { t with log := l } := by
  unfold Team.addLog
  induction keys generalizing t with
  | nil => exact ⟨t.log, rfl⟩
  | cons k ks ih =>
    simp only [List.foldl_cons]
    split
    · exact ih t
    · obtain ⟨l, hl⟩ := ih { t with log := t.log ++ [k] }
      exact ⟨l, hl⟩

@[simp] theorem Team.addLog_ref (t : Team) (keys : List LogKey) : (t.addLog keys).ref = t.ref := by
  obtain ⟨l, h⟩ := t.addLog_eq keys
  rw [h]

@[simp] theorem Team.addLog_cur (t : Team) (keys : List LogKey) : (t.addLog keys).cur = t.cur := by
  obtain ⟨l, h⟩ := t.addLog_eq keys
  rw [h]

@[simp] theorem Team.addLog_group? (t : Team) (keys : List LogKey) (p g : Nat) : (t.addLog keys).group? p g = t.group? p g := by
  unfold Team.group?
  rw [Team.addLog_cur]

/-- A group of a team after an update of one. -/
theorem Team.group?_modGroup (t : Team) (p g p' g' : Nat) (f : Group → Group) :
    (t.modGroup p g f).group? p' g' = (t.group? p' g').map (fun x => if p = p' ∧ g = g' then f x else x) := by
  unfold Team.group? Team.modGroup Team.modPart Team.modCur
  dsimp only
  by_cases hp : p = p'
  · subst hp
    rw [modAt_getElem?_self]
    cases h : t.cur.parts[p]? with
    | none => simp
    | some q =>
      simp only [Option.map_some, Option.bind_some]
      by_cases hg : g = g'
      · subst hg
        rw [modAt_getElem?_self]
        simp
      · rw [modAt_getElem?_ne _ _ hg]
        simp [hg]
  · rw [modAt_getElem?_ne _ _ hp]
    simp [hp]

/-- A group after an update of one group. -/
theorem State.group?_modGroup (s : State) (r u : GroupRef) (f : Group → Group) :
    (s.modGroup r f).group? u = (s.group? u).map (fun x => if u = r then f x else x) := by
  unfold State.group? State.modGroup
  rw [State.team?_modTeam _ _ _ _ (fun m => Team.modGroup_ref _ _ _ _)]
  cases h : s.team? (teamOf u) with
  | none => simp
  | some m =>
    simp only [Option.map_some, Option.bind_some]
    split
    · rename_i ht
      rw [Team.group?_modGroup]
      congr 1
      funext x
      have : (r.part = u.part ∧ r.grp = u.grp) ↔ u = r := by
        cases u
        cases r
        simp only [teamOf, TeamRef.mk.injEq] at ht
        simp only [GroupRef.mk.injEq]
        constructor
        · rintro ⟨h1, h2⟩
          exact ⟨ht.1, ht.2, h1.symm, h2.symm⟩
        · rintro ⟨_, _, h1, h2⟩
          exact ⟨h1.symm, h2.symm⟩
      simp only [this]
    · rename_i ht
      have : u ≠ r := fun e => ht (by rw [e])
      simp [this]

@[simp] theorem State.group?_modGroup_self (s : State) (r : GroupRef) (f : Group → Group) :
    (s.modGroup r f).group? r = (s.group? r).map f := by
  rw [State.group?_modGroup]
  simp

theorem State.group?_modGroup_ne (s : State) {r u : GroupRef} (f : Group → Group) (h : u ≠ r) :
    (s.modGroup r f).group? u = s.group? u := by
  rw [State.group?_modGroup]
  simp [h]

/-- A group after an update of its team that leaves the team's groups. -/
theorem State.group?_modTeam (s : State) (t : TeamRef) (f : Team → Team) (hr : ∀ m, (f m).ref = m.ref)
    (hg : ∀ m p g, (f m).group? p g = m.group? p g) (u : GroupRef) : (s.modTeam t f).group? u = s.group? u := by
  unfold State.group?
  rw [State.team?_modTeam _ _ _ _ hr]
  cases h : s.team? (teamOf u) with
  | none => rfl
  | some m =>
    simp only [Option.map_some, Option.bind_some]
    split
    · exact hg m _ _
    · rfl

/-- A group and the undo log of its team, updated together. -/
theorem State.modTeam_addLog_group? (s : State) (r u : GroupRef) (f : Group → Group) (keys : List LogKey) :
    (s.modTeam (teamOf r) (fun t => (t.modGroup r.part r.grp f).addLog keys)).group? u = (s.modGroup r f).group? u := by
  unfold State.group? State.modGroup
  rw [State.team?_modTeam _ _ _ _ (fun m => by simp), State.team?_modTeam _ _ _ _ (fun m => by simp)]
  cases s.team? (teamOf u) with
  | none => rfl
  | some m =>
    simp only [Option.map_some, Option.bind_some]
    split
    · simp
    · rfl

/-! ## Registers -/

/-- The register that a write of another code leaves. -/
theorem Group.reg_setReg_ne (g : Group) {c d : Byte} (r : Reg) (h : c ≠ d) : (g.setReg c r).reg d = g.reg d := by
  unfold Group.setReg Group.reg
  split
  · rfl
  · exact lookupD_insertKey_ne _ _ _ (fun e => h (BitVec.eq_of_toNat_eq e))

/-- The register that a write leaves; vz holds nothing. -/
theorem Group.reg_setReg_self (g : Group) (c : Byte) (r : Reg) (h : clsOf c ≠ .vz) : (g.setReg c r).reg c = r := by
  unfold Group.setReg Group.reg
  have : (clsOf c == Cls.vz) = false := by simpa using h
  rw [this]
  exact lookupD_insertKey_self _ _ _ _

@[simp] theorem Group.reg_ownMail (g : Group) (c d : Byte) (i : Nat) : (g.ownMail c i).reg d = g.reg d := by
  unfold Group.ownMail
  split
  · rfl
  · split <;> rfl

/-- A lane of a written register (R162): an executing lane takes the value. -/
theorem Reg.writeLanes_exec (r : Reg) {n l : Nat} (vals : Nat → Word) (sh : Shape) (exec path live : Mask) (zero : Bool)
    (hl : l < n) (he : laneBit exec l = true) :
    (r.writeLanes n vals sh exec path live zero).lanes.getD l 0 = vals l := by
  unfold Reg.writeLanes Reg.setLanes
  have : l < max n r.lanes.length := by omega
  simp [he, this, List.getD]

/-- A lane that a write of tag G does not reach keeps its word. -/
theorem Reg.writeLanes_keep (r : Reg) {n l : Nat} (vals : Nat → Word) (sh : Shape) (exec path live : Mask)
    (he : laneBit exec l = false) (hg : (lanesTag sh exec live).tag = .g) :
    (r.writeLanes n vals sh exec path live false).lanes.getD l 0 = r.lanes.getD l 0 := by
  unfold Reg.writeLanes Reg.setLanes
  by_cases h : l < max n r.lanes.length
  · simp [he, hg, h, List.getD]
  · simp [List.getD, h, show r.lanes.length ≤ l by omega]

end Sys2Proof.Machine
end

