-- ==== Sys2Proof/Laws/Ops.lean ====
section
/-! SUPPORT. What running an instruction does, said once: the outcome of one that goes through, and what its checks and its
commit leave of every group. -/

namespace Sys2Proof.Machine

/-! ## The issuing group -/

theorem ctxOf_some {s : State} {c : Ctx} (h : ctxOf s = some c) :
    c.ref = s.cur ∧ s.team? (teamOf s.cur) = some c.team ∧ s.group? s.cur = some c.group
      ∧ s.launch? s.cur.launch = some c.launch ∧ c.rope = c.group.rope
      ∧ c.n = (c.group.rope.map (·.n)).getD c.group.width
      ∧ runPath ((c.group.rope.map (·.paths)).getD c.group.paths) = some c.path
      ∧ c.ks = (c.group.rope.map (·.ks)).getD c.group.ks := by
  unfold ctxOf at h
  split at h
  · rename_i t g l ht hg hl
    dsimp only at h
    split at h
    · cases h
    · rename_i p hp
      cases h
      exact ⟨rfl, ht, hg, hl, rfl, rfl, hp, rfl⟩
  · cases h

theorem Op.issuer_some {o : Op} {s : State} {c : Ctx} (h : o.issuer s = some c) :
    c.ref = s.cur ∧ s.team? (teamOf s.cur) = some c.team ∧ s.group? c.ref = some c.group
      ∧ s.launch? s.cur.launch = some c.launch ∧ c.rope = c.group.rope
      ∧ runPath ((c.group.rope.map (·.paths)).getD c.group.paths) = some c.path
      ∧ c.next = c.pc + BitVec.ofNat 64 (4 * o.len) ∧ c.immB = o.immB ∧ c.immC = o.immC := by
  unfold Op.issuer at h
  cases hc : ctxOf s with
  | none => rw [hc] at h; cases h
  | some d =>
    rw [hc] at h
    simp only [Option.map_some, Option.some.injEq] at h
    obtain ⟨h1, h2, h3, h4, h5, _, h7, _⟩ := ctxOf_some hc
    subst h
    exact ⟨h1, h2, h1 ▸ h3, h4, h5, h7, rfl, rfl, rfl⟩

/-- An instruction that goes through answers the state its effect is committed to. -/
theorem runOp_runs {o : Op} {plan : Ctx → State → Plan} {s : State} {c : Ctx} (h : Runs o plan s c) :
    runOp o plan s = .next (c.done (plan c (c.start o s)).effect) := by
  have hi := h.issuer
  unfold Op.issuer at hi
  unfold runOp
  cases hc : ctxOf s with
  | none => rw [hc] at hi; cases hi
  | some d =>
    rw [hc] at hi
    simp only [Option.map_some, Option.some.injEq] at hi
    simp only [hi]
    have hv := h.clear
    unfold Ctx.start at hv
    rw [hv]
    have hr := h.room
    unfold Ctx.done Ctx.start at hr
    simp only [Ctx.commit, Ctx.done, Ctx.start, hr, if_true]

theorem runX_runs {family func : Nat} {x : XF} {plan : Ctx → State → Plan} {s : State} {c : Ctx}
    (h : Runs (opX family func x) plan s c) :
    runX family func x plan s = .next (c.done (plan c (c.start (opX family func x) s)).effect) := runOp_runs h

/-! ## Folds that leave a part of the state -/

theorem foldl_keep {α β : Type} {f : State → α → State} {l : List α} {s : State} (get : State → β)
    (hf : ∀ s a, get (f s a) = get s) : get (l.foldl f s) = get s := by
  induction l generalizing s with
  | nil => rfl
  | cons a l ih => exact (ih (s := f s a)).trans (hf s a)

/-! ## Errors counted for words that no executing lane reads -/

@[simp] theorem State.coreError_teams (s : State) (m c : Nat) (b : Bool) (l : Dword) : (s.coreError m c b l).teams = s.teams := rfl
@[simp] theorem State.coreError_mem (s : State) (m c : Nat) (b : Bool) (l : Dword) : (s.coreError m c b l).mem = s.mem := rfl
@[simp] theorem State.coreError_launches (s : State) (m c : Nat) (b : Bool) (l : Dword) :
    (s.coreError m c b l).launches = s.launches := rfl
@[simp] theorem State.coreError_clocks (s : State) (m c : Nat) (b : Bool) (l : Dword) :
    (s.coreError m c b l).clocks = s.clocks := rfl

@[simp] theorem Ctx.countIdle_teams (c : Ctx) (o : Op) (s : State) : (c.countIdle o s).teams = s.teams :=
  foldl_keep State.teams (fun _ _ => by dsimp only; split <;> rfl)
@[simp] theorem Ctx.countIdle_mem (c : Ctx) (o : Op) (s : State) : (c.countIdle o s).mem = s.mem :=
  foldl_keep State.mem (fun _ _ => by dsimp only; split <;> rfl)
@[simp] theorem Ctx.countIdle_launches (c : Ctx) (o : Op) (s : State) : (c.countIdle o s).launches = s.launches :=
  foldl_keep State.launches (fun _ _ => by dsimp only; split <;> rfl)

/-! ## Before the effect -/

/-- What the checks leave of the issuing group. -/
def Ctx.begun (c : Ctx) (o : Op) (g : Group) : Group :=
  { g with
    hold := none, replay := none, readyAt := c.clk + c.pipe, busyUntil := c.clk + c.pipe, prompt := o.prompt && !c.inRope
    m0 := if (c.reads o).contains 0xC0 then { g.m0 with full := false } else g.m0
    m1 := if (c.reads o).contains 0xC1 then { g.m1 with full := false } else g.m1
    rope := g.rope.map (fun r => { r with
      used := r.used.zipIdx.map (fun (u, h) => if laneBit (c.exec o.x.mask.toNat) h then u + 1 else u) }) }

@[simp] theorem Ctx.start_mem (c : Ctx) (o : Op) (s : State) : (c.start o s).mem = s.mem := by
  unfold Ctx.start Ctx.begin_
  dsimp only
  split <;> simp

@[simp] theorem Ctx.start_launches (c : Ctx) (o : Op) (s : State) : (c.start o s).launches = s.launches := by
  unfold Ctx.start Ctx.begin_
  dsimp only
  split <;> simp

theorem group?_of_teams {s t : State} (h : t.teams = s.teams) (r : GroupRef) : t.group? r = s.group? r := by
  unfold State.group? State.team?
  rw [h]

theorem Ctx.start_group? (c : Ctx) (o : Op) (s : State) (r : GroupRef) :
    (c.start o s).group? r = (s.group? r).map (fun g => if r = c.ref then c.begun o g else g) := by
  unfold Ctx.start Ctx.begin_
  dsimp only
  split
  · rw [State.group?_modGroup, group?_of_teams (Ctx.countIdle_teams c o s)]
    rfl
  · rw [State.group?_modGroup]
    rfl

@[simp] theorem Ctx.begun_reg (c : Ctx) (o : Op) (g : Group) (k : Byte) : (c.begun o g).reg k = g.reg k := rfl
@[simp] theorem Ctx.begun_ks (c : Ctx) (o : Op) (g : Group) : (c.begun o g).ks = g.ks := rfl
@[simp] theorem Ctx.begun_paths (c : Ctx) (o : Op) (g : Group) : (c.begun o g).paths = g.paths := rfl
@[simp] theorem Ctx.begun_state (c : Ctx) (o : Op) (g : Group) : (c.begun o g).state = g.state := rfl
@[simp] theorem Ctx.begun_flags (c : Ctx) (o : Op) (g : Group) : (c.begun o g).flags = g.flags := rfl

/-! ## After the effect -/

/-- What a commit leaves of the issuing group. -/
theorem Group.settle_eq (g : Group) : ∃ ps r, g.settle = { g with paths := ps, rope := r }
    ∧ (r.map (fun r => (r.hregs, r.ks, r.n))) = g.rope.map (fun r => (r.hregs, r.ks, r.n)) := by
  unfold Group.settle
  split
  · rename_i r h
    split
    · exact ⟨g.paths, _, rfl, by simp [h]⟩
    · exact ⟨g.paths, g.rope, rfl, by simp⟩
  · rename_i h
    split
    · exact ⟨_, g.rope, by rw [h], by simp [h]⟩
    · exact ⟨g.paths, g.rope, rfl, by simp⟩

@[simp] theorem Group.settle_reg (g : Group) (k : Byte) : g.settle.reg k = g.reg k := by
  obtain ⟨ps, r, h, _⟩ := g.settle_eq
  rw [h]
  rfl

@[simp] theorem Group.settle_ks (g : Group) : g.settle.ks = g.ks := by
  obtain ⟨ps, r, h, _⟩ := g.settle_eq
  rw [h]

@[simp] theorem Group.settle_flags (g : Group) : g.settle.flags = g.flags := by
  obtain ⟨ps, r, h, _⟩ := g.settle_eq
  rw [h]

@[simp] theorem Group.settle_state (g : Group) : g.settle.state = g.state := by
  obtain ⟨ps, r, h, _⟩ := g.settle_eq
  rw [h]

theorem Group.settle_rope (g : Group) :
    g.settle.rope.map (fun r => (r.hregs, r.ks, r.n)) = g.rope.map (fun r => (r.hregs, r.ks, r.n)) := by
  obtain ⟨ps, r, h, hr⟩ := g.settle_eq
  rw [h]
  exact hr

/-- A path that can run is a path after JOINs complete. -/
theorem settlePaths_mem {ps : List Path} {gone : Mask} {k : Nat → Mask} {p : Path} (hp : p ∈ ps) (hj : p.join = none) :
    p ∈ settlePaths ps gone k := by
  unfold settlePaths
  generalize List.range ps.length = l
  induction l generalizing ps with
  | nil => exact hp
  | cons a l ih =>
    simp only [List.foldl_cons]
    apply ih
    split
    · exact hp
    · split
      · exact hp
      · unfold fuse
        exact List.mem_append_left _ (List.mem_filter.2 ⟨hp, by simp [hj]⟩)

theorem Group.settle_paths_mem {g : Group} {p : Path} (hp : p ∈ g.curPaths) (hj : p.join = none) : p ∈ g.settle.curPaths := by
  unfold Group.curPaths at *
  unfold Group.settle
  split
  · rename_i r h
    split
    · simp only [h, Option.map_some, Option.getD_some] at *
      exact settlePaths_mem hp hj
    · exact hp
  · rename_i h
    split
    · simp only [h, Option.map_none, Option.getD_none] at *
      exact settlePaths_mem hp hj
    · exact hp

/-- What a commit leaves of every group. -/
theorem Ctx.done_group? (c : Ctx) (e : State) (r : GroupRef) :
    ∃ n, (c.done e).group? r = (e.group? r).map (fun g => if r = c.ref then
      { g.settle with rope := g.settle.rope.map (fun q => { q with logBytes := q.logBytes + n }) } else g) := by
  unfold Ctx.done Ctx.chargeRope
  split
  · refine ⟨0, ?_⟩
    rw [State.group?_modGroup]
    congr 1
    funext g
    split
    · cases h : g.settle.rope with
      | none => simp only [Option.map_none]; rw [← h]
      | some q => simp only [Option.map_some, Nat.add_zero]; rw [← h]
    · rfl
  · dsimp only
    generalize (match (e.modGroup c.ref Group.settle).team? (teamOf c.ref) with
      | some t => t.logBytes + t.pendingLog
      | none => 0) - (c.team.logBytes + c.team.pendingLog) = n
    refine ⟨n, ?_⟩
    rw [State.group?_modGroup, State.group?_modGroup, Option.map_map]
    congr 1
    funext g
    simp only [Function.comp]
    split <;> rfl

@[simp] theorem Ctx.done_mem (c : Ctx) (e : State) : (c.done e).mem = e.mem := by
  unfold Ctx.done Ctx.chargeRope
  split <;> simp

@[simp] theorem Ctx.done_launches (c : Ctx) (e : State) : (c.done e).launches = e.launches := by
  unfold Ctx.done Ctx.chargeRope
  split <;> simp

theorem Ctx.done_group?_ne (c : Ctx) (e : State) {r : GroupRef} (h : r ≠ c.ref) : (c.done e).group? r = e.group? r := by
  obtain ⟨n, hn⟩ := c.done_group? e r
  rw [hn]
  simp [h]

/-- What a commit leaves of the parts of a group that are seen. -/
theorem Group.settle_regAt (g : Group) (k : Byte) : g.settle.regAt k = g.regAt k := by
  unfold Group.regAt
  split
  · have hr := congrArg (Option.map (·.1)) g.settle_rope
    simp only [Option.map_map] at hr
    have h : ∀ x : Option Rope, x.map (fun r => r.hregs.getD (codeNum k) {}) = (x.map (fun r => r.hregs)).map (fun h => h.getD (codeNum k) {}) := by
      intro x
      cases x <;> rfl
    rw [h, h]
    exact congrArg (fun x => (Option.map (fun h : List Reg => h.getD (codeNum k) {}) x).getD {}) hr
  · exact g.settle_reg k

theorem Group.settle_curKs (g : Group) : g.settle.curKs = g.curKs := by
  unfold Group.curKs
  have hr := congrArg (Option.map (·.2.1)) g.settle_rope
  simp only [Option.map_map] at hr
  rw [Group.settle_ks]
  exact congrArg (fun x => Option.getD x g.ks) hr

/-- A group after a commit: its completed JOINs, and its rope charged. -/
def Group.committed (n : Nat) (g : Group) : Group :=
  { g.settle with rope := g.settle.rope.map (fun q => { q with logBytes := q.logBytes + n }) }

@[simp] theorem Group.committed_regAt (n : Nat) (g : Group) (k : Byte) : (g.committed n).regAt k = g.regAt k := by
  rw [← Group.settle_regAt g k]
  unfold Group.committed Group.regAt
  cases clsOf k <;> first | rfl | (dsimp only; cases g.settle.rope <;> rfl)

@[simp] theorem Group.committed_curKs (n : Nat) (g : Group) : (g.committed n).curKs = g.curKs := by
  rw [← Group.settle_curKs g]
  unfold Group.committed Group.curKs
  dsimp only
  cases g.settle.rope <;> rfl

@[simp] theorem Group.committed_m0 (n : Nat) (g : Group) : (g.committed n).m0 = g.m0 := by
  obtain ⟨ps, r, h, _⟩ := g.settle_eq
  unfold Group.committed
  rw [h]

@[simp] theorem Group.committed_m1 (n : Nat) (g : Group) : (g.committed n).m1 = g.m1 := by
  obtain ⟨ps, r, h, _⟩ := g.settle_eq
  unfold Group.committed
  rw [h]

@[simp] theorem Group.committed_flags (n : Nat) (g : Group) : (g.committed n).flags = g.flags := Group.settle_flags g

theorem Group.committed_paths (n : Nat) {g : Group} {p : Path} (hp : p ∈ g.curPaths) (hj : p.join = none) :
    p ∈ (g.committed n).curPaths := by
  have := Group.settle_paths_mem hp hj
  unfold Group.committed Group.curPaths at *
  dsimp only
  cases h : g.settle.rope with
  | none => rw [h] at this; exact this
  | some r => rw [h] at this; exact this

/-- The issuing group after a commit. -/
theorem Ctx.done_self (c : Ctx) (e : State) : ∃ n, (c.done e).group? c.ref = (e.group? c.ref).map (Group.committed n) := by
  obtain ⟨n, hn⟩ := c.done_group? e c.ref
  exact ⟨n, by rw [hn]; simp only [if_true]; rfl⟩

/-! ## The common effects -/

@[simp] theorem Ctx.setPaths_mem (c : Ctx) (f : List Path → List Path) (s : State) : (c.setPaths f s).mem = s.mem := rfl
@[simp] theorem Ctx.advance_mem (c : Ctx) (s : State) : (c.advance s).mem = s.mem := rfl
@[simp] theorem Ctx.goto_mem (c : Ctx) (pc : Dword) (s : State) : (c.goto pc s).mem = s.mem := rfl

theorem Ctx.goto_group?_ne (c : Ctx) (pc : Dword) (s : State) {r : GroupRef} (h : r ≠ c.ref) :
    (c.goto pc s).group? r = s.group? r := State.group?_modGroup_ne _ _ h

/-- A group after its path, or its rope's, goes on at a PC. -/
def Ctx.moved (c : Ctx) (pc : Dword) (g : Group) : Group :=
  if c.inRope then { g with rope := g.rope.map (fun r => { r with
    paths := replacePath r.paths c.path [{ c.path with pc := pc }] }) }
  else { g with paths := replacePath g.paths c.path [{ c.path with pc := pc }] }

theorem Ctx.goto_self (c : Ctx) (pc : Dword) (s : State) : (c.goto pc s).group? c.ref = (s.group? c.ref).map (c.moved pc) := by
  unfold Ctx.goto Ctx.setPaths
  rw [State.group?_modGroup_self]
  rfl

@[simp] theorem Ctx.moved_regAt (c : Ctx) (pc : Dword) (g : Group) (k : Byte) : (c.moved pc g).regAt k = g.regAt k := by
  unfold Ctx.moved Group.regAt
  by_cases hin : c.inRope = true
  · simp only [hin, if_true]
    cases clsOf k <;> first | rfl | (cases g.rope <;> rfl)
  · simp only [hin]
    cases clsOf k <;> rfl

@[simp] theorem Ctx.moved_curKs (c : Ctx) (pc : Dword) (g : Group) : (c.moved pc g).curKs = g.curKs := by
  unfold Ctx.moved Group.curKs
  by_cases hin : c.inRope = true
  · simp only [hin, if_true]
    cases g.rope <;> rfl
  · simp only [hin]
    rfl

@[simp] theorem Ctx.moved_flags (c : Ctx) (pc : Dword) (g : Group) : (c.moved pc g).flags = g.flags := by
  unfold Ctx.moved
  split <;> rfl

@[simp] theorem Ctx.moved_m0 (c : Ctx) (pc : Dword) (g : Group) : (c.moved pc g).m0 = g.m0 := by
  unfold Ctx.moved
  split <;> rfl

@[simp] theorem Ctx.moved_m1 (c : Ctx) (pc : Dword) (g : Group) : (c.moved pc g).m1 = g.m1 := by
  unfold Ctx.moved
  split <;> rfl

theorem Ctx.moved_paths {c : Ctx} {g : Group} (pc : Dword) (hr : g.rope.isSome = c.inRope) :
    (c.moved pc g).curPaths = replacePath g.curPaths c.path [{ c.path with pc := pc }] := by
  unfold Ctx.moved Group.curPaths
  split
  · rename_i hin
    rw [hin] at hr
    obtain ⟨r, hr⟩ := Option.isSome_iff_exists.1 hr
    simp only [hr, Option.map_some, Option.getD_some]
  · rename_i hin
    have : g.rope = none := by
      cases h : g.rope with
      | none => rfl
      | some r => rw [h] at hr; exact absurd hr.symm hin
    simp only [this, Option.map_none, Option.getD_none]

/-- The path goes on where it is sent, and the others stay. -/
theorem replacePath_new {ps : List Path} {o p : Path} (hm : p.mask ≠ 0) : p ∈ replacePath ps o [p] :=
  List.mem_append_right _ (List.mem_filter.2 ⟨by simp, by simpa using hm⟩)

theorem replacePath_old {ps : List Path} {o q : Path} (l : List Path) (h : q ∈ ps) (hne : q ≠ o) : q ∈ replacePath ps o l :=
  List.mem_append_left _ (List.mem_filter.2 ⟨h, by simpa using hne⟩)

/-- The path that runs has a lane and is not parked. -/
theorem runPath_runs {ps : List Path} {p : Path} (h : runPath ps = some p) : p ∈ ps ∧ p.mask ≠ 0 ∧ p.join = none := by
  unfold runPath at h
  have key : ∀ (l : List Path) (b : Option Path), (∀ q, b = some q → q ∈ ps ∧ q.mask ≠ 0 ∧ q.join = none) → (∀ q ∈ l, q ∈ ps) →
      l.foldl (fun best p => if p.join.isSome || p.mask == 0 then best
        else match best with
          | none => some p
          | some b => if p.before b then some p else some b) b = some p → p ∈ ps ∧ p.mask ≠ 0 ∧ p.join = none := by
    intro l
    induction l with
    | nil => intro b hb _ e; exact hb p e
    | cons q l ih =>
      intro b hb hl e
      simp only [List.foldl_cons] at e
      refine ih _ ?_ (fun q hq => hl q (List.mem_cons_of_mem _ hq)) e
      intro x hx
      split at hx
      · exact hb x hx
      · rename_i hq
        simp only [Bool.or_eq_true, not_or, beq_iff_eq] at hq
        have hqok : q ∈ ps ∧ q.mask ≠ 0 ∧ q.join = none :=
          ⟨hl q (List.mem_cons_self ..), hq.2, by simpa using hq.1⟩
        split at hx
        · cases hx; exact hqok
        · split at hx
          · cases hx; exact hqok
          · cases hx; exact hb _ rfl
  exact key ps none (fun q e => by cases e) (fun q hq => hq) h

end Sys2Proof.Machine
end

