-- ==== Sys2Proof/Laws/Compute.lean ====
section
/-! SUPPORT. What the shared effects of a compute instruction do, said once: writing a destination, flags, masks, and moving
on; and the plan of 08 R175 as a whole. -/

namespace Sys2Proof.Machine

/-! ## Lists -/

theorem setPad_getD_self {α : Type} (l : List α) (i : Nat) (v d : α) : (setPad l i v d).getD i d = v := by
  induction i generalizing l with
  | zero => cases l <;> rfl
  | succ i ih => cases l with
    | nil => exact ih []
    | cons x t => exact ih t

theorem setPad_getD_ne {α : Type} (l : List α) {i j : Nat} (v d : α) (h : i ≠ j) : (setPad l i v d).getD j d = l.getD j d := by
  induction i generalizing l j with
  | zero => cases j with
    | zero => exact absurd rfl h
    | succ j => cases l <;> rfl
  | succ i ih => cases j with
    | zero => cases l <;> rfl
    | succ j => cases l with
      | nil => exact (ih [] (fun e => h (by rw [e]))).trans (by simp)
      | cons x t => exact ih t (fun e => h (by rw [e]))

/-! ## Nothing else changes -/

theorem Same.refl (c : Ctx) (s : State) : Same id c s s := ⟨rfl, fun _ => rfl, fun _ _ => rfl, rfl⟩

/-- Two changes one after the other; the second changes of the group only what `Group.rest` leaves out. -/
theorem Same.trans {f : Group → Group} {c : Ctx} {s t u : State} (h : Same f c s t) (k : Same id c t u) : Same f c s u :=
  ⟨k.rest.trans h.rest, fun x => (k.teams x).trans (h.teams x), fun r hr => (k.others r hr).trans (h.others r hr),
    k.own.trans h.own⟩

@[simp] theorem Team.rest_addLog (t : Team) (l : List LogKey) : (t.addLog l).rest = t.rest := by
  obtain ⟨k, h⟩ := t.addLog_eq l
  rw [h]
  rfl

@[simp] theorem Team.rest_modGroup (t : Team) (p g : Nat) (f : Group → Group) : (t.modGroup p g f).rest = t.rest := by
  unfold Team.rest Team.modGroup Team.modPart Team.modCur
  have : (modAt t.cur.parts p (fun q => { q with groups := modAt q.groups g f })).map (fun p => { p with groups := ([] : List Group) })
      = t.cur.parts.map (fun p => { p with groups := [] }) := by
    generalize t.cur.parts = l
    induction l generalizing p with
    | nil => rfl
    | cons q l ih => cases p with
      | zero => rfl
      | succ p => simp only [modAt, List.map_cons, ih]
  simp only [this]

theorem State.team?_modGroup_rest (s : State) (r : GroupRef) (f : Group → Group) (u : TeamRef) :
    ((s.modGroup r f).team? u).map Team.rest = (s.team? u).map Team.rest := by
  unfold State.modGroup
  rw [State.team?_modTeam _ _ _ _ (fun m => Team.modGroup_ref _ _ _ _), Option.map_map]
  congr 1
  funext m
  simp only [Function.comp]
  split <;> simp

theorem Same.modGroup {c : Ctx} {s : State} {f : Group → Group} (h : ∀ g, (f g).rest = g.rest) : Same id c s (s.modGroup c.ref f) := by
  refine ⟨rfl, State.team?_modGroup_rest s c.ref f, fun r hr => State.group?_modGroup_ne _ _ hr, ?_⟩
  rw [State.group?_modGroup_self, Option.map_map]
  congr 1
  funext g
  exact h g

theorem Same.modTeam_addLog {c : Ctx} {s : State} {f : Group → Group} {keys : List LogKey} (h : ∀ g, (f g).rest = g.rest) :
    Same id c s (s.modTeam (teamOf c.ref) (fun t => (t.modGroup c.ref.part c.ref.grp f).addLog keys)) := by
  refine ⟨rfl, ?_, fun r hr => ?_, ?_⟩
  · intro u
    rw [State.team?_modTeam _ _ _ _ (fun m => by simp), Option.map_map]
    congr 1
    funext m
    simp only [Function.comp]
    split <;> simp
  · rw [State.modTeam_addLog_group?]
    exact State.group?_modGroup_ne _ _ hr
  · rw [State.modTeam_addLog_group?, State.group?_modGroup_self, Option.map_map]
    congr 1
    funext g
    exact h g

theorem Same.of_rest {c : Ctx} {s t : State} (h : t.rest = s.rest) (ht : t.teams = s.teams) : Same id c s t :=
  ⟨h, fun u => by unfold State.team?; rw [ht], fun r _ => group?_of_teams ht r, by rw [group?_of_teams ht]; rfl⟩

theorem Ctx.countIdle_rest (c : Ctx) (o : Op) (s : State) : (c.countIdle o s).rest = s.rest :=
  foldl_keep State.rest (fun _ _ => by dsimp only; split <;> rfl)

theorem Group.rest_of {g h : Group} (hs : h = { g with
    regs := h.regs, flags := h.flags, m0 := h.m0, m1 := h.m1, hold := h.hold, replay := h.replay, readyAt := h.readyAt
    busyUntil := h.busyUntil, prompt := h.prompt, ks := h.ks, paths := h.paths, rope := h.rope })
    (hk : g.rope.isSome = true → h.ks = g.ks) (hp : g.rope.isSome = true → h.paths = g.paths)
    (hr : h.rope.map Rope.rest = g.rope.map Rope.rest) : h.rest = g.rest := by
  have hi : h.rope.isSome = g.rope.isSome := by
    have := congrArg Option.isSome hr
    simpa using this
  unfold Group.rest
  rw [hr, hi]
  cases hg : g.rope.isSome with
  | true => rw [hk hg, hp hg, hs]
  | false => rw [hs]; rfl

theorem Same.start (c : Ctx) (o : Op) (s : State) : Same id c s (c.start o s) := by
  unfold Ctx.start Ctx.begin_
  dsimp only
  have key : ∀ u : State, Same id c u (u.modGroup c.ref (fun g => c.begun o g)) := fun u =>
    Same.modGroup (fun g => Group.rest_of rfl (fun _ => rfl) (fun _ => rfl) (by
      unfold Ctx.begun
      cases g.rope <;> rfl))
  split
  · exact (Same.of_rest (c.countIdle_rest o s) (c.countIdle_teams o s)).trans (key _)
  · exact key s

theorem Group.settle_rest (g : Group) : g.settle.rest = g.rest := by
  unfold Group.settle
  split
  · rename_i r h
    split
    · exact Group.rest_of rfl (fun _ => rfl) (fun _ => rfl) (by rw [h]; rfl)
    · rfl
  · rename_i h
    split
    · exact Group.rest_of rfl (fun e => by simp [h] at e) (fun e => by simp [h] at e) rfl
    · rfl

theorem Same.done (c : Ctx) (e : State) : Same id c e (c.done e) := by
  unfold Ctx.done Ctx.chargeRope
  have h1 : Same id c e (e.modGroup c.ref Group.settle) := Same.modGroup Group.settle_rest
  split
  · exact h1
  · dsimp only
    refine h1.trans (Same.modGroup (fun g => Group.rest_of rfl (fun _ => rfl) (fun _ => rfl) ?_))
    cases g.rope <;> rfl

theorem Same.addFlags (c : Ctx) (s : State) (f : Flags) : Same id c s (s.addFlags c.ref f) :=
  Same.modGroup (fun _ => Group.rest_of rfl (fun _ => rfl) (fun _ => rfl) rfl)

/-- A context agrees with a state on whether its group leads a rope. -/
def Ctx.Fits (c : Ctx) (s : State) : Prop := ∃ g, s.group? c.ref = some g ∧ g.rope.isSome = c.inRope

theorem Same.fits {f : Group → Group} {c : Ctx} {s t : State} (hf : ∀ g, (f g).rope.isSome = g.rope.isSome)
    (h : Same f c s t) (k : c.Fits s) : c.Fits t := by
  obtain ⟨g, hg, hr⟩ := k
  have ho := h.own
  rw [hg] at ho
  cases ht : t.group? c.ref with
  | none => rw [ht] at ho; cases ho
  | some x =>
    rw [ht] at ho
    simp only [Option.map_some, Option.some.injEq] at ho
    have := congrArg (fun g : Group => g.rope.isSome) ho
    simp only [Group.rest, Option.isSome_map] at this
    exact ⟨x, ht, (this.trans (hf g)).trans hr⟩

theorem Op.issuer_fits {o : Op} {s : State} {c : Ctx} (h : o.issuer s = some c) : c.Fits s := by
  obtain ⟨_, _, hg, _, hr, _⟩ := Op.issuer_some h
  exact ⟨c.group, hg, by unfold Ctx.inRope; rw [hr]⟩

theorem Same.setPaths {c : Ctx} {s : State} (f : List Path → List Path) (h : c.Fits s) : Same id c s (c.setPaths f s) := by
  obtain ⟨g, hg, hr⟩ := h
  unfold Ctx.setPaths
  refine ⟨rfl, State.team?_modGroup_rest s c.ref _, fun r hr => State.group?_modGroup_ne _ _ hr, ?_⟩
  rw [State.group?_modGroup_self, hg]
  simp only [Option.map_some]
  congr 1
  split
  · exact Group.rest_of rfl (fun _ => rfl) (fun _ => rfl) (by dsimp only [id]; cases g.rope <;> rfl)
  · rename_i hn
    have : g.rope = none := by
      cases h : g.rope with
      | none => rfl
      | some r => rw [h] at hr; exact absurd hr.symm hn
    exact Group.rest_of rfl (fun e => by simp [this] at e) (fun e => by simp [this] at e) rfl

theorem Same.goto {c : Ctx} {s : State} (pc : Dword) (h : c.Fits s) : Same id c s (c.goto pc s) := Same.setPaths _ h

/-! ## Writing a destination -/

/-- A group after a write to one destination. -/
def Ctx.wrote (c : Ctx) (code : Byte) (vals : Nat → Word) (sh : Shape) (exec : Mask) (zero : Bool) (g : Group) : Group :=
  match clsOf code with
  | .v | .m => (g.setReg code ((g.reg code).writeLanes c.n vals sh exec c.path.mask c.live zero)).ownMail code c.ref.grp
  | .h => { g with rope := g.rope.map (fun r =>
      let h := (r.hregs.getD (codeNum code) {}).writeLanes c.n vals sh exec c.path.mask c.live false
      { r with hregs := setPad r.hregs (codeNum code) h {} }) }
  | .w | .s => g.setReg code ((g.reg code).writeWhole sh)
  | _ => g

theorem Ctx.writeDst_self (c : Ctx) (s : State) (code : Byte) (vals : Nat → Word) (sh : Shape) (exec : Mask) (zero : Bool) :
    (c.writeDst s code vals sh exec zero).group? c.ref = (s.group? c.ref).map (c.wrote code vals sh exec zero) := by
  unfold Ctx.writeDst Ctx.wrote
  cases clsOf code <;>
    first
    | rw [State.modTeam_addLog_group?, State.group?_modGroup_self]
    | rw [State.group?_modGroup_self]
    | (cases s.group? c.ref <;> rfl)

theorem Group.rest_setReg (g : Group) (k : Byte) (r : Reg) : (g.setReg k r).rest = g.rest := by
  unfold Group.setReg
  split <;> rfl

theorem Group.rest_ownMail (g : Group) (k : Byte) (n : Nat) : (g.ownMail k n).rest = g.rest := by
  unfold Group.ownMail
  split
  · rfl
  · split <;> rfl

theorem Same.writeDst (c : Ctx) (s : State) (code : Byte) (vals : Nat → Word) (sh : Shape) (exec : Mask) (zero : Bool) :
    Same id c s (c.writeDst s code vals sh exec zero) := by
  unfold Ctx.writeDst
  split
  · exact Same.modTeam_addLog (fun g => (Group.rest_ownMail _ _ _).trans (Group.rest_setReg _ _ _))
  · exact Same.modTeam_addLog (fun g => (Group.rest_ownMail _ _ _).trans (Group.rest_setReg _ _ _))
  · refine Same.modGroup (fun g => Group.rest_of rfl (fun _ => rfl) (fun _ => rfl) ?_)
    cases g.rope <;> rfl
  · exact Same.modGroup (fun g => Group.rest_setReg _ _ _)
  · exact Same.modGroup (fun g => Group.rest_setReg _ _ _)
  · exact Same.refl c s

/-- Two codes of one class with one number are one code. -/
theorem codeNum_h_inj {k d : Byte} (hk : clsOf k = .h) (hd : clsOf d = .h) (h : codeNum k = codeNum d) : k = d := by
  have low : ∀ x : Byte, clsOf x = .h → 0xD0 ≤ x.toNat := by decide
  unfold codeNum at h
  rw [hk, hd] at h
  change k.toNat - 0xD0 = d.toNat - 0xD0 at h
  have a := low k hk
  have b := low d hd
  exact BitVec.eq_of_toNat_eq (by omega)

theorem Group.reg_setReg_vz (g : Group) {c : Byte} (r : Reg) (h : clsOf c = .vz) : g.setReg c r = g := by
  unfold Group.setReg
  simp [h]

@[simp] theorem Group.rope_setReg (g : Group) (k : Byte) (r : Reg) : (g.setReg k r).rope = g.rope := by
  unfold Group.setReg
  split <;> rfl

@[simp] theorem Group.rope_ownMail (g : Group) (k : Byte) (n : Nat) : (g.ownMail k n).rope = g.rope := by
  unfold Group.ownMail
  split
  · rfl
  · split <;> rfl

theorem Group.regAt_of {g h : Group} {k : Byte} (hr : h.rope = g.rope) (he : h.reg k = g.reg k) : h.regAt k = g.regAt k := by
  unfold Group.regAt
  rw [hr, he]

theorem Ctx.wrote_regAt_ne (c : Ctx) {code k : Byte} (vals : Nat → Word) (sh : Shape) (exec : Mask) (zero : Bool) (g : Group)
    (h : k ≠ code) : (c.wrote code vals sh exec zero g).regAt k = g.regAt k := by
  unfold Ctx.wrote
  split
  · exact Group.regAt_of (by simp) (by rw [Group.reg_ownMail, Group.reg_setReg_ne _ _ (Ne.symm h)])
  · exact Group.regAt_of (by simp) (by rw [Group.reg_ownMail, Group.reg_setReg_ne _ _ (Ne.symm h)])
  · rename_i hc
    unfold Group.regAt
    split
    · rename_i hk
      cases g.rope with
      | none => rfl
      | some r =>
        simp only [Option.map_some, Option.getD_some]
        exact setPad_getD_ne _ _ _ (fun e => h (codeNum_h_inj hc hk e).symm)
    · rfl
  · exact Group.regAt_of (by simp) (Group.reg_setReg_ne _ _ (Ne.symm h))
  · exact Group.regAt_of (by simp) (Group.reg_setReg_ne _ _ (Ne.symm h))
  · rfl

/-- The lane of a v, m or h register after a write. -/
theorem Reg.writeLanes_at (r : Reg) {n l : Nat} (vals : Nat → Word) (sh : Shape) (exec path live : Mask) (zero : Bool)
    (hl : l < n) : (r.writeLanes n vals sh exec path live zero).lanes.getD l 0
      = if laneBit exec l then vals l else if zero && laneBit path l then 0
        else if (lanesTag sh exec live).tag == .g then r.lanes.getD l 0 else sh.at_ l := by
  have hs : (lanesTag sh exec live).tag == .g ∨ (lanesTag sh exec live) = sh := by
    unfold lanesTag; split <;> simp
  unfold Reg.writeLanes Reg.setLanes
  have h : l < max n r.lanes.length := by omega
  simp only [List.getD_eq_getElem?_getD, List.getElem?_map, List.getElem?_range h, Option.map_some, Option.getD_some]
  split
  · rfl
  · split
    · rfl
    · split
      · rfl
      · rcases hs with hs | hs
        · simp_all
        · simp [hs]

theorem Reg.writeLanes_tag (r : Reg) (n : Nat) (vals : Nat → Word) (sh : Shape) (exec path live : Mask) (zero : Bool) :
    (r.writeLanes n vals sh exec path live zero).tag = if live &&& ~~~exec == 0 then sh.tag else .g := by
  unfold Reg.writeLanes lanesTag
  dsimp only
  split <;> rfl

/-- A destination's word after a write, on the group alone. -/
theorem Ctx.wrote_at (c : Ctx) (x : XF) (d : Dest) (g : Group) {l : Nat} (hl : l < c.n)
    (hh : g.rope.isSome = c.inRope) :
    ((c.wrote d.code d.val d.shape (c.exec x.mask.toNat) (x.wmode == 2) g).regAt d.code).at_ (clsOf d.code) l
      = c.after x d (fun l => (g.regAt d.code).at_ (clsOf d.code) l) l := by
  have hv : clsOf d.code ≠ .vz → ∀ (r : Reg), (g.setReg d.code r).reg d.code = r := fun h r => Group.reg_setReg_self _ _ _ h
  unfold Ctx.wrote Ctx.after
  cases hc : clsOf d.code with
  | v =>
    unfold Group.regAt
    simp only [hc, Group.reg_ownMail, hv (by rw [hc]; decide)]
    exact Reg.writeLanes_at _ _ _ _ _ _ _ hl
  | m =>
    unfold Group.regAt
    simp only [hc, Group.reg_ownMail, hv (by rw [hc]; decide)]
    exact Reg.writeLanes_at _ _ _ _ _ _ _ hl
  | w =>
    unfold Group.regAt
    simp only [hc, hv (by rw [hc]; decide)]
    rfl
  | s =>
    unfold Group.regAt
    simp only [hc, hv (by rw [hc]; decide)]
    rfl
  | h =>
    unfold Group.regAt
    rw [← hh]
    cases hr : g.rope with
    | none => simp [hc]
    | some r =>
      simp only [hc, Option.map_some, Option.getD_some, setPad_getD_self]
      exact (Reg.writeLanes_at _ _ _ _ _ _ false hl).trans (by simp; rfl)
  | _ => rfl

theorem Ctx.wrote_tag (c : Ctx) (x : XF) (d : Dest) (g : Group) (hh : g.rope.isSome = c.inRope) :
    ((c.wrote d.code d.val d.shape (c.exec x.mask.toNat) (x.wmode == 2) g).regAt d.code).tag
      = c.tagAfter x d (g.regAt d.code).tag := by
  have hv : clsOf d.code ≠ .vz → ∀ (r : Reg), (g.setReg d.code r).reg d.code = r := fun h r => Group.reg_setReg_self _ _ _ h
  unfold Ctx.wrote Ctx.tagAfter
  cases hc : clsOf d.code with
  | v =>
    unfold Group.regAt
    simp only [hc, Group.reg_ownMail, hv (by rw [hc]; decide)]
    exact Reg.writeLanes_tag _ _ _ _ _ _ _ _
  | m =>
    unfold Group.regAt
    simp only [hc, Group.reg_ownMail, hv (by rw [hc]; decide)]
    exact Reg.writeLanes_tag _ _ _ _ _ _ _ _
  | w =>
    unfold Group.regAt
    simp only [hc, hv (by rw [hc]; decide)]
    rfl
  | s =>
    unfold Group.regAt
    simp only [hc, hv (by rw [hc]; decide)]
    rfl
  | h =>
    unfold Group.regAt
    rw [← hh]
    cases hr : g.rope with
    | none => simp [hc]
    | some r =>
      simp only [hc, Option.map_some, Option.getD_some, setPad_getD_self]
      exact (Reg.writeLanes_tag _ _ _ _ _ _ _ _).trans (by simp)
  | _ => rfl

theorem Ctx.wrote_curKs (c : Ctx) (code : Byte) (vals : Nat → Word) (sh : Shape) (exec : Mask) (zero : Bool) (g : Group) :
    (c.wrote code vals sh exec zero g).curKs = g.curKs := by
  have hs : ∀ (k : Byte) (r : Reg), (g.setReg k r).ks = g.ks := fun k r => by unfold Group.setReg; split <;> rfl
  have ho : ∀ (g : Group) (k : Byte) (i : Nat), (g.ownMail k i).ks = g.ks := fun g k i => by
    unfold Group.ownMail
    split
    · rfl
    · split <;> rfl
  unfold Ctx.wrote Group.curKs
  cases clsOf code <;> simp only [Group.rope_ownMail, Group.rope_setReg, hs, ho]
  cases g.rope <;> rfl

theorem Ctx.wrote_curPaths (c : Ctx) (code : Byte) (vals : Nat → Word) (sh : Shape) (exec : Mask) (zero : Bool) (g : Group) :
    (c.wrote code vals sh exec zero g).curPaths = g.curPaths := by
  have hs : ∀ (k : Byte) (r : Reg), (g.setReg k r).paths = g.paths := fun k r => by unfold Group.setReg; split <;> rfl
  have ho : ∀ (g : Group) (k : Byte) (i : Nat), (g.ownMail k i).paths = g.paths := fun g k i => by
    unfold Group.ownMail
    split
    · rfl
    · split <;> rfl
  unfold Ctx.wrote Group.curPaths
  cases clsOf code <;> simp only [Group.rope_ownMail, Group.rope_setReg, hs, ho]
  cases g.rope <;> rfl

theorem Ctx.wrote_flags (c : Ctx) (code : Byte) (vals : Nat → Word) (sh : Shape) (exec : Mask) (zero : Bool) (g : Group) :
    (c.wrote code vals sh exec zero g).flags = g.flags := by
  have hs : ∀ (k : Byte) (r : Reg), (g.setReg k r).flags = g.flags := fun k r => by unfold Group.setReg; split <;> rfl
  have ho : ∀ (g : Group) (k : Byte) (i : Nat), (g.ownMail k i).flags = g.flags := fun g k i => by
    unfold Group.ownMail
    split
    · rfl
    · split <;> rfl
  unfold Ctx.wrote
  cases clsOf code <;> simp only [hs, ho]

@[simp] theorem Ctx.wrote_rope_isSome (c : Ctx) (code : Byte) (vals : Nat → Word) (sh : Shape) (exec : Mask) (zero : Bool)
    (g : Group) : (c.wrote code vals sh exec zero g).rope.isSome = g.rope.isSome := by
  unfold Ctx.wrote
  cases clsOf code <;> simp

/-- A mailbox after a write to a destination. -/
theorem Ctx.wrote_mails (c : Ctx) (code : Byte) (vals : Nat → Word) (sh : Shape) (exec : Mask) (zero : Bool) (g : Group) :
    (c.wrote code vals sh exec zero g).m0 =
        (if code = 0xC0 then { g.m0 with full := true, writer := BitVec.ofNat 8 c.ref.grp } else g.m0)
      ∧ (c.wrote code vals sh exec zero g).m1 =
        (if code = 0xC1 then { g.m1 with full := true, writer := BitVec.ofNat 8 c.ref.grp } else g.m1) := by
  have hs0 : ∀ (k : Byte) (r : Reg), (g.setReg k r).m0 = g.m0 := fun k r => by unfold Group.setReg; split <;> rfl
  have hs1 : ∀ (k : Byte) (r : Reg), (g.setReg k r).m1 = g.m1 := fun k r => by unfold Group.setReg; split <;> rfl
  by_cases h0 : code = 0xC0
  · subst h0
    exact ⟨congrArg (fun m : Mailbox => { m with full := true, writer := BitVec.ofNat 8 c.ref.grp }) (hs0 _ _), hs1 _ _⟩
  · by_cases h1 : code = 0xC1
    · subst h1
      exact ⟨hs0 _ _, congrArg (fun m : Mailbox => { m with full := true, writer := BitVec.ofNat 8 c.ref.grp }) (hs1 _ _)⟩
    · rw [if_neg h0, if_neg h1]
      have ho : ∀ g : Group, g.ownMail code c.ref.grp = g := fun g => by
        unfold Group.ownMail
        rw [if_neg (by simpa using h0), if_neg (by simpa using h1)]
      unfold Ctx.wrote
      cases clsOf code <;> simp only [ho, hs0, hs1, and_self]

/-! ## A whole plan -/

/-- Writes destinations one after another. -/
def Ctx.writeAll (c : Ctx) (x : XF) (ds : List Dest) (s : State) : State :=
  ds.foldl (fun s d => c.writeDst s d.code d.val d.shape (c.exec x.mask.toNat) (x.wmode == 2)) s

def Ctx.wroteAll (c : Ctx) (x : XF) (ds : List Dest) (g : Group) : Group :=
  ds.foldl (fun g d => c.wrote d.code d.val d.shape (c.exec x.mask.toNat) (x.wmode == 2) g) g

theorem Ctx.writeAll_self (c : Ctx) (x : XF) (ds : List Dest) (s : State) :
    (c.writeAll x ds s).group? c.ref = (s.group? c.ref).map (c.wroteAll x ds) := by
  unfold Ctx.writeAll Ctx.wroteAll
  induction ds generalizing s with
  | nil => simp
  | cons d ds ih =>
    simp only [List.foldl_cons]
    rw [ih, Ctx.writeDst_self, Option.map_map]
    rfl

theorem Same.writeAll (c : Ctx) (x : XF) (ds : List Dest) (s : State) : Same id c s (c.writeAll x ds s) := by
  unfold Ctx.writeAll
  induction ds generalizing s with
  | nil => exact Same.refl c s
  | cons d ds ih => exact (Same.writeDst c s _ _ _ _ _).trans (ih _)

theorem Ctx.wroteAll_keep {β : Type} (c : Ctx) (x : XF) (ds : List Dest) (g : Group) (get : Group → β)
    (h : ∀ d ∈ ds, ∀ g, get (c.wrote d.code d.val d.shape (c.exec x.mask.toNat) (x.wmode == 2) g) = get g) :
    get (c.wroteAll x ds g) = get g := by
  unfold Ctx.wroteAll
  induction ds generalizing g with
  | nil => rfl
  | cons d ds ih =>
    exact (ih _ (fun e he => h e (List.mem_cons_of_mem _ he))).trans (h d (List.mem_cons_self ..) g)

theorem Ctx.wroteAll_regAt_ne (c : Ctx) (x : XF) (ds : List Dest) (g : Group) {k : Byte} (h : k ∉ ds.map (·.code)) :
    (c.wroteAll x ds g).regAt k = g.regAt k :=
  c.wroteAll_keep x ds g (fun g => g.regAt k) (fun d hd g => c.wrote_regAt_ne _ _ _ _ g
    (fun e => h (List.mem_map.2 ⟨d, hd, e.symm⟩)))

theorem Ctx.wroteAll_cons (c : Ctx) (x : XF) (d : Dest) (ds : List Dest) (g : Group) :
    c.wroteAll x (d :: ds) g = c.wroteAll x ds (c.wrote d.code d.val d.shape (c.exec x.mask.toNat) (x.wmode == 2) g) := rfl

theorem Ctx.wroteAll_at (c : Ctx) (x : XF) {ds : List Dest} {d : Dest} {g : Group} (hd : d ∈ ds)
    (hn : (ds.map (·.code)).Nodup) (hh : g.rope.isSome = c.inRope) :
    (∀ l, l < c.n → ((c.wroteAll x ds g).regAt d.code).at_ (clsOf d.code) l
        = c.after x d (fun l => (g.regAt d.code).at_ (clsOf d.code) l) l)
      ∧ ((c.wroteAll x ds g).regAt d.code).tag = c.tagAfter x d (g.regAt d.code).tag := by
  induction ds generalizing g with
  | nil => cases hd
  | cons e ds ih =>
    rw [Ctx.wroteAll_cons]
    simp only [List.map_cons, List.nodup_cons] at hn
    rcases List.mem_cons.1 hd with rfl | hm
    · rw [Ctx.wroteAll_regAt_ne _ _ _ _ hn.1]
      exact ⟨fun l hl => c.wrote_at x d g hl hh, c.wrote_tag x d g hh⟩
    · have hne : d.code ≠ e.code := fun h => hn.1 (h ▸ List.mem_map.2 ⟨d, hm, rfl⟩)
      have := ih (g := c.wrote e.code e.val e.shape (c.exec x.mask.toNat) (x.wmode == 2) g) hm hn.2 (by simpa using hh)
      rw [c.wrote_regAt_ne _ _ _ _ _ hne] at this
      exact this

theorem Ctx.wroteAll_mails (c : Ctx) (x : XF) (ds : List Dest) (g : Group) :
    (c.wroteAll x ds g).m0 = (if (ds.map (·.code)).contains 0xC0
        then { g.m0 with full := true, writer := BitVec.ofNat 8 c.ref.grp } else g.m0)
      ∧ (c.wroteAll x ds g).m1 = (if (ds.map (·.code)).contains 0xC1
        then { g.m1 with full := true, writer := BitVec.ofNat 8 c.ref.grp } else g.m1) := by
  induction ds generalizing g with
  | nil => exact ⟨rfl, rfl⟩
  | cons d ds ih =>
    rw [Ctx.wroteAll_cons]
    obtain ⟨i0, i1⟩ := ih (c.wrote d.code d.val d.shape (c.exec x.mask.toNat) (x.wmode == 2) g)
    obtain ⟨w0, w1⟩ := c.wrote_mails d.code d.val d.shape (c.exec x.mask.toNat) (x.wmode == 2) g
    rw [i0, i1, w0, w1]
    simp only [List.map_cons, List.contains_cons]
    constructor
    · by_cases h : d.code = 0xC0
      · simp [h]
      · have h' : ((0xC0 : Byte) == d.code) = false := by simpa using Ne.symm h
        simp only [h', Bool.false_or, if_neg h]
    · by_cases h : d.code = 0xC1
      · simp [h]
      · have h' : ((0xC1 : Byte) == d.code) = false := by simpa using Ne.symm h
        simp only [h', Bool.false_or, if_neg h]

/-- What holds between an instruction's start and its path's moving on: the effect so far. -/
structure Sofar (o : Op) (e : Eff) (c : Ctx) (s x : State) : Prop where
  dst : ∀ d ∈ e.dsts, ∀ l, l < c.n → x.seen c d.code l = c.after o.x d (s.seen c d.code) l
  tag : ∀ d ∈ e.dsts, x.tagOf c d.code = c.tagAfter o.x d (s.tagOf c d.code)
  regs : ∀ k, k ∉ e.dsts.map (·.code) → x.tagOf c k = s.tagOf c k ∧ ∀ l, x.seen c k l = s.seen c k l
  masks : x.masksOf c = e.masks (s.masksOf c)
  flags : x.flagsOf c = s.flagsOf c ||| e.flags
  mails : x.mailsOf c = (c.mailAfter o e.dsts 0xC0 (s.mailsOf c).1, c.mailAfter o e.dsts 0xC1 (s.mailsOf c).2)
  same : Same e.group c s x
  paths : x.pathsOf c = s.pathsOf c
  fits : c.Fits x

/-- After the destinations and the flags of an instruction. -/
theorem sofar_of {o : Op} {ds : List Dest} {fl : Flags} {c : Ctx} {s : State} (pc : Dword) (hi : o.issuer s = some c)
    (hn : (ds.map (·.code)).Nodup) :
    Sofar o { dsts := ds, flags := fl, next := pc } c s ((c.writeAll o.x ds (c.start o s)).addFlags c.ref fl) := by
  obtain ⟨_, _, hg, _, hrope, _⟩ := Op.issuer_some hi
  have hin : c.group.rope.isSome = c.inRope := by unfold Ctx.inRope; rw [hrope]
  have hstart : (c.start o s).group? c.ref = some (c.begun o c.group) := by
    rw [Ctx.start_group?, hg]
    simp
  have hbr : (c.begun o c.group).rope.isSome = c.inRope := by
    rw [← hin]
    unfold Ctx.begun
    simp
  have hwr : (c.wroteAll o.x ds (c.begun o c.group)).rope.isSome = c.inRope := by
    rw [← hbr]
    exact c.wroteAll_keep o.x ds _ (fun g => g.rope.isSome) (fun d _ g => by simp)
  have hself : ((c.writeAll o.x ds (c.start o s)).addFlags c.ref fl).group? c.ref
      = some { c.wroteAll o.x ds (c.begun o c.group) with
          flags := (c.wroteAll o.x ds (c.begun o c.group)).flags ||| fl } := by
    unfold State.addFlags
    rw [State.group?_modGroup_self, Ctx.writeAll_self, hstart]
    rfl
  have hreg : ∀ k, (c.begun o c.group).regAt k = c.group.regAt k := by
    intro k
    unfold Group.regAt
    rw [Ctx.begun_reg]
    unfold Ctx.begun
    dsimp only
    cases c.group.rope <;> rfl
  have hfin : ∀ (g : Group) (f : Flags) k, ({ g with flags := f } : Group).regAt k = g.regAt k := by
    intro g f k
    unfold Group.regAt
    cases clsOf k <;> rfl
  have hsame : Same id c s ((c.writeAll o.x ds (c.start o s)).addFlags c.ref fl) :=
    ((Same.start c o s).trans (Same.writeAll c o.x ds _)).trans (Same.addFlags c _ fl)
  refine ⟨?_, ?_, ?_, ?_, ?_, ?_, hsame, ?_, ?_⟩
  · intro d hd l hl
    unfold State.seen
    rw [hself, hg]
    simp only [Option.map_some, Option.getD_some, hfin]
    rw [(c.wroteAll_at o.x hd hn hbr).1 l hl]
    simp only [hreg]
  · intro d hd
    unfold State.tagOf
    rw [hself, hg]
    simp only [Option.map_some, Option.getD_some, hfin]
    rw [(c.wroteAll_at o.x hd hn hbr).2, hreg]
  · intro k hk
    unfold State.seen State.tagOf
    rw [hself, hg]
    simp only [Option.map_some, Option.getD_some, hfin, Ctx.wroteAll_regAt_ne _ _ _ _ hk, hreg]
    exact ⟨trivial, fun _ => trivial⟩
  · unfold State.masksOf
    rw [hself, hg]
    simp only [Option.map_some, Option.getD_some]
    refine Eq.trans (b := (c.wroteAll o.x ds (c.begun o c.group)).curKs) rfl ?_
    rw [c.wroteAll_keep o.x ds _ Group.curKs (fun d _ g => c.wrote_curKs _ _ _ _ _ g)]
    unfold Ctx.begun Group.curKs
    cases c.group.rope <;> rfl
  · unfold State.flagsOf
    rw [hself, hg]
    simp only [Option.map_some, Option.getD_some]
    rw [c.wroteAll_keep o.x ds _ Group.flags (fun d _ g => c.wrote_flags _ _ _ _ _ g)]
    rfl
  · unfold State.mailsOf
    rw [hself, hg]
    simp only [Option.map_some, Option.getD_some, (c.wroteAll_mails o.x ds _).1, (c.wroteAll_mails o.x ds _).2]
    unfold Ctx.mailAfter Ctx.begun
    simp only [Prod.mk.injEq]
    constructor <;> split <;> split <;> rfl
  · unfold State.pathsOf
    rw [hself, hg]
    simp only [Option.map_some, Option.getD_some]
    refine Eq.trans (b := (c.wroteAll o.x ds (c.begun o c.group)).curPaths) rfl ?_
    rw [c.wroteAll_keep o.x ds _ Group.curPaths (fun d _ g => c.wrote_curPaths _ _ _ _ _ g)]
    unfold Ctx.begun Group.curPaths
    cases c.group.rope <;> rfl
  · exact ⟨_, hself, hwr⟩

/-- At an instruction's start. -/
theorem sofar_start {o : Op} {c : Ctx} {s : State} (pc : Dword) (hi : o.issuer s = some c) :
    Sofar o { next := pc } c s (c.start o s) := by
  obtain ⟨_, _, hg, _, hrope, _⟩ := Op.issuer_some hi
  have hin : c.group.rope.isSome = c.inRope := by unfold Ctx.inRope; rw [hrope]
  have hstart : (c.start o s).group? c.ref = some (c.begun o c.group) := by
    rw [Ctx.start_group?, hg]
    simp
  have hbr : (c.begun o c.group).rope.isSome = c.inRope := by
    rw [← hin]
    unfold Ctx.begun
    simp
  have hreg : ∀ k, (c.begun o c.group).regAt k = c.group.regAt k := by
    intro k
    unfold Group.regAt
    rw [Ctx.begun_reg]
    unfold Ctx.begun
    dsimp only
    cases c.group.rope <;> rfl
  refine ⟨(fun _ h => by cases h), (fun _ h => by cases h), ?_, ?_, ?_, ?_, Same.start c o s, ?_, ⟨_, hstart, hbr⟩⟩
  · intro k hk
    unfold State.seen State.tagOf
    rw [hstart, hg]
    simp only [Option.map_some, Option.getD_some, hreg]
    exact ⟨trivial, fun _ => trivial⟩
  · unfold State.masksOf
    rw [hstart, hg]
    simp only [Option.map_some, Option.getD_some]
    unfold Ctx.begun Group.curKs
    cases c.group.rope <;> rfl
  · unfold State.flagsOf
    rw [hstart, hg]
    simp
  · unfold State.mailsOf
    rw [hstart, hg]
    simp only [Option.map_some, Option.getD_some]
    unfold Ctx.mailAfter Ctx.begun
    simp only [Prod.mk.injEq]
    constructor <;> rfl
  · unfold State.pathsOf
    rw [hstart, hg]
    simp only [Option.map_some, Option.getD_some]
    unfold Ctx.begun Group.curPaths
    cases c.group.rope <;> rfl

/-- A change of other fields of the group. -/
theorem Sofar.modGroup {o : Op} {e : Eff} {c : Ctx} {s x : State} (h : Sofar o e c s x) (f : Group → Group)
    (hid : e.group = id) (hf : ∀ g, (f g).regs = g.regs ∧ (f g).ks = g.ks ∧ (f g).paths = g.paths ∧ (f g).flags = g.flags
      ∧ (f g).m0 = g.m0 ∧ (f g).m1 = g.m1 ∧ (f g).rope = g.rope)
    (hr : ∀ g h, g.rest = h.rest → (f g).rest = (f h).rest) :
    Sofar o { e with group := f } c s (x.modGroup c.ref f) := by
  obtain ⟨g, hg, hrope⟩ := h.fits
  have hx : (x.modGroup c.ref f).group? c.ref = some (f g) := by rw [State.group?_modGroup_self, hg]; rfl
  have hreg : ∀ k, (f g).regAt k = g.regAt k := fun k => Group.regAt_of (hf g).2.2.2.2.2.2 (by
    unfold Group.reg; rw [(hf g).1])
  have hseen : ∀ k l, (x.modGroup c.ref f).seen c k l = x.seen c k l := by
    intro k l
    unfold State.seen
    rw [hx, hg]
    simp only [Option.map_some, Option.getD_some, hreg]
  have htag : ∀ k, (x.modGroup c.ref f).tagOf c k = x.tagOf c k := by
    intro k
    unfold State.tagOf
    rw [hx, hg]
    simp only [Option.map_some, Option.getD_some, hreg]
  refine ⟨fun d hd l hl => (hseen _ _).trans (h.dst d hd l hl), ?_, fun k hk => ⟨(htag k).trans (h.regs k hk).1, fun l => (hseen _ _).trans ((h.regs k hk).2 l)⟩, ?_, ?_, ?_,
    ?_, ?_, ⟨f g, hx, by rw [(hf g).2.2.2.2.2.2, hrope]⟩⟩
  · intro d hd
    rw [← h.tag d hd]
    unfold State.tagOf
    rw [hx, hg]
    simp only [Option.map_some, Option.getD_some, hreg]
  · rw [← h.masks]
    unfold State.masksOf
    rw [hx, hg]
    simp only [Option.map_some, Option.getD_some, Group.curKs, (hf g).2.1, (hf g).2.2.2.2.2.2]
  · rw [← h.flags]
    unfold State.flagsOf
    rw [hx, hg]
    simp only [Option.map_some, Option.getD_some, (hf g).2.2.2.1]
  · rw [← h.mails]
    unfold State.mailsOf
    rw [hx, hg]
    simp only [Option.map_some, Option.getD_some, (hf g).2.2.2.2.1, (hf g).2.2.2.2.2.1]
  · refine ⟨h.same.rest, fun u => (State.team?_modGroup_rest x c.ref f u).trans (h.same.teams u),
      fun r hr => (State.group?_modGroup_ne _ _ hr).trans (h.same.others r hr), ?_⟩
    have ho := h.same.own
    rw [hid, hg] at ho
    rw [hx]
    cases hs : s.group? c.ref with
    | none => rw [hs] at ho; cases ho
    | some q =>
      rw [hs] at ho
      simp only [Option.map_some, Option.some.injEq] at ho
      simp only [Option.map_some, Option.some.injEq]
      exact hr _ _ ho
  · rw [← h.paths]
    unfold State.pathsOf
    rw [hx, hg]
    simp only [Option.map_some, Option.getD_some, Group.curPaths, (hf g).2.2.1, (hf g).2.2.2.2.2.2]

/-- A write of the masks of the group, or of its rope. -/
theorem Sofar.setMasks {o : Op} {e : Eff} {c : Ctx} {s x : State} (h : Sofar o e c s x) (f : List KMask → List KMask)
    (hid : e.masks = id) : Sofar o { e with masks := f } c s (x.modGroup c.ref (fun g =>
      if c.inRope then { g with rope := g.rope.map (fun r => { r with ks := f r.ks }) } else { g with ks := f g.ks })) := by
  obtain ⟨g, hg, hrope⟩ := h.fits
  obtain ⟨g', hg'⟩ : ∃ g', g' = (if c.inRope then { g with rope := g.rope.map (fun r => { r with ks := f r.ks }) }
    else { g with ks := f g.ks } : Group) := ⟨_, rfl⟩
  have hx : (x.modGroup c.ref (fun g => if c.inRope then { g with rope := g.rope.map (fun r => { r with ks := f r.ks }) }
      else { g with ks := f g.ks })).group? c.ref = some g' := by rw [State.group?_modGroup_self, hg, hg']; rfl
  have hsame : Same id c x (x.modGroup c.ref (fun g =>
      if c.inRope then { g with rope := g.rope.map (fun r => { r with ks := f r.ks }) } else { g with ks := f g.ks })) := by
    refine ⟨rfl, State.team?_modGroup_rest x c.ref _, fun r hr => State.group?_modGroup_ne _ _ hr, ?_⟩
    rw [hx, hg]
    simp only [Option.map_some, Option.some.injEq, id]
    rw [hg']
    by_cases hin : c.inRope = true
    · rw [if_pos hin]
      exact Group.rest_of rfl (fun _ => rfl) (fun _ => rfl) (by cases g.rope <;> rfl)
    · rw [if_neg hin]
      have : g.rope = none := by
        cases h : g.rope with
        | none => rfl
        | some r => rw [h] at hrope; exact absurd hrope.symm hin
      exact Group.rest_of rfl (fun e => by simp [this] at e) (fun e => by simp [this] at e) rfl
  have hreg : ∀ k, g'.regAt k = g.regAt k := by
    intro k
    rw [hg']
    by_cases hin : c.inRope = true
    · rw [if_pos hin]
      unfold Group.regAt
      cases clsOf k <;> first | rfl | (cases g.rope <;> rfl)
    · rw [if_neg hin]
      exact Group.regAt_of rfl rfl
  have hks : g'.curKs = f g.curKs := by
    rw [hg']
    unfold Group.curKs
    by_cases hin : c.inRope = true
    · rw [if_pos hin]
      rw [hin] at hrope
      obtain ⟨r, hr⟩ := Option.isSome_iff_exists.1 hrope
      simp only [hr, Option.map_some, Option.getD_some]
    · rw [if_neg hin]
      have : g.rope = none := by
        cases h : g.rope with
        | none => rfl
        | some r => rw [h] at hrope; exact absurd hrope.symm hin
      simp only [this, Option.map_none, Option.getD_none]
  have hother : g'.curPaths = g.curPaths ∧ g'.flags = g.flags ∧ g'.m0 = g.m0 ∧ g'.m1 = g.m1
      ∧ g'.rope.isSome = g.rope.isSome := by
    rw [hg']
    unfold Group.curPaths
    by_cases hin : c.inRope = true
    · rw [if_pos hin]
      cases g.rope <;> exact ⟨rfl, rfl, rfl, rfl, rfl⟩
    · rw [if_neg hin]
      exact ⟨rfl, rfl, rfl, rfl, rfl⟩
  generalize hy : x.modGroup c.ref (fun g =>
      if c.inRope then { g with rope := g.rope.map (fun r => { r with ks := f r.ks }) } else { g with ks := f g.ks }) = y at hx hsame ⊢
  have hseen : ∀ k l, y.seen c k l = x.seen c k l := by
    intro k l
    unfold State.seen
    rw [hx, hg]
    simp only [Option.map_some, Option.getD_some, hreg]
  have htag : ∀ k, y.tagOf c k = x.tagOf c k := by
    intro k
    unfold State.tagOf
    rw [hx, hg]
    simp only [Option.map_some, Option.getD_some, hreg]
  refine ⟨fun d hd l hl => (hseen _ _).trans (h.dst d hd l hl), ?_, fun k hk => ⟨(htag k).trans (h.regs k hk).1, fun l => (hseen _ _).trans ((h.regs k hk).2 l)⟩, ?_, ?_, ?_,
    h.same.trans hsame, ?_, ⟨g', hx, hother.2.2.2.2.trans hrope⟩⟩
  · intro d hd
    rw [← h.tag d hd]
    unfold State.tagOf
    rw [hx, hg]
    simp only [Option.map_some, Option.getD_some, hreg]
  · have hm := h.masks
    rw [hid] at hm
    unfold State.masksOf at hm ⊢
    rw [hx]
    rw [hg] at hm
    simp only [Option.map_some, Option.getD_some, id] at hm ⊢
    rw [hks, hm]
  · rw [← h.flags]
    unfold State.flagsOf
    rw [hx, hg]
    simp only [Option.map_some, Option.getD_some, hother.2.1]
  · rw [← h.mails]
    unfold State.mailsOf
    rw [hx, hg]
    simp only [Option.map_some, Option.getD_some, hother.2.2.1, hother.2.2.2.1]
  · rw [← h.paths]
    unfold State.pathsOf
    rw [hx, hg]
    simp only [Option.map_some, Option.getD_some, hother.1]

/-- The path goes on, and the effect is committed. -/
theorem Sofar.goto {o : Op} {e : Eff} {c : Ctx} {s x : State} (h : Sofar o e c s x) (hi : o.issuer s = some c) :
    Wrote o e c s (c.done (c.goto e.next x)) := by
  obtain ⟨_, _, hgs, _, hrope, hrun, _⟩ := Op.issuer_some hi
  obtain ⟨g, hg, hr⟩ := h.fits
  obtain ⟨n, hdone⟩ := c.done_self (c.goto e.next x)
  have hself : (c.done (c.goto e.next x)).group? c.ref = some (Group.committed n (c.moved e.next g)) := by
    rw [hdone, Ctx.goto_self, hg]
    rfl
  have hseen : ∀ k l, (c.done (c.goto e.next x)).seen c k l = x.seen c k l := by
    intro k l
    unfold State.seen
    rw [hself, hg]
    simp only [Option.map_some, Option.getD_some, Group.committed_regAt, Ctx.moved_regAt]
  have htag : ∀ k, (c.done (c.goto e.next x)).tagOf c k = x.tagOf c k := by
    intro k
    unfold State.tagOf
    rw [hself, hg]
    simp only [Option.map_some, Option.getD_some, Group.committed_regAt, Ctx.moved_regAt]
  have hp := runPath_runs hrun
  have hpaths : g.curPaths = s.pathsOf c := by
    rw [← h.paths]
    unfold State.pathsOf
    rw [hg]
    rfl
  have hcur : ∀ p, p ∈ replacePath (s.pathsOf c) c.path [{ c.path with pc := e.next }] → p.join = none →
      p ∈ (c.done (c.goto e.next x)).pathsOf c := by
    intro p hp hj
    unfold State.pathsOf
    rw [hself]
    simp only [Option.map_some, Option.getD_some]
    refine Group.committed_paths n ?_ hj
    rw [Ctx.moved_paths e.next hr, hpaths]
    exact hp
  refine ⟨⟨fun d hd l hl => (hseen _ _).trans (h.dst d hd l hl), ?_, fun k hk => ⟨(htag k).trans (h.regs k hk).1, fun l => (hseen _ _).trans ((h.regs k hk).2 l)⟩, ?_, ?_,
    ?_, (h.same.trans (Same.goto e.next ⟨g, hg, hr⟩)).trans (Same.done c _), ?_⟩, ?_⟩
  · intro d hd
    rw [← h.tag d hd]
    unfold State.tagOf
    rw [hself, hg]
    simp only [Option.map_some, Option.getD_some, Group.committed_regAt, Ctx.moved_regAt]
  · rw [← h.masks]
    unfold State.masksOf
    rw [hself, hg]
    simp only [Option.map_some, Option.getD_some, Group.committed_curKs, Ctx.moved_curKs]
  · rw [← h.flags]
    unfold State.flagsOf
    rw [hself, hg]
    simp only [Option.map_some, Option.getD_some, Group.committed_flags, Ctx.moved_flags]
  · rw [← h.mails]
    unfold State.mailsOf
    rw [hself, hg]
    simp only [Option.map_some, Option.getD_some, Group.committed_m0, Group.committed_m1, Ctx.moved_m0, Ctx.moved_m1]
  · intro p hps hne hj
    exact hcur p (replacePath_old _ hps hne) hj
  · exact ⟨_, hcur _ (replacePath_new hp.2.1) hp.2.2, rfl, rfl, hp.2.2⟩

/-! ## The plans of 08 -/

/-- A function that writes one word to D gives its operation's results. -/
theorem gives_of {i : Instr} {o : Op} {plan : Ctx → State → Plan} {aff : Affine} {dep : Bool} {op : Ctx → LaneOp}
    (hx : ∀ s, exec i s = runOp o plan s)
    (he : ∀ c s, (plan c s).effect = (computePlan o.family o.func aff dep (op c) o.x c s).effect) :
    Gives i o plan aff dep op := by
  intro s c h
  refine ⟨_, (hx s).trans (runOp_runs h), ?_⟩
  rw [he]
  exact (sofar_of (ds := [{ code := o.x.d, val := fun l => (c.lane o (op c) l).1, shape := c.laneShape o aff dep (op c) }])
    (fl := c.laneFlags o (op c)) c.next h.issuer (by simp)).goto h.issuer

theorem succCode_ne (d : Byte) : d ≠ succCode d := by
  unfold succCode
  intro h
  have := congrArg BitVec.toNat h
  simp [BitVec.toNat_add] at this
  omega

/-- Writing a pair is writing its destinations. -/
theorem Ctx.writePair_eq (c : Ctx) (s : State) (x : XF) (vals : Nat → Dword) (lo hi : Shape) :
    c.writePair s x.d vals lo hi (c.exec x.mask.toNat) (x.wmode == 2) = c.writeAll x (pairDests x.d vals lo hi) s := by
  unfold Ctx.writePair Ctx.writeAll pairDests
  split <;> rfl

theorem pairDests_nodup (d : Byte) (vals : Nat → Dword) (lo hi : Shape) : ((pairDests d vals lo hi).map (·.code)).Nodup := by
  unfold pairDests
  split
  · simp
  · simp [succCode_ne d]

/-- A plan that writes destinations, then flags, and goes on. -/
theorem wrote_of {i : Instr} {o : Op} {plan : Ctx → State → Plan} {e : Ctx → Eff} (hx : ∀ s, exec i s = runOp o plan s)
    (hm : ∀ c, (e c).masks = id) (hg : ∀ c, (e c).group = id) (hn : ∀ c, ((e c).dsts.map (·.code)).Nodup)
    (he : ∀ c s, o.issuer s = some c → (plan c (c.start o s)).effect
      = c.goto (e c).next ((c.writeAll o.x (e c).dsts (c.start o s)).addFlags c.ref (e c).flags)) :
    Completes i o plan (fun c s t => Wrote o (e c) c s t) := by
  intro s c h
  refine ⟨_, (hx s).trans (runOp_runs h), ?_⟩
  rw [he c s h.issuer]
  have := (sofar_of (fl := (e c).flags) (e c).next h.issuer (hn c)).goto h.issuer
  have heq : e c = { dsts := (e c).dsts, flags := (e c).flags, next := (e c).next } := by
    have h1 := hm c
    have h2 := hg c
    cases hc : e c
    rw [hc] at h1 h2
    simp only at h1 h2
    rw [h1, h2]
  rw [← heq] at this
  exact this

theorem modAt_id {α : Type} (l : List α) (i : Nat) : modAt l i (fun x => x) = l := by
  induction l generalizing i with
  | nil => rfl
  | cons x t ih => cases i with
    | zero => rfl
    | succ i => simp [modAt, ih]

theorem State.modGroup_id (s : State) (r : GroupRef) : s.modGroup r (fun g => g) = s := by
  unfold State.modGroup State.modTeam Team.modGroup Team.modPart Team.modCur
  have h2 : ∀ m : Team, ({ m with cur := { m.cur with parts := modAt m.cur.parts r.part (fun q =>
      { q with groups := modAt q.groups r.grp (fun g => g) }) } } : Team) = m := fun m => by
    simp only [modAt_id]
  simp only [h2, ite_self, List.map_id']

@[simp] theorem State.addFlags_zero (s : State) (r : GroupRef) : s.addFlags r 0 = s := by
  unfold State.addFlags
  have : (fun g : Group => { g with flags := g.flags ||| 0 }) = fun g => g := by
    funext g
    have : g.flags ||| 0 = g.flags := BitVec.or_zero
    rw [this]
  rw [this, State.modGroup_id]

/-- A plan that writes a mask and goes on. -/
theorem masked_of {i : Instr} {o : Op} {plan : Ctx → State → Plan} {m : Ctx → List KMask → List KMask}
    (hx : ∀ s, exec i s = runOp o plan s)
    (he : ∀ c s, (plan c s).effect = c.advance (s.modGroup c.ref (fun g =>
      if c.inRope then { g with rope := g.rope.map (fun r => { r with ks := m c r.ks }) } else { g with ks := m c g.ks }))) :
    Completes i o plan (fun c s t => Wrote o { masks := m c, next := c.next } c s t) := by
  intro s c h
  refine ⟨_, (hx s).trans (runOp_runs h), ?_⟩
  rw [he]
  exact ((sofar_start c.next h.issuer).setMasks (m c) rfl).goto h.issuer

/-- A plan that changes other fields of the group and goes on. -/
theorem grouped_of {i : Instr} {o : Op} {plan : Ctx → State → Plan} {f : Ctx → Group → Group} {pc : Ctx → Dword}
    (hx : ∀ s, exec i s = runOp o plan s)
    (hf : ∀ c g, (f c g).regs = g.regs ∧ (f c g).ks = g.ks ∧ (f c g).paths = g.paths ∧ (f c g).flags = g.flags
      ∧ (f c g).m0 = g.m0 ∧ (f c g).m1 = g.m1 ∧ (f c g).rope = g.rope)
    (hr : ∀ c g h, g.rest = h.rest → (f c g).rest = (f c h).rest)
    (he : ∀ c s, (plan c s).effect = c.goto (pc c) (s.modGroup c.ref (f c))) :
    Completes i o plan (fun c s t => Wrote o { group := f c, next := pc c } c s t) := by
  intro s c h
  refine ⟨_, (hx s).trans (runOp_runs h), ?_⟩
  rw [he]
  exact ((sofar_start (pc c) h.issuer).modGroup (f c) rfl (hf c) (hr c)).goto h.issuer

end Sys2Proof.Machine
end

