-- ==== Sys2Proof/Laws/Encoding.lean ====
section
/-! SUPPORT. The fields of encoded words read back, and the bytes of a word join to it. -/

namespace Sys2Proof

open Sys2Proof.Machine

/-- The four bytes of a word, lowest first, joined again. -/
@[simp] theorem word_of_bytes (w : Word) :
    w.extractLsb' 24 8 ++ w.extractLsb' 16 8 ++ w.extractLsb' 8 8 ++ w.extractLsb' 0 8 = w := by
  apply BitVec.eq_of_getLsbD_eq
  intro i hi
  simp only [BitVec.getLsbD_append, BitVec.getLsbD_extractLsb']
  by_cases h1 : i < 8
  · simp [h1]
  · by_cases h2 : i - 8 < 8
    · simp [h1, h2]; congr 1; omega
    · by_cases h3 : i - 8 - 8 < 8
      · simp [h1, h2, h3]; congr 1; omega
      · simp [h1, h2, h3, show i - 8 - 8 - 8 < 8 by omega]; congr 1; omega

/-- The two words of a literal, joined again. -/
@[simp] theorem lit_of_words (d : Dword) : d.extractLsb' 32 32 ++ d.extractLsb' 0 32 = d := by
  apply BitVec.eq_of_getLsbD_eq
  intro i hi
  simp only [BitVec.getLsbD_append, BitVec.getLsbD_extractLsb']
  by_cases h1 : i < 32
  · simp [h1]
  · simp [h1, show i - 32 < 32 by omega]; congr 1; omega

/-! ## B-form words -/

theorem wordB_toNat (m : Nat) (a b c : Byte) (hm : m < 64) :
    (wordB m a b c).toNat = m * 2 ^ 24 + a.toNat * 2 ^ 16 + b.toNat * 2 ^ 8 + c.toNat := by
  have h0 : BitVec.toNat (0 : BitVec 2) = 0 := rfl
  have := a.isLt
  have := b.isLt
  have := c.isLt
  simp only [wordB, BitVec.toNat_append, BitVec.toNat_ofNat, h0]
  rw [← Nat.shiftLeft_add_eq_or_of_lt (by omega), ← Nat.shiftLeft_add_eq_or_of_lt (by omega),
    ← Nat.shiftLeft_add_eq_or_of_lt (by omega), ← Nat.shiftLeft_add_eq_or_of_lt (by omega)]
  simp only [Nat.shiftLeft_eq]
  omega

/-- A B-form word has length code 0. -/
theorem wordB_len (m : Nat) (a b c : Byte) (hm : m < 64) : bits (wordB m a b c).toNat 30 2 = 0 := by
  have := a.isLt
  have := b.isLt
  have := c.isLt
  rw [bits, wordB_toNat m a b c hm]
  omega

theorem wordB_major (m : Nat) (a b c : Byte) (hm : m < 64) : bits (wordB m a b c).toNat 24 6 = m := by
  have := a.isLt
  have := b.isLt
  have := c.isLt
  rw [bits, wordB_toNat m a b c hm]
  omega

theorem wordB_a (m : Nat) (a b c : Byte) : (wordB m a b c).extractLsb' 16 8 = a := by
  apply BitVec.eq_of_getLsbD_eq
  intro i hi
  simp only [wordB, BitVec.getLsbD_extractLsb', BitVec.getLsbD_append]
  simp [hi, show ¬ (16 + i < 8) by omega, show ¬ (16 + i - 8 < 8) by omega, show (16 + i - 8 - 8 < 8) by omega]
  congr 1; omega

theorem wordB_b (m : Nat) (a b c : Byte) : (wordB m a b c).extractLsb' 8 8 = b := by
  apply BitVec.eq_of_getLsbD_eq
  intro i hi
  simp only [wordB, BitVec.getLsbD_extractLsb', BitVec.getLsbD_append]
  simp [hi]

theorem wordB_c (m : Nat) (a b c : Byte) : (wordB m a b c).extractLsb' 0 8 = c := by
  apply BitVec.eq_of_getLsbD_eq
  intro i hi
  simp only [wordB, BitVec.getLsbD_extractLsb', BitVec.getLsbD_append]
  simp [hi]

/-! ## X-form words -/

/-- The first word of an X or XL instruction. -/
def xWord0 (len : BitVec 2) (family : Nat) (x : XF) : Word := len ++ BitVec.ofNat 6 family ++ x.d ++ x.a ++ x.b
/-- The second word of an X or XL instruction. -/
def xWord1 (func : Nat) (x : XF) : Word := x.c ++ BitVec.ofNat 8 func ++ x.apat ++ x.aparm ++ x.asub ++ x.wmode
/-- The third word of an X or XL instruction. -/
def xWord2 (x : XF) : Word := x.bpat ++ x.bparm ++ x.bsub ++ x.mask ++ x.round ++ x.type ++ x.f

theorem encodeX_words (family func : Nat) (x : XF) :
    encodeX family func x = [xWord0 (if x.lit.isSome then 3 else 2) family x, xWord1 func x, xWord2 x]
      ++ (match x.lit with
        | none => []
        | some l => [l.extractLsb' 0 32, l.extractLsb' 32 32]) := by
  unfold encodeX xWord0 xWord1 xWord2
  cases x.lit <;> rfl

theorem xWord0_toNat (len : BitVec 2) (family : Nat) (x : XF) (hf : family < 64) :
    (xWord0 len family x).toNat = len.toNat * 2 ^ 30 + family * 2 ^ 24 + x.d.toNat * 2 ^ 16 + x.a.toNat * 2 ^ 8 + x.b.toNat := by
  have := x.d.isLt
  have := x.a.isLt
  have := x.b.isLt
  have := len.isLt
  simp only [xWord0, BitVec.toNat_append, BitVec.toNat_ofNat]
  rw [← Nat.shiftLeft_add_eq_or_of_lt (by omega), ← Nat.shiftLeft_add_eq_or_of_lt (by omega),
    ← Nat.shiftLeft_add_eq_or_of_lt (by omega), ← Nat.shiftLeft_add_eq_or_of_lt (by omega)]
  simp only [Nat.shiftLeft_eq]
  omega

theorem xWord0_len (len : BitVec 2) (family : Nat) (x : XF) (hf : family < 64) :
    bits (xWord0 len family x).toNat 30 2 = len.toNat := by
  have := x.d.isLt
  have := x.a.isLt
  have := x.b.isLt
  have := len.isLt
  rw [bits, xWord0_toNat len family x hf]
  omega

theorem xWord0_family (len : BitVec 2) (family : Nat) (x : XF) (hf : family < 64) :
    bits (xWord0 len family x).toNat 24 6 = family := by
  have := x.d.isLt
  have := x.a.isLt
  have := x.b.isLt
  have := len.isLt
  rw [bits, xWord0_toNat len family x hf]
  omega

theorem xWord1_func (func : Nat) (x : XF) (hf : func < 256) : bits (xWord1 func x).toNat 16 8 = func := by
  have := x.c.isLt
  have := x.apat.isLt
  have := x.aparm.isLt
  have := x.asub.isLt
  have := x.wmode.isLt
  simp only [bits, xWord1, BitVec.toNat_append, BitVec.toNat_ofNat]
  rw [← Nat.shiftLeft_add_eq_or_of_lt (by omega), ← Nat.shiftLeft_add_eq_or_of_lt (by omega),
    ← Nat.shiftLeft_add_eq_or_of_lt (by omega), ← Nat.shiftLeft_add_eq_or_of_lt (by omega),
    ← Nat.shiftLeft_add_eq_or_of_lt (by omega)]
  simp only [Nat.shiftLeft_eq]
  omega

/-- A part of a concatenation, from the part's place: the low part is cut off. -/
theorem extract_append_high {m n k lo : Nat} (a : BitVec m) (b : BitVec n) (h : n ≤ lo) :
    (a ++ b).extractLsb' lo k = a.extractLsb' (lo - n) k := by
  apply BitVec.eq_of_getLsbD_eq
  intro i hi
  simp only [BitVec.getLsbD_extractLsb', BitVec.getLsbD_append, hi, decide_true, Bool.true_and]
  rw [if_neg (by omega)]
  congr 1; omega

/-- A part of a concatenation that lies in its low part. -/
theorem extract_append_low {m n k lo : Nat} (a : BitVec m) (b : BitVec n) (h : lo + k ≤ n) :
    (a ++ b).extractLsb' lo k = b.extractLsb' lo k := by
  apply BitVec.eq_of_getLsbD_eq
  intro i hi
  simp only [BitVec.getLsbD_extractLsb', BitVec.getLsbD_append, hi, decide_true, Bool.true_and]
  rw [if_pos (by omega)]

/-- A whole vector as a part of itself. -/
@[simp] theorem extract_self {n : Nat} (a : BitVec n) : a.extractLsb' 0 n = a := by
  apply BitVec.eq_of_getLsbD_eq
  intro i hi
  simp [hi]

/-- The fields of encoded X words read back. -/
theorem xFields_words (len : BitVec 2) (family func : Nat) (x : XF) :
    xFields (xWord0 len family x) (xWord1 func x) (xWord2 x) x.lit = x := by
  cases x
  simp only [xFields, xWord0, xWord1, xWord2, XF.mk.injEq, and_true]
  refine ⟨?_, ?_, ?_, ?_, ?_, ?_, ?_, ?_, ?_, ?_, ?_, ?_, ?_, ?_, ?_⟩ <;>
  repeat first
    | exact extract_self _
    | refine (extract_append_low _ _ (by decide)).trans ?_
    | refine (extract_append_high _ _ (by decide)).trans ?_

end Sys2Proof
end

