-- ==== Sys2Proof/Laws/Memory.lean ====
section
/-! SUPPORT. The laws of the byte lists: every write keeps the canonical form, a read after a write gives the value written
at its address and what was there at every other. -/

namespace Sys2Proof.Machine

/-- Every address of a canonical list lies above a bound that its first lies above. -/
theorem wf_above : ∀ {l : List Host.Cell} {b : Nat}, Memory.wf l = true → (∀ c ∈ l.head?, b < c.1) → ∀ c ∈ l, b < c.1
  | [], _, _, _, c, h => by simp at h
  | [d], b, _, hd, c, h => by
    have : c = d := by simpa using h
    exact this ▸ hd d (by simp)
  | d :: e :: t, b, hw, hd, c, h => by
    simp only [Memory.wf, Bool.and_eq_true, decide_eq_true_eq] at hw
    rcases List.mem_cons.1 h with rfl | h
    · exact hd c (by simp)
    · have hb : b < d.1 := hd d (by simp)
      exact wf_above hw.2 (by intro x hx; simp at hx; subst hx; omega) c h

/-- A canonical list in front of which a smaller address is put. -/
theorem wf_cons_iff (c : Host.Cell) (l : List Host.Cell) :
    Memory.wf (c :: l) = true ↔ c.2 ≠ unlistedByte ∧ (∀ d ∈ l.head?, c.1 < d.1) ∧ Memory.wf l = true := by
  cases l with
  | nil => simp [Memory.wf]
  | cons d t => simp [Memory.wf, and_assoc]

theorem wf_tail {c : Host.Cell} {l : List Host.Cell} (h : Memory.wf (c :: l) = true) : Memory.wf l = true :=
  ((wf_cons_iff c l).1 h).2.2

/-- A canonical list without one of its bytes is canonical, and begins no lower. -/
theorem wf_cellErase : ∀ {l : List Host.Cell} (a : Nat), Memory.wf l = true →
    Memory.wf (cellErase l a) = true ∧ ∀ b, (∀ d ∈ l.head?, b < d.1) → ∀ d ∈ (cellErase l a).head?, b < d.1
  | [], _, h => ⟨h, by simp [cellErase]⟩
  | c :: t, a, h => by
    obtain ⟨hne, hlt, hw⟩ := (wf_cons_iff c t).1 h
    obtain ⟨iw, ih⟩ := wf_cellErase (l := t) a hw
    by_cases hc : c.1 = a
    · have e : cellErase (c :: t) a = cellErase t a := by simp [cellErase, hc]
      rw [e]
      refine ⟨iw, fun b hb => ih b (fun d hd => ?_)⟩
      have := hb c (by simp)
      have := hlt d hd
      omega
    · have e : cellErase (c :: t) a = c :: cellErase t a := by simp [cellErase, hc]
      rw [e]
      refine ⟨(wf_cons_iff _ _).2 ⟨hne, ih c.1 hlt, iw⟩, ?_⟩
      intro b hb d hd
      exact hb d (by simpa using hd)

/-- A byte put at its place. -/
theorem wf_cellInsert : ∀ {l : List Host.Cell} (a : Nat) (v : Byte), Memory.wf l = true → v ≠ unlistedByte → (∀ c ∈ l, c.1 ≠ a) →
    Memory.wf (cellInsert l a v) = true ∧ ∀ b, b < a → (∀ d ∈ l.head?, b < d.1) → ∀ d ∈ (cellInsert l a v).head?, b < d.1
  | [], a, v, _, hv, _ => by
    refine ⟨by simpa [cellInsert, Memory.wf] using hv, ?_⟩
    intro b hb _ d hd
    simp [cellInsert] at hd
    subst hd; exact hb
  | c :: t, a, v, h, hv, ha => by
    obtain ⟨hne, hlt, hw⟩ := (wf_cons_iff c t).1 h
    simp only [cellInsert]
    split
    · rename_i hac
      refine ⟨(wf_cons_iff _ _).2 ⟨hv, by simpa using hac, h⟩, ?_⟩
      intro b hb _ d hd
      simp at hd; subst hd; exact hb
    · rename_i hac
      have := ha c (by simp)
      obtain ⟨iw, ih⟩ := wf_cellInsert (l := t) a v hw hv (fun d hd => ha d (by simp [hd]))
      refine ⟨(wf_cons_iff _ _).2 ⟨hne, ih c.1 (by omega) hlt, iw⟩, ?_⟩
      intro b hb hc d hd
      exact hc d (by simpa using hd)

theorem not_mem_cellErase {l : List Host.Cell} {a : Nat} : ∀ c ∈ cellErase l a, c.1 ≠ a := by
  intro c hc
  simpa using (List.mem_filter.1 hc).2

/-- A write keeps the canonical form. -/
@[simp] theorem cellWrite_wf {l : List Host.Cell} {a : Nat} {v : Byte} (h : Memory.wf l = true) :
    Memory.wf (cellWrite l a v) = true := by
  unfold cellWrite
  split
  · exact (wf_cellErase a h).1
  · exact (wf_cellInsert a v (wf_cellErase a h).1 (by assumption) not_mem_cellErase).1

@[simp] theorem cellWrites_wf {l : List Host.Cell} {a : Nat} {vs : List Byte} (h : Memory.wf l = true) :
    Memory.wf (cellWrites l a vs) = true := by
  induction vs generalizing l a with
  | nil => exact h
  | cons v vs ih => exact ih (cellWrite_wf h)

theorem cellRead_cellErase (l : List Host.Cell) (a b : Nat) :
    cellRead (cellErase l a) b = if b = a then unlistedByte else cellRead l b := by
  induction l with
  | nil => simp [cellErase, cellRead]
  | cons c t ih =>
    by_cases hc : c.1 = a
    · have e : cellErase (c :: t) a = cellErase t a := by simp [cellErase, hc]
      rw [e, ih]
      by_cases hb : b = a
      · rw [if_pos hb, if_pos hb]
      · rw [if_neg hb, if_neg hb, cellRead, if_neg (by omega)]
    · have e : cellErase (c :: t) a = c :: cellErase t a := by simp [cellErase, hc]
      rw [e, cellRead, cellRead, ih]
      by_cases hb : b = a
      · rw [if_neg (by omega), if_pos hb, if_pos hb]
      · rw [if_neg hb, if_neg hb]

theorem cellRead_cellInsert (l : List Host.Cell) (a b : Nat) (v : Byte) (ha : ∀ c ∈ l, c.1 ≠ a) :
    cellRead (cellInsert l a v) b = if b = a then v else cellRead l b := by
  induction l with
  | nil => simp [cellInsert, cellRead]
  | cons c t ih =>
    simp only [cellInsert]
    split
    · rfl
    · have := ha c (by simp)
      rw [cellRead, cellRead, ih (fun d hd => ha d (by simp [hd]))]
      by_cases hb : b = a
      · rw [if_neg (by omega), if_pos hb, if_pos hb]
      · rw [if_neg hb, if_neg hb]

/-- A read after a write: the value at its own address, what was there at every other. -/
theorem cellRead_cellWrite (l : List Host.Cell) (a b : Nat) (v : Byte) :
    cellRead (cellWrite l a v) b = if b = a then v else cellRead l b := by
  unfold cellWrite
  split
  · rename_i h; rw [cellRead_cellErase, h]
  · rw [cellRead_cellInsert _ _ _ _ not_mem_cellErase, cellRead_cellErase]
    split <;> rfl

/-- A read after bytes at rising addresses are written. -/
theorem cellRead_cellWrites (l : List Host.Cell) (a b : Nat) (vs : List Byte) :
    cellRead (cellWrites l a vs) b = if a ≤ b ∧ b < a + vs.length then vs.getD (b - a) 0 else cellRead l b := by
  induction vs generalizing l a with
  | nil => simp only [cellWrites, List.length_nil]; rw [if_neg (by omega)]
  | cons v vs ih =>
    simp only [cellWrites]
    rw [ih, cellRead_cellWrite]
    simp only [List.length_cons]
    by_cases hb : b = a
    · subst hb; rw [if_neg (by omega), if_pos rfl, if_pos (by omega)]; simp
    · by_cases h1 : a + 1 ≤ b ∧ b < a + 1 + vs.length
      · rw [if_pos h1, if_pos (by omega)]
        have : b - a = (b - (a + 1)) + 1 := by omega
        rw [this, List.getD_cons_succ]
      · rw [if_neg h1, if_neg hb, if_neg (by omega)]

end Sys2Proof.Machine
end

