-- ==== Sys2Proof/Laws/PerInstr.lean ====
section
/-! SUPPORT. The per-instruction family `Tables`: the encoding tables read both ways name one instruction. -/

namespace Sys2Proof.Laws.Tables

open Sys2Proof.Machine

/-- The tables of the X, B and BL forms, read from an instruction to its fields and back, give the instruction. -/
def Statement (i : Instr) : Prop :=
  (∀ family func x, Instr.xParts i = some (family, func, x) → family < 64 ∧ func < 256 ∧ xInstr family func x = some i)
    ∧ (∀ w, Instr.bWord i = some w → ∃ major a b c, major < 0x3E ∧ w = wordB major a b c ∧ bInstr major a b c = some i)
    ∧ (∀ major a b lit, Instr.blParts i = some (major, a, b, lit) → major < 64 ∧ blInstr major a b lit = some i)

/-- An instruction of the X form. -/
theorem of_x {i : Instr} {family func : Nat} {x : XF} (h : Instr.xParts i = some (family, func, x)) (hb : Instr.bWord i = none)
    (hl : Instr.blParts i = none) (h1 : family < 64) (h2 : func < 256) (h3 : xInstr family func x = some i) : Statement i := by
  refine ⟨?_, by simp [hb], by simp [hl]⟩
  intro f g y e
  rw [h] at e
  cases e
  exact ⟨h1, h2, h3⟩

/-- An instruction of the B form. -/
theorem of_b {i : Instr} {m : Nat} {a b c : Byte} (hx : Instr.xParts i = none) (h : Instr.bWord i = some (wordB m a b c))
    (hl : Instr.blParts i = none) (h1 : m < 0x3E) (h2 : bInstr m a b c = some i) : Statement i := by
  refine ⟨by simp [hx], ?_, by simp [hl]⟩
  intro w e
  rw [h] at e
  cases e
  exact ⟨m, a, b, c, h1, rfl, h2⟩

/-- An instruction of the BL form. -/
theorem of_bl {i : Instr} {m : Nat} {a b : Byte} {l : Dword} (hx : Instr.xParts i = none) (hb : Instr.bWord i = none)
    (h : Instr.blParts i = some (m, a, b, l)) (h1 : m < 64) (h2 : blInstr m a b l = some i) : Statement i := by
  refine ⟨by simp [hx], by simp [hb], ?_⟩
  intro m' a' b' l' e
  rw [h] at e
  cases e
  exact ⟨h1, h2⟩

/-- PFX, and what has no words. -/
theorem of_none {i : Instr} (hx : Instr.xParts i = none) (hb : Instr.bWord i = none) (hl : Instr.blParts i = none) : Statement i :=
  ⟨by simp [hx], by simp [hb], by simp [hl]⟩

/-- The three bytes of a branch offset, joined again. -/
theorem join3 (o : BitVec 24) : o.extractLsb' 16 8 ++ o.extractLsb' 8 8 ++ o.extractLsb' 0 8 = o := by
  apply BitVec.eq_of_getLsbD_eq
  intro i hi
  simp only [BitVec.getLsbD_append, BitVec.getLsbD_extractLsb']
  by_cases h1 : i < 8
  · simp [h1]
  · by_cases h2 : i - 8 < 8
    · simp [h1, h2]; congr 1; omega
    · simp [h1, h2, show i - 8 - 8 < 8 by omega]; congr 1; omega

theorem high4 (a b : BitVec 4) : (a ++ b).extractLsb' 4 4 = a :=
  (extract_append_high _ _ (by decide)).trans (extract_self _)

theorem low4 (a b : BitVec 4) : (a ++ b).extractLsb' 0 4 = b :=
  (extract_append_low _ _ (by decide)).trans (extract_self _)

theorem low5 (a : BitVec 3) (b : BitVec 5) : (a ++ b).extractLsb' 0 5 = b :=
  (extract_append_low _ _ (by decide)).trans (extract_self _)

theorem join2 (o : BitVec 16) : o.extractLsb' 8 8 ++ o.extractLsb' 0 8 = o := by
  apply BitVec.eq_of_getLsbD_eq
  intro i hi
  simp only [BitVec.getLsbD_append, BitVec.getLsbD_extractLsb']
  by_cases h1 : i < 8
  · simp [h1]
  · simp [h1, show i - 8 < 8 by omega]; congr 1; omega

theorem low3 (a : BitVec 5) (b : BitVec 3) : (a ++ b).extractLsb' 0 3 = b :=
  (extract_append_low _ _ (by decide)).trans (extract_self _)

theorem pfx (a0 : BitVec 4) (a1 : BitVec 2) (a2 : BitVec 3) (a3 : Byte) (a4 : Word) : Statement (.pfx a0 a1 a2 a3 a4) := of_none rfl rfl rfl
theorem iadd (a0 : BitVec 8) (a1 : BitVec 8) (a2 : BitVec 8) : Statement (.iadd a0 a1 a2) := of_b rfl rfl rfl (by decide) rfl
theorem isub (a0 : BitVec 8) (a1 : BitVec 8) (a2 : BitVec 8) : Statement (.isub a0 a1 a2) := of_b rfl rfl rfl (by decide) rfl
theorem imul (a0 : BitVec 8) (a1 : BitVec 8) (a2 : BitVec 8) : Statement (.imul a0 a1 a2) := of_b rfl rfl rfl (by decide) rfl
theorem imad (a0 : BitVec 8) (a1 : BitVec 8) (a2 : BitVec 8) : Statement (.imad a0 a1 a2) := of_b rfl rfl rfl (by decide) rfl
theorem and (a0 : BitVec 8) (a1 : BitVec 8) (a2 : BitVec 8) : Statement (.and a0 a1 a2) := of_b rfl rfl rfl (by decide) rfl
theorem or (a0 : BitVec 8) (a1 : BitVec 8) (a2 : BitVec 8) : Statement (.or a0 a1 a2) := of_b rfl rfl rfl (by decide) rfl
theorem xor (a0 : BitVec 8) (a1 : BitVec 8) (a2 : BitVec 8) : Statement (.xor a0 a1 a2) := of_b rfl rfl rfl (by decide) rfl
theorem shl (a0 : BitVec 8) (a1 : BitVec 8) (a2 : BitVec 8) : Statement (.shl a0 a1 a2) := of_b rfl rfl rfl (by decide) rfl
theorem shr (a0 : BitVec 8) (a1 : BitVec 8) (a2 : BitVec 8) : Statement (.shr a0 a1 a2) := of_b rfl rfl rfl (by decide) rfl
theorem sar (a0 : BitVec 8) (a1 : BitVec 8) (a2 : BitVec 8) : Statement (.sar a0 a1 a2) := of_b rfl rfl rfl (by decide) rfl
theorem imin (a0 : BitVec 8) (a1 : BitVec 8) (a2 : BitVec 8) : Statement (.imin a0 a1 a2) := of_b rfl rfl rfl (by decide) rfl
theorem imax (a0 : BitVec 8) (a1 : BitVec 8) (a2 : BitVec 8) : Statement (.imax a0 a1 a2) := of_b rfl rfl rfl (by decide) rfl
theorem iaddi (a0 : BitVec 8) (a1 : BitVec 8) (a2 : BitVec 8) : Statement (.iaddi a0 a1 a2) := of_b rfl rfl rfl (by decide) rfl
theorem shli (a0 : BitVec 8) (a1 : BitVec 8) (a2 : BitVec 5) : Statement (.shli a0 a1 a2) := of_b rfl rfl rfl (by decide) (by simp only [bInstr, low5])
theorem shri (a0 : BitVec 8) (a1 : BitVec 8) (a2 : BitVec 5) : Statement (.shri a0 a1 a2) := of_b rfl rfl rfl (by decide) (by simp only [bInstr, low5])
theorem sari (a0 : BitVec 8) (a1 : BitVec 8) (a2 : BitVec 5) : Statement (.sari a0 a1 a2) := of_b rfl rfl rfl (by decide) (by simp only [bInstr, low5])
theorem andi (a0 : BitVec 8) (a1 : BitVec 8) (a2 : BitVec 8) : Statement (.andi a0 a1 a2) := of_b rfl rfl rfl (by decide) rfl
theorem movi (a0 : BitVec 8) (a1 : BitVec 16) : Statement (.movi a0 a1) := of_b rfl rfl rfl (by decide) (by simp only [bInstr, join2])
theorem mov (a0 : BitVec 8) (a1 : BitVec 8) : Statement (.mov a0 a1) := of_b rfl rfl rfl (by decide) rfl
theorem fadd (a0 : BitVec 8) (a1 : BitVec 8) (a2 : BitVec 8) : Statement (.fadd a0 a1 a2) := of_b rfl rfl rfl (by decide) rfl
theorem fsub (a0 : BitVec 8) (a1 : BitVec 8) (a2 : BitVec 8) : Statement (.fsub a0 a1 a2) := of_b rfl rfl rfl (by decide) rfl
theorem fmul (a0 : BitVec 8) (a1 : BitVec 8) (a2 : BitVec 8) : Statement (.fmul a0 a1 a2) := of_b rfl rfl rfl (by decide) rfl
theorem ffma (a0 : BitVec 8) (a1 : BitVec 8) (a2 : BitVec 8) : Statement (.ffma a0 a1 a2) := of_b rfl rfl rfl (by decide) rfl
theorem fmin (a0 : BitVec 8) (a1 : BitVec 8) (a2 : BitVec 8) : Statement (.fmin a0 a1 a2) := of_b rfl rfl rfl (by decide) rfl
theorem fmax (a0 : BitVec 8) (a1 : BitVec 8) (a2 : BitVec 8) : Statement (.fmax a0 a1 a2) := of_b rfl rfl rfl (by decide) rfl
theorem hadd2 (a0 : BitVec 8) (a1 : BitVec 8) (a2 : BitVec 8) : Statement (.hadd2 a0 a1 a2) := of_b rfl rfl rfl (by decide) rfl
theorem hmul2 (a0 : BitVec 8) (a1 : BitVec 8) (a2 : BitVec 8) : Statement (.hmul2 a0 a1 a2) := of_b rfl rfl rfl (by decide) rfl
theorem hfma2 (a0 : BitVec 8) (a1 : BitVec 8) (a2 : BitVec 8) : Statement (.hfma2 a0 a1 a2) := of_b rfl rfl rfl (by decide) rfl
theorem bfma2 (a0 : BitVec 8) (a1 : BitVec 8) (a2 : BitVec 8) : Statement (.bfma2 a0 a1 a2) := of_b rfl rfl rfl (by decide) rfl
theorem idp4 (a0 : BitVec 8) (a1 : BitVec 8) (a2 : BitVec 8) : Statement (.idp4 a0 a1 a2) := of_b rfl rfl rfl (by decide) rfl
theorem idp8 (a0 : BitVec 8) (a1 : BitVec 8) (a2 : BitVec 8) : Statement (.idp8 a0 a1 a2) := of_b rfl rfl rfl (by decide) rfl
theorem sfu (a0 : BitVec 8) (a1 : BitVec 8) (a2 : BitVec 3) : Statement (.sfu a0 a1 a2) := of_b rfl rfl rfl (by decide) (by simp only [bInstr, low3])
theorem ld32 (a0 : BitVec 8) (a1 : BitVec 8) (a2 : BitVec 8) : Statement (.ld32 a0 a1 a2) := of_b rfl rfl rfl (by decide) rfl
theorem st32 (a0 : BitVec 8) (a1 : BitVec 8) (a2 : BitVec 8) : Statement (.st32 a0 a1 a2) := of_b rfl rfl rfl (by decide) rfl
theorem lds32 (a0 : BitVec 8) (a1 : BitVec 8) (a2 : BitVec 8) : Statement (.lds32 a0 a1 a2) := of_b rfl rfl rfl (by decide) rfl
theorem sts32 (a0 : BitVec 8) (a1 : BitVec 8) (a2 : BitVec 8) : Statement (.sts32 a0 a1 a2) := of_b rfl rfl rfl (by decide) rfl
theorem bra (a0 : BitVec 24) : Statement (.bra a0) := of_b rfl rfl rfl (by decide) (by simp only [bInstr, join3])
theorem call (a0 : BitVec 24) : Statement (.call a0) := of_b rfl rfl rfl (by decide) (by simp only [bInstr, join3])
theorem ret : Statement (.ret) := of_b rfl rfl rfl (by decide) rfl
theorem exit : Statement (.exit) := of_b rfl rfl rfl (by decide) rfl
theorem xfer (a0 : BitVec 8) (a1 : BitVec 8) (a2 : BitVec 8) : Statement (.xfer a0 a1 a2) := of_b rfl rfl rfl (by decide) rfl
theorem wait (a0 : BitVec 4) (a1 : BitVec 4) (a2 : BitVec 4) (a3 : BitVec 4) (a4 : BitVec 8) : Statement (.wait a0 a1 a2 a3 a4) := of_b rfl rfl rfl (by decide) (by simp only [bInstr, high4, low4])
theorem join (a0 : BitVec 4) (a1 : BitVec 8) : Statement (.join a0 a1) := of_b rfl rfl rfl (by decide) (by simp only [bInstr, low4])
theorem split (a0 : BitVec 4) : Statement (.split a0) := of_b rfl rfl rfl (by decide) (by simp only [bInstr, low4])
theorem tfetch (a0 : BitVec 8) : Statement (.tfetch a0) := of_b rfl rfl rfl (by decide) rfl
theorem iaddBl (a0 : Byte) (a1 : Byte) (a2 : Dword) : Statement (.iaddBl a0 a1 a2) := of_bl rfl rfl rfl (by decide) rfl
theorem isubBl (a0 : Byte) (a1 : Byte) (a2 : Dword) : Statement (.isubBl a0 a1 a2) := of_bl rfl rfl rfl (by decide) rfl
theorem imulBl (a0 : Byte) (a1 : Byte) (a2 : Dword) : Statement (.imulBl a0 a1 a2) := of_bl rfl rfl rfl (by decide) rfl
theorem imadBl (a0 : Byte) (a1 : Byte) (a2 : Dword) : Statement (.imadBl a0 a1 a2) := of_bl rfl rfl rfl (by decide) rfl
theorem andBl (a0 : Byte) (a1 : Byte) (a2 : Dword) : Statement (.andBl a0 a1 a2) := of_bl rfl rfl rfl (by decide) rfl
theorem orBl (a0 : Byte) (a1 : Byte) (a2 : Dword) : Statement (.orBl a0 a1 a2) := of_bl rfl rfl rfl (by decide) rfl
theorem xorBl (a0 : Byte) (a1 : Byte) (a2 : Dword) : Statement (.xorBl a0 a1 a2) := of_bl rfl rfl rfl (by decide) rfl
theorem shlBl (a0 : Byte) (a1 : Byte) (a2 : Dword) : Statement (.shlBl a0 a1 a2) := of_bl rfl rfl rfl (by decide) rfl
theorem shrBl (a0 : Byte) (a1 : Byte) (a2 : Dword) : Statement (.shrBl a0 a1 a2) := of_bl rfl rfl rfl (by decide) rfl
theorem sarBl (a0 : Byte) (a1 : Byte) (a2 : Dword) : Statement (.sarBl a0 a1 a2) := of_bl rfl rfl rfl (by decide) rfl
theorem iminBl (a0 : Byte) (a1 : Byte) (a2 : Dword) : Statement (.iminBl a0 a1 a2) := of_bl rfl rfl rfl (by decide) rfl
theorem imaxBl (a0 : Byte) (a1 : Byte) (a2 : Dword) : Statement (.imaxBl a0 a1 a2) := of_bl rfl rfl rfl (by decide) rfl
theorem movBl (a0 : Byte) (a1 : Dword) : Statement (.movBl a0 a1) := of_bl rfl rfl rfl (by decide) rfl
theorem faddBl (a0 : Byte) (a1 : Byte) (a2 : Dword) : Statement (.faddBl a0 a1 a2) := of_bl rfl rfl rfl (by decide) rfl
theorem fsubBl (a0 : Byte) (a1 : Byte) (a2 : Dword) : Statement (.fsubBl a0 a1 a2) := of_bl rfl rfl rfl (by decide) rfl
theorem fmulBl (a0 : Byte) (a1 : Byte) (a2 : Dword) : Statement (.fmulBl a0 a1 a2) := of_bl rfl rfl rfl (by decide) rfl
theorem ffmaBl (a0 : Byte) (a1 : Byte) (a2 : Dword) : Statement (.ffmaBl a0 a1 a2) := of_bl rfl rfl rfl (by decide) rfl
theorem fminBl (a0 : Byte) (a1 : Byte) (a2 : Dword) : Statement (.fminBl a0 a1 a2) := of_bl rfl rfl rfl (by decide) rfl
theorem fmaxBl (a0 : Byte) (a1 : Byte) (a2 : Dword) : Statement (.fmaxBl a0 a1 a2) := of_bl rfl rfl rfl (by decide) rfl
theorem ld32Bl (a0 : Byte) (a1 : Byte) (a2 : Dword) : Statement (.ld32Bl a0 a1 a2) := of_bl rfl rfl rfl (by decide) rfl
theorem st32Bl (a0 : Byte) (a1 : Byte) (a2 : Dword) : Statement (.st32Bl a0 a1 a2) := of_bl rfl rfl rfl (by decide) rfl
theorem lds32Bl (a0 : Byte) (a1 : Byte) (a2 : Dword) : Statement (.lds32Bl a0 a1 a2) := of_bl rfl rfl rfl (by decide) rfl
theorem sts32Bl (a0 : Byte) (a1 : Byte) (a2 : Dword) : Statement (.sts32Bl a0 a1 a2) := of_bl rfl rfl rfl (by decide) rfl
theorem braBl (a0 : Dword) : Statement (.braBl a0) := of_bl rfl rfl rfl (by decide) rfl
theorem callBl (a0 : Dword) : Statement (.callBl a0) := of_bl rfl rfl rfl (by decide) rfl
theorem iaddX (a0 : XF) : Statement (.iaddX a0) := of_x rfl rfl rfl (by decide) (by decide) rfl
theorem isubX (a0 : XF) : Statement (.isubX a0) := of_x rfl rfl rfl (by decide) (by decide) rfl
theorem iaddc (a0 : XF) : Statement (.iaddc a0) := of_x rfl rfl rfl (by decide) (by decide) rfl
theorem isubb (a0 : XF) : Statement (.isubb a0) := of_x rfl rfl rfl (by decide) (by decide) rfl
theorem imulX (a0 : XF) : Statement (.imulX a0) := of_x rfl rfl rfl (by decide) (by decide) rfl
theorem imulhS (a0 : XF) : Statement (.imulhS a0) := of_x rfl rfl rfl (by decide) (by decide) rfl
theorem imulhU (a0 : XF) : Statement (.imulhU a0) := of_x rfl rfl rfl (by decide) (by decide) rfl
theorem imadX (a0 : XF) : Statement (.imadX a0) := of_x rfl rfl rfl (by decide) (by decide) rfl
theorem iminX (a0 : XF) : Statement (.iminX a0) := of_x rfl rfl rfl (by decide) (by decide) rfl
theorem imaxX (a0 : XF) : Statement (.imaxX a0) := of_x rfl rfl rfl (by decide) (by decide) rfl
theorem iabs (a0 : XF) : Statement (.iabs a0) := of_x rfl rfl rfl (by decide) (by decide) rfl
theorem ineg (a0 : XF) : Statement (.ineg a0) := of_x rfl rfl rfl (by decide) (by decide) rfl
theorem andX (a0 : XF) : Statement (.andX a0) := of_x rfl rfl rfl (by decide) (by decide) rfl
theorem orX (a0 : XF) : Statement (.orX a0) := of_x rfl rfl rfl (by decide) (by decide) rfl
theorem xorX (a0 : XF) : Statement (.xorX a0) := of_x rfl rfl rfl (by decide) (by decide) rfl
theorem andn (a0 : XF) : Statement (.andn a0) := of_x rfl rfl rfl (by decide) (by decide) rfl
theorem not (a0 : XF) : Statement (.not a0) := of_x rfl rfl rfl (by decide) (by decide) rfl
theorem shlX (a0 : XF) : Statement (.shlX a0) := of_x rfl rfl rfl (by decide) (by decide) rfl
theorem shrX (a0 : XF) : Statement (.shrX a0) := of_x rfl rfl rfl (by decide) (by decide) rfl
theorem sarX (a0 : XF) : Statement (.sarX a0) := of_x rfl rfl rfl (by decide) (by decide) rfl
theorem rotl (a0 : XF) : Statement (.rotl a0) := of_x rfl rfl rfl (by decide) (by decide) rfl
theorem rotr (a0 : XF) : Statement (.rotr a0) := of_x rfl rfl rfl (by decide) (by decide) rfl
theorem popc (a0 : XF) : Statement (.popc a0) := of_x rfl rfl rfl (by decide) (by decide) rfl
theorem clz (a0 : XF) : Statement (.clz a0) := of_x rfl rfl rfl (by decide) (by decide) rfl
theorem ctz (a0 : XF) : Statement (.ctz a0) := of_x rfl rfl rfl (by decide) (by decide) rfl
theorem brev (a0 : XF) : Statement (.brev a0) := of_x rfl rfl rfl (by decide) (by decide) rfl
theorem bfx (a0 : XF) : Statement (.bfx a0) := of_x rfl rfl rfl (by decide) (by decide) rfl
theorem bfi (a0 : XF) : Statement (.bfi a0) := of_x rfl rfl rfl (by decide) (by decide) rfl
theorem icmp (a0 : XF) : Statement (.icmp a0) := of_x rfl rfl rfl (by decide) (by decide) rfl
theorem isel (a0 : XF) : Statement (.isel a0) := of_x rfl rfl rfl (by decide) (by decide) rfl
theorem lea (a0 : XF) : Statement (.lea a0) := of_x rfl rfl rfl (by decide) (by decide) rfl
theorem movX (a0 : XF) : Statement (.movX a0) := of_x rfl rfl rfl (by decide) (by decide) rfl
theorem ldi (a0 : XF) : Statement (.ldi a0) := of_x rfl rfl rfl (by decide) (by decide) rfl
theorem faddX (a0 : XF) : Statement (.faddX a0) := of_x rfl rfl rfl (by decide) (by decide) rfl
theorem fsubX (a0 : XF) : Statement (.fsubX a0) := of_x rfl rfl rfl (by decide) (by decide) rfl
theorem fmulX (a0 : XF) : Statement (.fmulX a0) := of_x rfl rfl rfl (by decide) (by decide) rfl
theorem ffmaX (a0 : XF) : Statement (.ffmaX a0) := of_x rfl rfl rfl (by decide) (by decide) rfl
theorem fminX (a0 : XF) : Statement (.fminX a0) := of_x rfl rfl rfl (by decide) (by decide) rfl
theorem fmaxX (a0 : XF) : Statement (.fmaxX a0) := of_x rfl rfl rfl (by decide) (by decide) rfl
theorem fabs (a0 : XF) : Statement (.fabs a0) := of_x rfl rfl rfl (by decide) (by decide) rfl
theorem fneg (a0 : XF) : Statement (.fneg a0) := of_x rfl rfl rfl (by decide) (by decide) rfl
theorem fcmp (a0 : XF) : Statement (.fcmp a0) := of_x rfl rfl rfl (by decide) (by decide) rfl
theorem fsel (a0 : XF) : Statement (.fsel a0) := of_x rfl rfl rfl (by decide) (by decide) rfl
theorem fclass (a0 : XF) : Statement (.fclass a0) := of_x rfl rfl rfl (by decide) (by decide) rfl
theorem fdiv (a0 : XF) : Statement (.fdiv a0) := of_x rfl rfl rfl (by decide) (by decide) rfl
theorem fsqrt (a0 : XF) : Statement (.fsqrt a0) := of_x rfl rfl rfl (by decide) (by decide) rfl
theorem frcp (a0 : XF) : Statement (.frcp a0) := of_x rfl rfl rfl (by decide) (by decide) rfl
theorem frsq (a0 : XF) : Statement (.frsq a0) := of_x rfl rfl rfl (by decide) (by decide) rfl
theorem fexp2 (a0 : XF) : Statement (.fexp2 a0) := of_x rfl rfl rfl (by decide) (by decide) rfl
theorem flog2 (a0 : XF) : Statement (.flog2 a0) := of_x rfl rfl rfl (by decide) (by decide) rfl
theorem fsinpi (a0 : XF) : Statement (.fsinpi a0) := of_x rfl rfl rfl (by decide) (by decide) rfl
theorem fcospi (a0 : XF) : Statement (.fcospi a0) := of_x rfl rfl rfl (by decide) (by decide) rfl
theorem ftanh (a0 : XF) : Statement (.ftanh a0) := of_x rfl rfl rfl (by decide) (by decide) rfl
theorem fscale (a0 : XF) : Statement (.fscale a0) := of_x rfl rfl rfl (by decide) (by decide) rfl
theorem cvt (a0 : XF) : Statement (.cvt a0) := of_x rfl rfl rfl (by decide) (by decide) rfl
theorem cvtn (a0 : XF) : Statement (.cvtn a0) := of_x rfl rfl rfl (by decide) (by decide) rfl
theorem packn (a0 : XF) : Statement (.packn a0) := of_x rfl rfl rfl (by decide) (by decide) rfl
theorem unpackn (a0 : XF) : Statement (.unpackn a0) := of_x rfl rfl rfl (by decide) (by decide) rfl
theorem scaleb (a0 : XF) : Statement (.scaleb a0) := of_x rfl rfl rfl (by decide) (by decide) rfl
theorem idp2 (a0 : XF) : Statement (.idp2 a0) := of_x rfl rfl rfl (by decide) (by decide) rfl
theorem idp4X (a0 : XF) : Statement (.idp4X a0) := of_x rfl rfl rfl (by decide) (by decide) rfl
theorem idp8X (a0 : XF) : Statement (.idp8X a0) := of_x rfl rfl rfl (by decide) (by decide) rfl
theorem fdp2 (a0 : XF) : Statement (.fdp2 a0) := of_x rfl rfl rfl (by decide) (by decide) rfl
theorem perm (a0 : XF) : Statement (.perm a0) := of_x rfl rfl rfl (by decide) (by decide) rfl
theorem redux (a0 : XF) : Statement (.redux a0) := of_x rfl rfl rfl (by decide) (by decide) rfl
theorem scan (a0 : XF) : Statement (.scan a0) := of_x rfl rfl rfl (by decide) (by decide) rfl
theorem vote (a0 : XF) : Statement (.vote a0) := of_x rfl rfl rfl (by decide) (by decide) rfl
theorem matchLanes (a0 : XF) : Statement (.matchLanes a0) := of_x rfl rfl rfl (by decide) (by decide) rfl
theorem kand (a0 : XF) : Statement (.kand a0) := of_x rfl rfl rfl (by decide) (by decide) rfl
theorem kor (a0 : XF) : Statement (.kor a0) := of_x rfl rfl rfl (by decide) (by decide) rfl
theorem kxor (a0 : XF) : Statement (.kxor a0) := of_x rfl rfl rfl (by decide) (by decide) rfl
theorem knot (a0 : XF) : Statement (.knot a0) := of_x rfl rfl rfl (by decide) (by decide) rfl
theorem kmov (a0 : XF) : Statement (.kmov a0) := of_x rfl rfl rfl (by decide) (by decide) rfl
theorem kpop (a0 : XF) : Statement (.kpop a0) := of_x rfl rfl rfl (by decide) (by decide) rfl
theorem kffs (a0 : XF) : Statement (.kffs a0) := of_x rfl rfl rfl (by decide) (by decide) rfl
theorem kset (a0 : XF) : Statement (.kset a0) := of_x rfl rfl rfl (by decide) (by decide) rfl
theorem braX (a0 : XF) : Statement (.braX a0) := of_x rfl rfl rfl (by decide) (by decide) rfl
theorem brd (a0 : XF) : Statement (.brd a0) := of_x rfl rfl rfl (by decide) (by decide) rfl
theorem jmpi (a0 : XF) : Statement (.jmpi a0) := of_x rfl rfl rfl (by decide) (by decide) rfl
theorem callX (a0 : XF) : Statement (.callX a0) := of_x rfl rfl rfl (by decide) (by decide) rfl
theorem calli (a0 : XF) : Statement (.calli a0) := of_x rfl rfl rfl (by decide) (by decide) rfl
theorem retX (a0 : XF) : Statement (.retX a0) := of_x rfl rfl rfl (by decide) (by decide) rfl
theorem splitX (a0 : XF) : Statement (.splitX a0) := of_x rfl rfl rfl (by decide) (by decide) rfl
theorem joinX (a0 : XF) : Statement (.joinX a0) := of_x rfl rfl rfl (by decide) (by decide) rfl
theorem exitX (a0 : XF) : Statement (.exitX a0) := of_x rfl rfl rfl (by decide) (by decide) rfl
theorem trap (a0 : XF) : Statement (.trap a0) := of_x rfl rfl rfl (by decide) (by decide) rfl
theorem brk (a0 : XF) : Statement (.brk a0) := of_x rfl rfl rfl (by decide) (by decide) rfl
theorem nop (a0 : XF) : Statement (.nop a0) := of_x rfl rfl rfl (by decide) (by decide) rfl
theorem xferX (a0 : XF) : Statement (.xferX a0) := of_x rfl rfl rfl (by decide) (by decide) rfl
theorem xfera (a0 : XF) : Statement (.xfera a0) := of_x rfl rfl rfl (by decide) (by decide) rfl
theorem belay (a0 : XF) : Statement (.belay a0) := of_x rfl rfl rfl (by decide) (by decide) rfl
theorem park (a0 : XF) : Statement (.park a0) := of_x rfl rfl rfl (by decide) (by decide) rfl
theorem waitX (a0 : XF) : Statement (.waitX a0) := of_x rfl rfl rfl (by decide) (by decide) rfl
theorem ld (a0 : XF) : Statement (.ld a0) := of_x rfl rfl rfl (by decide) (by decide) rfl
theorem st (a0 : XF) : Statement (.st a0) := of_x rfl rfl rfl (by decide) (by decide) rfl
theorem lds (a0 : XF) : Statement (.lds a0) := of_x rfl rfl rfl (by decide) (by decide) rfl
theorem sts (a0 : XF) : Statement (.sts a0) := of_x rfl rfl rfl (by decide) (by decide) rfl
theorem stm (a0 : XF) : Statement (.stm a0) := of_x rfl rfl rfl (by decide) (by decide) rfl
theorem pref (a0 : XF) : Statement (.pref a0) := of_x rfl rfl rfl (by decide) (by decide) rfl
theorem spill (a0 : XF) : Statement (.spill a0) := of_x rfl rfl rfl (by decide) (by decide) rfl
theorem fill (a0 : XF) : Statement (.fill a0) := of_x rfl rfl rfl (by decide) (by decide) rfl
theorem atom (a0 : XF) : Statement (.atom a0) := of_x rfl rfl rfl (by decide) (by decide) rfl
theorem xadd (a0 : XF) : Statement (.xadd a0) := of_x rfl rfl rfl (by decide) (by decide) rfl
theorem xrd (a0 : XF) : Statement (.xrd a0) := of_x rfl rfl rfl (by decide) (by decide) rfl
theorem xclr (a0 : XF) : Statement (.xclr a0) := of_x rfl rfl rfl (by decide) (by decide) rfl
theorem bind (a0 : XF) : Statement (.bind a0) := of_x rfl rfl rfl (by decide) (by decide) rfl
theorem unbind (a0 : XF) : Statement (.unbind a0) := of_x rfl rfl rfl (by decide) (by decide) rfl
theorem acq (a0 : XF) : Statement (.acq a0) := of_x rfl rfl rfl (by decide) (by decide) rfl
theorem tryacq (a0 : XF) : Statement (.tryacq a0) := of_x rfl rfl rfl (by decide) (by decide) rfl
theorem rel (a0 : XF) : Statement (.rel a0) := of_x rfl rfl rfl (by decide) (by decide) rfl
theorem fence (a0 : XF) : Statement (.fence a0) := of_x rfl rfl rfl (by decide) (by decide) rfl
theorem barinit (a0 : XF) : Statement (.barinit a0) := of_x rfl rfl rfl (by decide) (by decide) rfl
theorem barrive (a0 : XF) : Statement (.barrive a0) := of_x rfl rfl rfl (by decide) (by decide) rfl
theorem bardrop (a0 : XF) : Statement (.bardrop a0) := of_x rfl rfl rfl (by decide) (by decide) rfl
theorem barwait (a0 : XF) : Statement (.barwait a0) := of_x rfl rfl rfl (by decide) (by decide) rfl
theorem syncset (a0 : XF) : Statement (.syncset a0) := of_x rfl rfl rfl (by decide) (by decide) rfl
theorem syncw (a0 : XF) : Statement (.syncw a0) := of_x rfl rfl rfl (by decide) (by decide) rfl
theorem bcopy (a0 : XF) : Statement (.bcopy a0) := of_x rfl rfl rfl (by decide) (by decide) rfl
theorem gather (a0 : XF) : Statement (.gather a0) := of_x rfl rfl rfl (by decide) (by decide) rfl
theorem scatter (a0 : XF) : Statement (.scatter a0) := of_x rfl rfl rfl (by decide) (by decide) rfl
theorem qfence (a0 : XF) : Statement (.qfence a0) := of_x rfl rfl rfl (by decide) (by decide) rfl
theorem mlease (a0 : XF) : Statement (.mlease a0) := of_x rfl rfl rfl (by decide) (by decide) rfl
theorem mrel (a0 : XF) : Statement (.mrel a0) := of_x rfl rfl rfl (by decide) (by decide) rfl
theorem mma (a0 : XF) : Statement (.mma a0) := of_x rfl rfl rfl (by decide) (by decide) rfl
theorem mzero (a0 : XF) : Statement (.mzero a0) := of_x rfl rfl rfl (by decide) (by decide) rfl
theorem mld (a0 : XF) : Statement (.mld a0) := of_x rfl rfl rfl (by decide) (by decide) rfl
theorem mst (a0 : XF) : Statement (.mst a0) := of_x rfl rfl rfl (by decide) (by decide) rfl
theorem mcol (a0 : XF) : Statement (.mcol a0) := of_x rfl rfl rfl (by decide) (by decide) rfl
theorem mput (a0 : XF) : Statement (.mput a0) := of_x rfl rfl rfl (by decide) (by decide) rfl
theorem mlink (a0 : XF) : Statement (.mlink a0) := of_x rfl rfl rfl (by decide) (by decide) rfl
theorem qinit (a0 : XF) : Statement (.qinit a0) := of_x rfl rfl rfl (by decide) (by decide) rfl
theorem qacc (a0 : XF) : Statement (.qacc a0) := of_x rfl rfl rfl (by decide) (by decide) rfl
theorem qapl (a0 : XF) : Statement (.qapl a0) := of_x rfl rfl rfl (by decide) (by decide) rfl
theorem qapr (a0 : XF) : Statement (.qapr a0) := of_x rfl rfl rfl (by decide) (by decide) rfl
theorem qfold (a0 : XF) : Statement (.qfold a0) := of_x rfl rfl rfl (by decide) (by decide) rfl
theorem qstat (a0 : XF) : Statement (.qstat a0) := of_x rfl rfl rfl (by decide) (by decide) rfl
theorem qclr (a0 : XF) : Statement (.qclr a0) := of_x rfl rfl rfl (by decide) (by decide) rfl
theorem hhgen (a0 : XF) : Statement (.hhgen a0) := of_x rfl rfl rfl (by decide) (by decide) rfl
theorem recruit (a0 : XF) : Statement (.recruit a0) := of_x rfl rfl rfl (by decide) (by decide) rfl
theorem ropeend (a0 : XF) : Statement (.ropeend a0) := of_x rfl rfl rfl (by decide) (by decide) rfl
theorem ropered (a0 : XF) : Statement (.ropered a0) := of_x rfl rfl rfl (by decide) (by decide) rfl
theorem rand (a0 : XF) : Statement (.rand a0) := of_x rfl rfl rfl (by decide) (by decide) rfl
theorem fmtset (a0 : XF) : Statement (.fmtset a0) := of_x rfl rfl rfl (by decide) (by decide) rfl
theorem fmtget (a0 : XF) : Statement (.fmtget a0) := of_x rfl rfl rfl (by decide) (by decide) rfl
theorem tfetchX (a0 : XF) : Statement (.tfetchX a0) := of_x rfl rfl rfl (by decide) (by decide) rfl
theorem launch (a0 : XF) : Statement (.launch a0) := of_x rfl rfl rfl (by decide) (by decide) rfl
theorem svc (a0 : XF) : Statement (.svc a0) := of_x rfl rfl rfl (by decide) (by decide) rfl
theorem ckpt (a0 : XF) : Statement (.ckpt a0) := of_x rfl rfl rfl (by decide) (by decide) rfl
theorem rdcnt (a0 : XF) : Statement (.rdcnt a0) := of_x rfl rfl rfl (by decide) (by decide) rfl
theorem illegalEncoding (a0 : Nat) (a1 : Nat) : Statement (.illegalEncoding a0 a1) := of_none rfl rfl rfl
theorem deviceReset : Statement (.deviceReset) := of_none rfl rfl rfl
theorem unitTrained (a0 : TrainedUnit) : Statement (.unitTrained a0) := of_none rfl rfl rfl
theorem registerWrite (a0 : Fn) (a1 : Nat) (a2 : Dword) : Statement (.registerWrite a0 a1 a2) := of_none rfl rfl rfl
theorem kick (a0 : Fn) (a1 : Dword) : Statement (.kick a0 a1) := of_none rfl rfl rfl
theorem vectorCoalescingWrite (a0 : Fn) (a1 : Nat) (a2 : Dword) : Statement (.vectorCoalescingWrite a0 a1 a2) := of_none rfl rfl rfl
theorem setqcb (a0 : Fn) (a1 : MbCtl) (a2 : Dword) : Statement (.setqcb a0 a1 a2) := of_none rfl rfl rfl
theorem setquota (a0 : Fn) (a1 : MbCtl) (a2 : Nat) (a3 : Quota) : Statement (.setquota a0 a1 a2 a3) := of_none rfl rfl rfl
theorem setasid (a0 : Fn) (a1 : MbCtl) (a2 : Nat) (a3 : Dword) (a4 : Option VdevKey) : Statement (.setasid a0 a1 a2 a3 a4) := of_none rfl rfl rfl
theorem inval (a0 : Fn) (a1 : MbCtl) (a2 : Nat) (a3 : Option (Dword × Nat)) : Statement (.inval a0 a1 a2 a3) := of_none rfl rfl rfl
theorem invalComplete (a0 : Fn) : Statement (.invalComplete a0) := of_none rfl rfl rfl
theorem aperture (a0 : Fn) (a1 : MbCtl) (a2 : Dword) : Statement (.aperture a0 a1 a2) := of_none rfl rfl rfl
theorem cxlmap (a0 : Fn) (a1 : MbCtl) (a2 : Nat) (a3 : Dword) (a4 : Nat) : Statement (.cxlmap a0 a1 a2 a3 a4) := of_none rfl rfl rfl
theorem peerwin (a0 : Fn) (a1 : MbCtl) (a2 : Dword) (a3 : Nat) : Statement (.peerwin a0 a1 a2 a3) := of_none rfl rfl rfl
theorem fwload (a0 : Fn) (a1 : MbCtl) (a2 : Dword) : Statement (.fwload a0 a1 a2) := of_none rfl rfl rfl
theorem drain (a0 : Fn) (a1 : MbCtl) (a2 : Nat) : Statement (.drain a0 a1 a2) := of_none rfl rfl rfl
theorem drainEnd (a0 : Nat) : Statement (.drainEnd a0) := of_none rfl rfl rfl
theorem retrain (a0 : Fn) (a1 : MbCtl) (a2 : Nat) : Statement (.retrain a0 a1 a2) := of_none rfl rfl rfl
theorem retrainEnd (a0 : Nat) : Statement (.retrainEnd a0) := of_none rfl rfl rfl
theorem setpower (a0 : Fn) (a1 : MbCtl) (a2 : Nat) : Statement (.setpower a0 a1 a2) := of_none rfl rfl rfl
theorem dbggrant (a0 : Fn) (a1 : MbCtl) (a2 : Nat) (a3 : Dword) (a4 : Nat) : Statement (.dbggrant a0 a1 a2 a3 a4) := of_none rfl rfl rfl
theorem dbgrevoke (a0 : Fn) (a1 : MbCtl) (a2 : Nat) : Statement (.dbgrevoke a0 a1 a2) := of_none rfl rfl rfl
theorem dbghalt (a0 : Fn) (a1 : MbCtl) (a2 : Nat) (a3 : Nat) : Statement (.dbghalt a0 a1 a2 a3) := of_none rfl rfl rfl
theorem teamHalted (a0 : TeamRef) : Statement (.teamHalted a0) := of_none rfl rfl rfl
theorem dbgstep (a0 : Fn) (a1 : MbCtl) (a2 : GroupRef) : Statement (.dbgstep a0 a1 a2) := of_none rfl rfl rfl
theorem dbgresume (a0 : Fn) (a1 : MbCtl) (a2 : Nat) (a3 : Nat) : Statement (.dbgresume a0 a1 a2 a3) := of_none rfl rfl rfl
theorem dbgread (a0 : Fn) (a1 : MbCtl) (a2 : Nat) (a3 : Nat) (a4 : Nat) (a5 : Nat) (a6 : Nat) : Statement (.dbgread a0 a1 a2 a3 a4 a5 a6) := of_none rfl rfl rfl
theorem dbgwrite (a0 : Fn) (a1 : MbCtl) (a2 : Nat) (a3 : Nat) (a4 : DbgTarget) (a5 : List Byte) : Statement (.dbgwrite a0 a1 a2 a3 a4 a5) := of_none rfl rfl rfl
theorem shadow (a0 : Fn) (a1 : MbCtl) (a2 : Nat) (a3 : Nat) (a4 : Nat) (a5 : Nat) (a6 : Byte) : Statement (.shadow a0 a1 a2 a3 a4 a5 a6) := of_none rfl rfl rfl
theorem readcyc (a0 : Fn) (a1 : MbCtl) (a2 : CycleUnit) : Statement (.readcyc a0 a1 a2) := of_none rfl rfl rfl
theorem spdm (a0 : Fn) (a1 : MbCtl) (a2 : Dword) (a3 : Nat) : Statement (.spdm a0 a1 a2 a3) := of_none rfl rfl rfl
theorem spdmDoeMessage (a0 : Fn) (a1 : List Byte) : Statement (.spdmDoeMessage a0 a1) := of_none rfl rfl rfl
theorem distrec (a0 : Fn) (a1 : MbCtl) (a2 : Nat) (a3 : Dword) : Statement (.distrec a0 a1 a2 a3) := of_none rfl rfl rfl
theorem setvdev (a0 : Fn) (a1 : MbCtl) (a2 : Fn) (a3 : Option VdevKey) : Statement (.setvdev a0 a1 a2 a3) := of_none rfl rfl rfl
theorem stop (a0 : Fn) (a1 : MbCtl) (a2 : Nat) : Statement (.stop a0 a1 a2) := of_none rfl rfl rfl
theorem nopPacket (a0 : QueueKey) : Statement (.nopPacket a0) := of_none rfl rfl rfl
theorem launchPacket (a0 : QueueKey) : Statement (.launchPacket a0) := of_none rfl rfl rfl
theorem fencePacket (a0 : QueueKey) : Statement (.fencePacket a0) := of_none rfl rfl rfl
theorem fenceRetest (a0 : QueueKey) : Statement (.fenceRetest a0) := of_none rfl rfl rfl
theorem predPacket (a0 : QueueKey) : Statement (.predPacket a0) := of_none rfl rfl rfl
theorem signalPacket (a0 : QueueKey) : Statement (.signalPacket a0) := of_none rfl rfl rfl
theorem copyPacket (a0 : QueueKey) : Statement (.copyPacket a0) := of_none rfl rfl rfl
theorem copyPacketComplete (a0 : QueueKey) : Statement (.copyPacketComplete a0) := of_none rfl rfl rfl
theorem markPacket (a0 : QueueKey) : Statement (.markPacket a0) := of_none rfl rfl rfl
theorem waitprevRelease (a0 : QueueKey) : Statement (.waitprevRelease a0) := of_none rfl rfl rfl
theorem firmwareCoreFault (a0 : Nat) : Statement (.firmwareCoreFault a0) := of_none rfl rfl rfl
theorem sliceBoundary (a0 : Nat) : Statement (.sliceBoundary a0) := of_none rfl rfl rfl
theorem launchPlacement (a0 : Nat) : Statement (.launchPlacement a0) := of_none rfl rfl rfl
theorem teamResume (a0 : Nat) : Statement (.teamResume a0) := of_none rfl rfl rfl
theorem campInterval (a0 : TeamRef) : Statement (.campInterval a0) := of_none rfl rfl rfl
theorem camp (a0 : TeamRef) : Statement (.camp a0) := of_none rfl rfl rfl
theorem undoLogFull (a0 : Nat) : Statement (.undoLogFull a0) := of_none rfl rfl rfl
theorem thermalStep (a0 : Nat) (a1 : Bool) : Statement (.thermalStep a0 a1) := of_none rfl rfl rfl
theorem powerLimitStep (a0 : List Nat) : Statement (.powerLimitStep a0) := of_none rfl rfl rfl
theorem criticalTrip : Statement (.criticalTrip) := of_none rfl rfl rfl
theorem squareGrant (a0 : TeamRef) (a1 : Nat) : Statement (.squareGrant a0 a1) := of_none rfl rfl rfl
theorem stopConditionMet (a0 : GroupRef) : Statement (.stopConditionMet a0) := of_none rfl rfl rfl
theorem starvationEvent (a0 : TeamRef) (a1 : Nat) : Statement (.starvationEvent a0 a1) := of_none rfl rfl rfl
theorem starvationResponse (a0 : TeamRef) (a1 : Nat) : Statement (.starvationResponse a0 a1) := of_none rfl rfl rfl
theorem loadDataArrival (a0 : GroupRef) (a1 : Nat) (a2 : Option DataErr) : Statement (.loadDataArrival a0 a1 a2) := of_none rfl rfl rfl
theorem storePerformed (a0 : GroupRef) (a1 : Nat) : Statement (.storePerformed a0 a1) := of_none rfl rfl rfl
theorem creditRetire (a0 : GroupRef) (a1 : CreditClass) : Statement (.creditRetire a0 a1) := of_none rfl rfl rfl
theorem releasePerformed (a0 : GroupRef) : Statement (.releasePerformed a0) := of_none rfl rfl rfl
theorem copyUnitDelivery (a0 : TeamRef) (a1 : Nat) (a2 : Option DataErr) : Statement (.copyUnitDelivery a0 a1 a2) := of_none rfl rfl rfl
theorem copyComplete (a0 : TeamRef) (a1 : Nat) : Statement (.copyComplete a0 a1) := of_none rfl rfl rfl
theorem engineOpStart (a0 : Nat) : Statement (.engineOpStart a0) := of_none rfl rfl rfl
theorem engineOpComplete (a0 : Nat) (a1 : Option DataErr) : Statement (.engineOpComplete a0 a1) := of_none rfl rfl rfl
theorem leaseIdleTimeout (a0 : Nat) : Statement (.leaseIdleTimeout a0) := of_none rfl rfl rfl
theorem emulatedOpComplete (a0 : GroupRef) : Statement (.emulatedOpComplete a0) := of_none rfl rfl rfl
theorem svcComplete (a0 : GroupRef) : Statement (.svcComplete a0) := of_none rfl rfl rfl
theorem teamRetire (a0 : TeamRef) : Statement (.teamRetire a0) := of_none rfl rfl rfl
theorem launchComplete (a0 : Nat) : Statement (.launchComplete a0) := of_none rfl rfl rfl
theorem replayTimeout (a0 : Waiter) : Statement (.replayTimeout a0) := of_none rfl rfl rfl
theorem linkTimeout (a0 : Waiter) : Statement (.linkTimeout a0) := of_none rfl rfl rfl
theorem peerAccess (a0 : Nat) (a1 : Nat) (a2 : BusAccess) : Statement (.peerAccess a0 a1 a2) := of_none rfl rfl rfl
theorem hostApertureAccess (a0 : Fn) (a1 : Nat) (a2 : BusAccess) : Statement (.hostApertureAccess a0 a1 a2) := of_none rfl rfl rfl
theorem vectorDelayExpiry (a0 : Fn) (a1 : Nat) : Statement (.vectorDelayExpiry a0 a1) := of_none rfl rfl rfl
theorem vectorIdleFire (a0 : Fn) (a1 : Nat) : Statement (.vectorIdleFire a0 a1) := of_none rfl rfl rfl
theorem rowActivationAlert (a0 : Nat) (a1 : Nat) (a2 : Nat) : Statement (.rowActivationAlert a0 a1 a2) := of_none rfl rfl rfl
theorem bankBackoffEnd (a0 : Nat) (a1 : Nat) : Statement (.bankBackoffEnd a0 a1) := of_none rfl rfl rfl
theorem refreshWindowStart (a0 : Nat) : Statement (.refreshWindowStart a0) := of_none rfl rfl rfl
theorem patrolScrub (a0 : Nat) (a1 : List DataErr) : Statement (.patrolScrub a0 a1) := of_none rfl rfl rfl
theorem walkComplete (a0 : Waiter) : Statement (.walkComplete a0) := of_none rfl rfl rfl
theorem unknownCommand (a0 : Fn) (a1 : MbCtl) (a2 : Nat) : Statement (.unknownCommand a0 a1 a2) := of_none rfl rfl rfl
theorem reservedPacketType (a0 : QueueKey) : Statement (.reservedPacketType a0) := of_none rfl rfl rfl
theorem virtualDeviceScheduled (a0 : VdevKey) : Statement (.virtualDeviceScheduled a0) := of_none rfl rfl rfl

end Sys2Proof.Laws.Tables
end

