-- ==== Sys2Proof/Laws/Wf/Mem.lean ====
section
/-! SUPPORT. What Mem does keeps the canonical form of memory. -/

namespace Sys2Proof.Machine

@[simp] theorem foldl_wf {α : Type} {f : State → α → State} {l : List α} {s : State}
    (hf : ∀ s a, Memory.wf s.mem = true → Memory.wf (f s a).mem = true) (h : Memory.wf s.mem = true) :
    Memory.wf (l.foldl f s).mem = true := by
  induction l generalizing s with
  | nil => exact h
  | cons a l ih => exact ih (hf s a h)

@[simp] theorem ite_wf {p : Prop} [Decidable p] {a b : State} (ha : Memory.wf a.mem = true) (hb : Memory.wf b.mem = true) :
    Memory.wf (if p then a else b).mem = true := by
  split
  · exact ha
  · exact hb

theorem foldl_wf_fst {α β : Type} {f : State × β → α → State × β} {l : List α} {r : State × β}
    (hf : ∀ r a, Memory.wf r.1.mem = true → Memory.wf (f r a).1.mem = true) (h : Memory.wf r.1.mem = true) :
    Memory.wf (l.foldl f r).1.mem = true := by
  induction l generalizing r with
  | nil => exact h
  | cons a l ih => exact ih (hf r a h)

@[simp] theorem State.poisonSector_wf {s : State} (key : Nat) (src : Nat) (hm : Memory.wf s.mem = true) :
    Memory.wf (State.poisonSector s key src).mem = true := by
  unfold State.poisonSector
  simp (maxDischargeDepth := 30) [hm]

@[simp] theorem State.cleanSector_wf {s : State} (key : Nat) (hm : Memory.wf s.mem = true) :
    Memory.wf (State.cleanSector s key).mem = true := by
  unfold State.cleanSector
  simp (maxDischargeDepth := 30) [hm]

@[simp] theorem State.vstore_wf {s : State} {sp : VSpace} {va : Nat} {bs : List Byte} (h : Memory.wf s.mem = true) :
    Memory.wf (s.vstore sp va bs).mem = true := by
  induction bs generalizing s va with
  | nil => exact h
  | cons b t ih =>
    unfold State.vstore
    split
    · exact ih (cellWrite_wf h)
    · exact ih h

@[simp] theorem State.defer_wf {s : State} (x : Late) (h : Memory.wf s.mem = true) : Memory.wf (s.defer x).mem = true := h

@[simp] theorem State.vwrite_wf {s : State} {sp : VSpace} {va : Nat} {bs : List Byte} (h : Memory.wf s.mem = true) :
    Memory.wf (s.vwrite sp va bs).mem = true := by
  unfold State.vwrite
  split <;> simp [h]

end Sys2Proof.Machine
end

