-- ==== Sys2Proof/Laws/Wf/Groups.lean ====
section
/-! SUPPORT. What Groups does keeps the canonical form of memory. -/

namespace Sys2Proof.Machine

@[simp] theorem State.onDie_wf {s : State} {f : State → State} (hf : ∀ s, Memory.wf s.mem = true → Memory.wf (f s).mem = true)
    (h : Memory.wf s.mem = true) : Memory.wf (s.onDie f).mem = true := by
  unfold State.onDie
  split
  · exact h
  · exact hf s h

@[simp] theorem State.byFw_wf {s : State} {f : State → State} (hf : ∀ s, Memory.wf s.mem = true → Memory.wf (f s).mem = true)
    (h : Memory.wf s.mem = true) : Memory.wf (s.byFw f).mem = true := by
  unfold State.byFw
  split
  · exact hf s h
  · exact h

@[simp] theorem State.modTeam_wf {s : State} (t : TeamRef) (f : Team → Team) (hm : Memory.wf s.mem = true) :
    Memory.wf (State.modTeam s t f).mem = true := by
  unfold State.modTeam
  simp (maxDischargeDepth := 30) [hm]

@[simp] theorem State.modGroup_wf {s : State} (g : GroupRef) (f : Group → Group) (hm : Memory.wf s.mem = true) :
    Memory.wf (State.modGroup s g f).mem = true := by
  unfold State.modGroup
  simp (maxDischargeDepth := 30) [hm]

@[simp] theorem State.modLaunch_wf {s : State} (n : Nat) (f : Launch → Launch) (hm : Memory.wf s.mem = true) :
    Memory.wf (State.modLaunch s n f).mem = true := by
  unfold State.modLaunch
  simp (maxDischargeDepth := 30) [hm]

end Sys2Proof.Machine
end

