-- ==== Sys2Proof/Laws/Wf/Operands.lean ====
section
/-! SUPPORT. What Operands does keeps the canonical form of memory. -/

namespace Sys2Proof.Machine

@[simp] theorem Ctx.writeDst_wf {s : State} (c : Ctx) (code : Byte) (vals : Nat → Word) (sh : Shape) (exec : Mask) (zero : Bool) (hm : Memory.wf s.mem = true) :
    Memory.wf (Ctx.writeDst c s code vals sh exec zero).mem = true := by
  unfold Ctx.writeDst
  split <;> simp (maxDischargeDepth := 30) [hm]

end Sys2Proof.Machine
end

