-- ==== Sys2Proof/Laws/Wf/Access.lean ====
section
/-! SUPPORT. What Access does keeps the canonical form of memory. -/

namespace Sys2Proof.Machine

@[simp] theorem State.writeLoc_wf {s : State} (b : StoreByte) (hm : Memory.wf s.mem = true) :
    Memory.wf (State.writeLoc s b).mem = true := by
  unfold State.writeLoc
  split <;> simp (maxDischargeDepth := 30) [hm]

@[simp] theorem State.markUnit_wf {s : State} (sp : Space) (addr : Nat) (src : Option Nat) (hm : Memory.wf s.mem = true) :
    Memory.wf (State.markUnit s sp addr src).mem = true := by
  unfold State.markUnit
  repeat' split
  all_goals simp (maxDischargeDepth := 30) [hm]

@[simp] theorem State.irrevocable_wf {s : State} (t : TeamRef) (hm : Memory.wf s.mem = true) :
    Memory.wf (State.irrevocable s t).mem = true := by
  unfold State.irrevocable
  simp (maxDischargeDepth := 30) [hm]

@[simp] theorem State.received_wf {s : State} (t : TeamRef) (hm : Memory.wf s.mem = true) :
    Memory.wf (State.received s t).mem = true := by
  unfold State.received
  simp (maxDischargeDepth := 30) [hm]

@[simp] theorem State.logByte_wf {s : State} (t : TeamRef) (b : StoreByte) (hm : Memory.wf s.mem = true) :
    Memory.wf (State.logByte s t b).mem = true := by
  unfold State.logByte
  split <;> simp (maxDischargeDepth := 30) [hm]

@[simp] theorem State.latch_wf {s : State}  (hm : Memory.wf s.mem = true) :
    Memory.wf (State.latch s).mem = true := by
  unfold State.latch
  simp (maxDischargeDepth := 30) [hm]

@[simp] theorem State.retest_wf {s : State} (sectors : List Nat) (hm : Memory.wf s.mem = true) :
    Memory.wf (State.retest s sectors).mem = true := by
  unfold State.retest
  simp (maxDischargeDepth := 30) [hm]

@[simp] theorem State.applyBytes_wf {s : State} (writer : Option TeamRef) (bs : List StoreByte) (hm : Memory.wf s.mem = true) :
    Memory.wf (State.applyBytes s writer bs).mem = true := by
  unfold State.applyBytes
  dsimp only
  repeat' split
  all_goals simp +contextual (maxDischargeDepth := 30) [hm]

@[simp] theorem State.performBytes_wf {s : State} (writer : Option TeamRef) (bs : List StoreByte) (hm : Memory.wf s.mem = true) :
    Memory.wf (State.performBytes s writer bs).mem = true := by
  unfold State.performBytes
  try dsimp only
  repeat' split
  all_goals first
    | with_reducible exact hm
    | simp +contextual (maxDischargeDepth := 30) [hm]
    | (refine foldl_wf (fun s a hm => ?_) (by simp +contextual (maxDischargeDepth := 30) [hm])
       try dsimp only
       repeat' split
       all_goals simp +contextual (maxDischargeDepth := 30) [hm])

end Sys2Proof.Machine
end

