-- ==== Sys2Proof/Laws/Wf/Flags.lean ====
section
/-! SUPPORT. What Flags does keeps the canonical form of memory. -/

namespace Sys2Proof.Machine

@[simp] theorem State.addFlags_wf {s : State} (g : GroupRef) (f : Flags) (hm : Memory.wf s.mem = true) :
    Memory.wf (State.addFlags s g f).mem = true := by
  unfold State.addFlags
  simp (maxDischargeDepth := 30) [hm]

end Sys2Proof.Machine
end

