-- ==== Sys2Proof/Laws/Wf/Records.lean ====
section
/-! SUPPORT. What Records does keeps the canonical form of memory. -/

namespace Sys2Proof.Machine

@[simp] theorem State.takeCoreSeq_wf {s : State} (core : Nat) (hm : Memory.wf s.mem = true) :
    Memory.wf (State.takeCoreSeq s core).1.mem = true := by
  unfold State.takeCoreSeq
  simp (maxDischargeDepth := 30) [hm]

@[simp] theorem State.takeCcSeq_wf {s : State} (cc : Nat) (hm : Memory.wf s.mem = true) :
    Memory.wf (State.takeCcSeq s cc).1.mem = true := by
  unfold State.takeCcSeq
  simp (maxDischargeDepth := 30) [hm]

@[simp] theorem State.takeCluSeq_wf {s : State} (c : Nat) (hm : Memory.wf s.mem = true) :
    Memory.wf (State.takeCluSeq s c).1.mem = true := by
  unfold State.takeCluSeq
  simp (maxDischargeDepth := 30) [hm]

@[simp] theorem State.takeEventSeq_wf {s : State} (core : Nat) (hm : Memory.wf s.mem = true) :
    Memory.wf (State.takeEventSeq s core).1.mem = true := by
  unfold State.takeEventSeq
  simp (maxDischargeDepth := 30) [hm]

@[simp] theorem State.takeChanSeq_wf {s : State} (ch : Nat) (hm : Memory.wf s.mem = true) :
    Memory.wf (State.takeChanSeq s ch).1.mem = true := by
  unfold State.takeChanSeq
  simp (maxDischargeDepth := 30) [hm]

@[simp] theorem State.takeAsyncSeq_wf {s : State} (unit : Nat) (hm : Memory.wf s.mem = true) :
    Memory.wf (State.takeAsyncSeq s unit).1.mem = true := by
  unfold State.takeAsyncSeq
  simp (maxDischargeDepth := 30) [hm]

@[simp] theorem State.takeUnit_wf {s : State} (u : RecUnit) (core : Nat) (hm : Memory.wf s.mem = true) :
    Memory.wf (State.takeUnit s u core).1.mem = true := by
  unfold State.takeUnit
  split <;> simp (maxDischargeDepth := 30) [hm]

@[simp] theorem State.appendRecord_wf {s : State} (sp : VSpace) (fq : Nat) (bs : List Byte) (hm : Memory.wf s.mem = true) :
    Memory.wf (State.appendRecord s sp fq bs).mem = true := by
  unfold State.appendRecord
  dsimp only
  repeat' split
  all_goals simp (maxDischargeDepth := 30) [hm]

@[simp] theorem State.putRecord_wf {s : State} (r : Record) (hm : Memory.wf s.mem = true) :
    Memory.wf (State.putRecord s r).mem = true := by
  unfold State.putRecord
  split <;> simp (maxDischargeDepth := 30) [hm]

@[simp] theorem State.putBlockRecord_wf {s : State} (g : GroupRef) (flags : Nat) (hm : Memory.wf s.mem = true) :
    Memory.wf (State.putBlockRecord s g flags).mem = true := by
  unfold State.putBlockRecord
  split <;> simp (maxDischargeDepth := 30) [hm]

@[simp] theorem State.pstore_wf {s : State} (pa : Nat) (bs : List Byte) (hm : Memory.wf s.mem = true) :
    Memory.wf (State.pstore s pa bs).mem = true := by
  unfold State.pstore
  simp (maxDischargeDepth := 30) [hm]

@[simp] theorem State.pwrite_wf {s : State} (pa : Nat) (bs : List Byte) (hm : Memory.wf s.mem = true) :
    Memory.wf (State.pwrite s pa bs).mem = true := by
  unfold State.pwrite
  split <;> simp (maxDischargeDepth := 30) [hm]

@[simp] theorem State.bumpDistrict_wf {s : State} (d : Nat) (off : Nat) (n : Nat) (hm : Memory.wf s.mem = true) :
    Memory.wf (State.bumpDistrict s d off n).mem = true := by
  unfold State.bumpDistrict
  repeat' split
  all_goals simp (maxDischargeDepth := 30) [hm]

@[simp] theorem State.appendRoute_wf {s : State} (d : Nat) (bs : List Byte) (hm : Memory.wf s.mem = true) :
    Memory.wf (State.appendRoute s d bs).mem = true := by
  unfold State.appendRoute
  dsimp only
  repeat' split
  all_goals simp (maxDischargeDepth := 30) [hm]

@[simp] theorem State.putRoute_wf {s : State} (e : RbEntry) (hm : Memory.wf s.mem = true) :
    Memory.wf (State.putRoute s e).1.mem = true := by
  unfold State.putRoute
  split <;> simp (maxDischargeDepth := 30) [hm]

@[simp] theorem State.route_wf {s : State} (e : RbEntry) (hm : Memory.wf s.mem = true) :
    Memory.wf (State.route s e).mem = true := by
  unfold State.route
  simp (maxDischargeDepth := 30) [hm]

@[simp] theorem State.appendEvent_wf {s : State} (base size : Nat) (bs : List Byte) (hm : Memory.wf s.mem = true) :
    Memory.wf (State.appendEvent s base size bs).mem = true := by
  unfold State.appendEvent
  dsimp only
  repeat' split
  all_goals simp (maxDischargeDepth := 30) [hm]

@[simp] theorem State.putEvent_wf {s : State} (r : DebugRight) (bs : List Byte) (hm : Memory.wf s.mem = true) :
    Memory.wf (State.putEvent s r bs).mem = true := by
  unfold State.putEvent
  simp (maxDischargeDepth := 30) [hm]

@[simp] theorem State.groupEvent_wf {s : State} (r : DebugRight) (code : Nat) (g : GroupRef) (hm : Memory.wf s.mem = true) :
    Memory.wf (State.groupEvent s r code g).mem = true := by
  unfold State.groupEvent
  split <;> simp (maxDischargeDepth := 30) [hm]

@[simp] theorem State.countError_wf {s : State} (mech : Nat) (unit : Nat) (fatal : Bool) (loc : Dword) (cycle : Nat) (seq : Nat) (hm : Memory.wf s.mem = true) :
    Memory.wf (State.countError s mech unit fatal loc cycle seq).mem = true := by
  unfold State.countError
  simp (maxDischargeDepth := 30) [hm]

@[simp] theorem State.coreError_wf {s : State} (mech : Nat) (core : Nat) (fatal : Bool) (loc : Dword) (hm : Memory.wf s.mem = true) :
    Memory.wf (State.coreError s mech core fatal loc).mem = true := by
  unfold State.coreError
  simp (maxDischargeDepth := 30) [hm]

@[simp] theorem State.modFn_wf {s : State} (f : Fn) (g : FnState → FnState) (hm : Memory.wf s.mem = true) :
    Memory.wf (State.modFn s f g).mem = true := by
  unfold State.modFn
  simp (maxDischargeDepth := 30) [hm]

@[simp] theorem State.sendIrq_wf {s : State} (f : Fn) (v : Nat) (hm : Memory.wf s.mem = true) :
    Memory.wf (State.sendIrq s f v).mem = true := by
  unfold State.sendIrq
  simp (maxDischargeDepth := 30) [hm]

@[simp] theorem State.reply_wf {s : State} (f : Fn) (mb : MbCtl) (result : Nat) (out : List Byte) (hm : Memory.wf s.mem = true) :
    Memory.wf (State.reply s f mb result out).mem = true := by
  unfold State.reply
  simp (maxDischargeDepth := 30) [hm]

@[simp] theorem State.fireVector_wf {s : State} (f : Fn) (v : Nat) (hm : Memory.wf s.mem = true) :
    Memory.wf (State.fireVector s f v).mem = true := by
  unfold State.fireVector
  simp (maxDischargeDepth := 30) [hm]

@[simp] theorem State.addCompletion_wf {s : State} (f : Fn) (v : Nat) (q : QueueKey) (hm : Memory.wf s.mem = true) :
    Memory.wf (State.addCompletion s f v q).mem = true := by
  unfold State.addCompletion
  simp (maxDischargeDepth := 30) [hm]

end Sys2Proof.Machine
end

