-- ==== Sys2Proof/Laws/Wf/Ops.lean ====
section
/-! SUPPORT. What Ops does keeps the canonical form of memory. -/

namespace Sys2Proof.Machine

@[simp] theorem State.returnLenders_wf {s : State} (r : Rope) (hm : Memory.wf s.mem = true) :
    Memory.wf (State.returnLenders s r).mem = true := by
  unfold State.returnLenders
  try dsimp only
  repeat' split
  all_goals first
    | with_reducible exact hm
    | simp +contextual (maxDischargeDepth := 30) [hm]
    | (refine foldl_wf (fun s a hm => ?_) (by simp +contextual (maxDischargeDepth := 30) [hm])
       try dsimp only
       repeat' split
       all_goals simp +contextual (maxDischargeDepth := 30) [hm])

@[simp] theorem State.reportFails_wf {s : State} (t : Team) (g : GroupRef) (fails : List RetiredFail) (hm : Memory.wf s.mem = true) :
    Memory.wf (State.reportFails s t g fails).mem = true := by
  unfold State.reportFails
  dsimp only
  repeat' split
  all_goals simp +contextual (maxDischargeDepth := 30) [hm]

@[simp] theorem State.dropBaton_wf {s : State} (g : GroupRef) (old : Group) (hm : Memory.wf s.mem = true) :
    Memory.wf (State.dropBaton s g old).mem = true := by
  unfold State.dropBaton
  split <;> simp (maxDischargeDepth := 30) [hm]

@[simp] theorem State.stepFaulted_wf {s : State} (g : GroupRef) (old : Group) (hm : Memory.wf s.mem = true) :
    Memory.wf (State.stepFaulted s g old).mem = true := by
  unfold State.stepFaulted
  repeat' split
  all_goals simp (maxDischargeDepth := 30) [hm]

@[simp] theorem State.faultGroup_wf {s : State} (g : GroupRef) (r : Record) (pc : Dword) (hm : Memory.wf s.mem = true) :
    Memory.wf (State.faultGroup s g r pc).mem = true := by
  unfold State.faultGroup
  repeat' split
  all_goals simp (maxDischargeDepth := 30) [hm]

@[simp] theorem takeFault_wf {s : State} (c : Ctx) (f : FaultInfo) (hm : Memory.wf s.mem = true) :
    Memory.wf (takeFault c f s).mem = true := by
  unfold takeFault
  split <;> simp (maxDischargeDepth := 30) [hm]

@[simp] theorem Ctx.setHold_wf {s : State} (c : Ctx) (h : Hold) (hm : Memory.wf s.mem = true) :
    Memory.wf (Ctx.setHold c h s).mem = true := by
  unfold Ctx.setHold
  simp (maxDischargeDepth := 30) [hm]

@[simp] theorem Ctx.takeReplay_wf {s : State} (c : Ctx) (f : FaultInfo) (hm : Memory.wf s.mem = true) :
    Memory.wf (Ctx.takeReplay c f s).mem = true := by
  unfold Ctx.takeReplay
  simp (maxDischargeDepth := 30) [hm]

@[simp] theorem Ctx.countIdle_wf {s : State} (c : Ctx) (o : Op) (hm : Memory.wf s.mem = true) :
    Memory.wf (Ctx.countIdle c o s).mem = true :=
  foldl_wf (fun s e hs => by dsimp only; split <;> simp [hs]) hm

@[simp] theorem Ctx.begin__wf {s : State} (c : Ctx) (o : Op) (hm : Memory.wf s.mem = true) :
    Memory.wf (Ctx.begin_ c o s).mem = true := by
  unfold Ctx.begin_
  simp (maxDischargeDepth := 30) [hm]

@[simp] theorem Ctx.chargeRope_wf {s : State} (c : Ctx) (hm : Memory.wf s.mem = true) :
    Memory.wf (Ctx.chargeRope c s).mem = true := by
  unfold Ctx.chargeRope
  simp (maxDischargeDepth := 30) [hm]

@[simp] theorem Ctx.commit_wf {effect s : State} (c : Ctx) (he : Memory.wf effect.mem = true) (hm : Memory.wf s.mem = true) :
    Memory.wf (c.commit effect s).mem = true := by
  unfold Ctx.commit
  dsimp only
  split
  · simp [he]
  · simp (maxDischargeDepth := 30) [hm]

@[simp] theorem Ctx.setPaths_wf {s : State} (c : Ctx) (f : List Path → List Path) (hm : Memory.wf s.mem = true) :
    Memory.wf (Ctx.setPaths c f s).mem = true := by
  unfold Ctx.setPaths
  simp (maxDischargeDepth := 30) [hm]

@[simp] theorem Ctx.goto_wf {s : State} (c : Ctx) (pc : Dword) (hm : Memory.wf s.mem = true) :
    Memory.wf (Ctx.goto c pc s).mem = true := by
  unfold Ctx.goto
  simp (maxDischargeDepth := 30) [hm]

@[simp] theorem Ctx.advance_wf {s : State} (c : Ctx) (hm : Memory.wf s.mem = true) :
    Memory.wf (Ctx.advance c s).mem = true := by
  unfold Ctx.advance
  simp (maxDischargeDepth := 30) [hm]

@[simp] theorem Ctx.passBaton_wf {s : State} (c : Ctx) (target : Nat) (direct : Bool) (hm : Memory.wf s.mem = true) :
    Memory.wf (Ctx.passBaton c target direct s).mem = true := by
  unfold Ctx.passBaton
  split <;> simp (maxDischargeDepth := 30) [hm]

@[simp] theorem Ctx.stopAt_wf {s : State} (c : Ctx) (what : Stop) (succ : Byte) (hm : Memory.wf s.mem = true) :
    Memory.wf (Ctx.stopAt c what succ s).mem = true := by
  unfold Ctx.stopAt
  simp (maxDischargeDepth := 30) [hm]

@[simp] theorem Ctx.addLd_wf {s : State} (c : Ctx) (delivers : List Deliver) (link : Option (Dword × Mask)) (engine : Bool)
    (srcs : List (Byte × Nat × Loc)) (lds : Bool) (hm : Memory.wf s.mem = true) :
    Memory.wf (Ctx.addLd c delivers s link engine srcs lds).mem = true := by
  unfold Ctx.addLd
  simp (maxDischargeDepth := 30) [hm]

@[simp] theorem Ctx.addSt_wf {s : State} (c : Ctx) (scope : Nat) (bytes : List StoreByte) (irrevocable : Bool) (link : Option (Dword × Mask)) (hm : Memory.wf s.mem = true) :
    Memory.wf (Ctx.addSt c scope bytes irrevocable s link).mem = true := by
  unfold Ctx.addSt
  simp (maxDischargeDepth := 30) [hm]

/-- An outcome whose next state keeps the form. -/
def Out.wf (o : Out) : Prop := ∀ t, o = .next t → Memory.wf t.mem = true

theorem Out.wf_next {t : State} (h : Memory.wf t.mem = true) : Out.wf (.next t) := by
  intro u e
  cases e
  exact h

/-- An instruction keeps the form when its effect does. -/
theorem runOp_wf {o : Op} {plan : Ctx → State → Plan} {s : State} {b : Bool}
    (hp : ∀ c s, Memory.wf s.mem = true → Memory.wf (plan c s).effect.mem = true) (hm : Memory.wf s.mem = true) :
    Out.wf (runOp o plan s b) := by
  unfold runOp
  dsimp only
  split
  · intro t e; cases e
  · split <;> apply Out.wf_next
    · simp (maxDischargeDepth := 30) [hm]
    · simp (maxDischargeDepth := 30) [hm]
    · simp (maxDischargeDepth := 30) [hm]
    · exact Ctx.commit_wf _ (hp _ _ (by simp (maxDischargeDepth := 30) [hm])) hm

theorem runX_wf {family func : Nat} {x : XF} {plan : Ctx → State → Plan} {s : State} {b : Bool}
    (hp : ∀ c s, Memory.wf s.mem = true → Memory.wf (plan c s).effect.mem = true) (hm : Memory.wf s.mem = true) :
    Out.wf (runX family func x plan s b) := runOp_wf hp hm

end Sys2Proof.Machine
end

