-- ==== Sys2Proof/Laws/Wf/Compute.lean ====
section
/-! SUPPORT. What Compute does keeps the canonical form of memory. -/

namespace Sys2Proof.Machine

@[simp] theorem computePlan_wf {s : State} (family : Nat) (func : Nat) (aff : Affine) (laneDep : Bool) (op : LaneOp) (x : XF) (c : Ctx) (hm : Memory.wf s.mem = true) :
    Memory.wf (computePlan family func aff laneDep op x c s).effect.mem = true := by
  unfold computePlan
  simp (maxDischargeDepth := 30) [hm]

@[simp] theorem Ctx.writePair_wf {s : State} (c : Ctx) (d : Byte) (vals : Nat → Dword) (lo : Shape) (hi : Shape) (exec : Mask) (zero : Bool) (hm : Memory.wf s.mem = true) :
    Memory.wf (Ctx.writePair c s d vals lo hi exec zero).mem = true := by
  unfold Ctx.writePair
  simp (maxDischargeDepth := 30) [hm]

@[simp] theorem widePlan_wf {s : State} (x : XF) (tags : List Tag) (whole : Dword) (res : Nat → Dword) (c : Ctx) (hm : Memory.wf s.mem = true) :
    Memory.wf (widePlan x tags whole res c s).effect.mem = true := by
  unfold widePlan
  simp (maxDischargeDepth := 30) [hm]

end Sys2Proof.Machine
end

