-- ==== Sys2Proof/Laws/Wf/Int.lean ====
section
/-! SUPPORT. What Int does keeps the canonical form of memory. -/

namespace Sys2Proof.Machine

@[simp] theorem intPlan_wf {s : State} (func : Nat) (k : Affine) (op : LaneOp) (x : XF) (c : Ctx) (hm : Memory.wf s.mem = true) :
    Memory.wf (intPlan func k op x c s).effect.mem = true := by
  unfold intPlan
  simp (maxDischargeDepth := 30) [hm]

@[simp] theorem wideSum_wf {s : State} (sub : Bool) (x : XF) (c : Ctx) (hm : Memory.wf s.mem = true) :
    Memory.wf (wideSum sub x c s).effect.mem = true := by
  unfold wideSum
  simp (maxDischargeDepth := 30) [hm]

@[simp] theorem planIadd_wf {s : State} (x : XF) (c : Ctx) (hm : Memory.wf s.mem = true) :
    Memory.wf (planIadd x c s).effect.mem = true := by
  unfold planIadd
  split <;> simp (maxDischargeDepth := 30) [hm]

@[simp] theorem planIsub_wf {s : State} (x : XF) (c : Ctx) (hm : Memory.wf s.mem = true) :
    Memory.wf (planIsub x c s).effect.mem = true := by
  unfold planIsub
  split <;> simp (maxDischargeDepth := 30) [hm]

@[simp] theorem planLea_wf {s : State} (x : XF) (c : Ctx) (hm : Memory.wf s.mem = true) :
    Memory.wf (planLea x c s).effect.mem = true := by
  unfold planLea
  split <;> simp (maxDischargeDepth := 30) [hm]

@[simp] theorem planMov_wf {s : State} (x : XF) (c : Ctx) (hm : Memory.wf s.mem = true) :
    Memory.wf (planMov x c s).effect.mem = true := by
  unfold planMov
  split <;> simp (maxDischargeDepth := 30) [hm]

@[simp] theorem planLdi_wf {s : State} (x : XF) (c : Ctx) (hm : Memory.wf s.mem = true) :
    Memory.wf (planLdi x c s).effect.mem = true := by
  unfold planLdi
  split <;> simp (maxDischargeDepth := 30) [hm]

end Sys2Proof.Machine
end

