-- ==== Sys2Proof/Laws/Wf/Flt.lean ====
section
/-! SUPPORT. What Flt does keeps the canonical form of memory. -/

namespace Sys2Proof.Machine

@[simp] theorem fltPlan_wf {s : State} (func : Nat) (el : ElemFn) (x : XF) (c : Ctx) (hm : Memory.wf s.mem = true) :
    Memory.wf (fltPlan func el x c s).effect.mem = true := by
  unfold fltPlan
  split <;> simp (maxDischargeDepth := 30) [hm]

@[simp] theorem onePlan_wf {s : State} (func : Nat) (h : Fp.Val → Nat × Flags) (x : XF) (c : Ctx) (hm : Memory.wf s.mem = true) :
    Memory.wf (onePlan func h x c s).effect.mem = true := by
  unfold onePlan
  simp (maxDischargeDepth := 30) [hm]

@[simp] theorem planFadd_wf {s : State} (x : XF) (c : Ctx) (hm : Memory.wf s.mem = true) :
    Memory.wf (planFadd x c s).effect.mem = true := by
  unfold planFadd
  simp (maxDischargeDepth := 30) [hm]

@[simp] theorem planFsub_wf {s : State} (x : XF) (c : Ctx) (hm : Memory.wf s.mem = true) :
    Memory.wf (planFsub x c s).effect.mem = true := by
  unfold planFsub
  simp (maxDischargeDepth := 30) [hm]

@[simp] theorem planFmul_wf {s : State} (x : XF) (c : Ctx) (hm : Memory.wf s.mem = true) :
    Memory.wf (planFmul x c s).effect.mem = true := by
  unfold planFmul
  simp (maxDischargeDepth := 30) [hm]

@[simp] theorem planFfma_wf {s : State} (x : XF) (c : Ctx) (hm : Memory.wf s.mem = true) :
    Memory.wf (planFfma x c s).effect.mem = true := by
  unfold planFfma
  simp (maxDischargeDepth := 30) [hm]

@[simp] theorem planFmin_wf {s : State} (x : XF) (c : Ctx) (hm : Memory.wf s.mem = true) :
    Memory.wf (planFmin x c s).effect.mem = true := by
  unfold planFmin
  simp (maxDischargeDepth := 30) [hm]

@[simp] theorem planFmax_wf {s : State} (x : XF) (c : Ctx) (hm : Memory.wf s.mem = true) :
    Memory.wf (planFmax x c s).effect.mem = true := by
  unfold planFmax
  simp (maxDischargeDepth := 30) [hm]

@[simp] theorem planFabs_wf {s : State} (x : XF) (c : Ctx) (hm : Memory.wf s.mem = true) :
    Memory.wf (planFabs x c s).effect.mem = true := by
  unfold planFabs
  simp (maxDischargeDepth := 30) [hm]

@[simp] theorem planFneg_wf {s : State} (x : XF) (c : Ctx) (hm : Memory.wf s.mem = true) :
    Memory.wf (planFneg x c s).effect.mem = true := by
  unfold planFneg
  simp (maxDischargeDepth := 30) [hm]

@[simp] theorem planFcmp_wf {s : State} (x : XF) (c : Ctx) (hm : Memory.wf s.mem = true) :
    Memory.wf (planFcmp x c s).effect.mem = true := by
  unfold planFcmp
  simp (maxDischargeDepth := 30) [hm]

@[simp] theorem planFsel_wf {s : State} (x : XF) (c : Ctx) (hm : Memory.wf s.mem = true) :
    Memory.wf (planFsel x c s).effect.mem = true := by
  unfold planFsel
  simp (maxDischargeDepth := 30) [hm]

@[simp] theorem planFclass_wf {s : State} (x : XF) (c : Ctx) (hm : Memory.wf s.mem = true) :
    Memory.wf (planFclass x c s).effect.mem = true := by
  unfold planFclass
  simp (maxDischargeDepth := 30) [hm]

@[simp] theorem planFdiv_wf {s : State} (x : XF) (c : Ctx) (hm : Memory.wf s.mem = true) :
    Memory.wf (planFdiv x c s).effect.mem = true := by
  unfold planFdiv
  simp (maxDischargeDepth := 30) [hm]

@[simp] theorem planFsqrt_wf {s : State} (x : XF) (c : Ctx) (hm : Memory.wf s.mem = true) :
    Memory.wf (planFsqrt x c s).effect.mem = true := by
  unfold planFsqrt
  simp (maxDischargeDepth := 30) [hm]

@[simp] theorem planFrcp_wf {s : State} (x : XF) (c : Ctx) (hm : Memory.wf s.mem = true) :
    Memory.wf (planFrcp x c s).effect.mem = true := by
  unfold planFrcp
  simp (maxDischargeDepth := 30) [hm]

@[simp] theorem planFrsq_wf {s : State} (x : XF) (c : Ctx) (hm : Memory.wf s.mem = true) :
    Memory.wf (planFrsq x c s).effect.mem = true := by
  unfold planFrsq
  simp (maxDischargeDepth := 30) [hm]

@[simp] theorem planFexp2_wf {s : State} (x : XF) (c : Ctx) (hm : Memory.wf s.mem = true) :
    Memory.wf (planFexp2 x c s).effect.mem = true := by
  unfold planFexp2
  simp (maxDischargeDepth := 30) [hm]

@[simp] theorem planFlog2_wf {s : State} (x : XF) (c : Ctx) (hm : Memory.wf s.mem = true) :
    Memory.wf (planFlog2 x c s).effect.mem = true := by
  unfold planFlog2
  simp (maxDischargeDepth := 30) [hm]

@[simp] theorem planFsinpi_wf {s : State} (x : XF) (c : Ctx) (hm : Memory.wf s.mem = true) :
    Memory.wf (planFsinpi x c s).effect.mem = true := by
  unfold planFsinpi
  simp (maxDischargeDepth := 30) [hm]

@[simp] theorem planFcospi_wf {s : State} (x : XF) (c : Ctx) (hm : Memory.wf s.mem = true) :
    Memory.wf (planFcospi x c s).effect.mem = true := by
  unfold planFcospi
  simp (maxDischargeDepth := 30) [hm]

@[simp] theorem planFtanh_wf {s : State} (x : XF) (c : Ctx) (hm : Memory.wf s.mem = true) :
    Memory.wf (planFtanh x c s).effect.mem = true := by
  unfold planFtanh
  simp (maxDischargeDepth := 30) [hm]

@[simp] theorem planFscale_wf {s : State} (x : XF) (c : Ctx) (hm : Memory.wf s.mem = true) :
    Memory.wf (planFscale x c s).effect.mem = true := by
  unfold planFscale
  simp (maxDischargeDepth := 30) [hm]

end Sys2Proof.Machine
end

