-- ==== Sys2Proof/Laws/Wf/Stores.lean ====
section
/-! SUPPORT. What Stores does keeps the canonical form of memory. -/

namespace Sys2Proof.Machine

@[simp] theorem State.performOne_wf {s : State} (r : GroupRef) (o : StOp) (hm : Memory.wf s.mem = true) :
    Memory.wf (State.performOne s r o).mem = true := by
  unfold State.performOne
  dsimp only
  repeat' split
  all_goals simp +contextual (maxDischargeDepth := 30) [hm]

@[simp] theorem State.performStores_wf {s : State} (r : GroupRef) (want : StOp → Bool) (hm : Memory.wf s.mem = true) :
    Memory.wf (State.performStores s r want).mem = true := by
  unfold State.performStores
  try dsimp only
  repeat' split
  all_goals first
    | with_reducible exact hm
    | simp +contextual (maxDischargeDepth := 30) [hm]
    | (refine foldl_wf (fun s a hm => ?_) (by simp +contextual (maxDischargeDepth := 30) [hm])
       try dsimp only
       repeat' split
       all_goals simp +contextual (maxDischargeDepth := 30) [hm])

@[simp] theorem State.flushFor_wf {s : State} (r : GroupRef) (ls : List Loc) (hm : Memory.wf s.mem = true) :
    Memory.wf (State.flushFor s r ls).mem = true := by
  unfold State.flushFor
  simp (maxDischargeDepth := 30) [hm]

end Sys2Proof.Machine
end

