-- ==== Sys2Proof/Laws/Wf/Ctrl.lean ====
section
/-! SUPPORT. What Ctrl does keeps the canonical form of memory. -/

namespace Sys2Proof.Machine

@[simp] theorem planBra_wf {s : State} (x : XF) (off : Dword) (c : Ctx) (hm : Memory.wf s.mem = true) :
    Memory.wf (planBra x off c s).effect.mem = true := by
  unfold planBra
  simp (maxDischargeDepth := 30) [hm]

@[simp] theorem planBrd_wf {s : State} (x : XF) (c : Ctx) (hm : Memory.wf s.mem = true) :
    Memory.wf (planBrd x c s).effect.mem = true := by
  unfold planBrd
  simp (maxDischargeDepth := 30) [hm]

@[simp] theorem planJmpi_wf {s : State} (x : XF) (c : Ctx) (hm : Memory.wf s.mem = true) :
    Memory.wf (planJmpi x c s).effect.mem = true := by
  unfold planJmpi
  simp (maxDischargeDepth := 30) [hm]

@[simp] theorem planCall_wf {s : State} (t : Dword) (uniform : Option FaultInfo) (align : MemCheck) (c : Ctx) (hm : Memory.wf s.mem = true) :
    Memory.wf (planCall t uniform align c s).effect.mem = true := by
  unfold planCall
  dsimp only
  repeat' split
  all_goals simp +contextual (maxDischargeDepth := 30) [hm]

@[simp] theorem planRet_wf {s : State} (c : Ctx) (hm : Memory.wf s.mem = true) :
    Memory.wf (planRet c s).effect.mem = true := by
  unfold planRet
  simp (maxDischargeDepth := 30) [hm]

@[simp] theorem Ctx.putK_wf {s : State} (c : Ctx) (code : Byte) (m : Mask) (depth : Option Nat) (hm : Memory.wf s.mem = true) :
    Memory.wf (Ctx.putK c code m depth s).mem = true := by
  unfold Ctx.putK
  simp (maxDischargeDepth := 30) [hm]

@[simp] theorem planSplit_wf {s : State} (x : XF) (c : Ctx) (hm : Memory.wf s.mem = true) :
    Memory.wf (planSplit x c s).effect.mem = true := by
  unfold planSplit
  simp (maxDischargeDepth := 30) [hm]

@[simp] theorem planJoin_wf {s : State} (x : XF) (succAt : Nat × Nat) (c : Ctx) (hm : Memory.wf s.mem = true) :
    Memory.wf (planJoin x succAt c s).effect.mem = true := by
  unfold planJoin
  simp (maxDischargeDepth := 30) [hm]

@[simp] theorem State.exitGroup_wf {s : State} (r : GroupRef) (hm : Memory.wf s.mem = true) :
    Memory.wf (State.exitGroup s r).mem = true := by
  unfold State.exitGroup
  split <;> simp (maxDischargeDepth := 30) [hm]

@[simp] theorem planExit_wf {s : State} (x : XF) (c : Ctx) (hm : Memory.wf s.mem = true) :
    Memory.wf (planExit x c s).effect.mem = true := by
  unfold planExit
  dsimp only
  repeat' split
  all_goals simp +contextual (maxDischargeDepth := 30) [hm]

@[simp] theorem planTrap_wf {s : State} (x : XF) (c : Ctx) (hm : Memory.wf s.mem = true) :
    Memory.wf (planTrap x c s).effect.mem = true := by
  unfold planTrap
  simp (maxDischargeDepth := 30) [hm]

@[simp] theorem planBrk_wf {s : State} (x : XF) (c : Ctx) (hm : Memory.wf s.mem = true) :
    Memory.wf (planBrk x c s).effect.mem = true := by
  unfold planBrk
  split <;> simp (maxDischargeDepth := 30) [hm]

@[simp] theorem planNop_wf {s : State} (c : Ctx) (hm : Memory.wf s.mem = true) :
    Memory.wf (planNop c s).effect.mem = true := by
  unfold planNop
  simp (maxDischargeDepth := 30) [hm]

end Sys2Proof.Machine
end

