-- ==== Sys2Proof/Laws/Wf/Baton.lean ====
section
/-! SUPPORT. What Baton does keeps the canonical form of memory. -/

namespace Sys2Proof.Machine

@[simp] theorem Ctx.mailTo_wf {s : State} (c : Ctx) (target : Nat) (box : Byte) (code : Byte) (hm : Memory.wf s.mem = true) :
    Memory.wf (Ctx.mailTo c target box code s).mem = true := by
  unfold Ctx.mailTo
  dsimp only
  repeat' split
  all_goals simp +contextual (maxDischargeDepth := 30) [hm]

@[simp] theorem Ctx.sendMail_wf {s : State} (c : Ctx) (target : Nat) (a : Byte) (b : Byte) (hm : Memory.wf s.mem = true) :
    Memory.wf (Ctx.sendMail c target a b s).mem = true := by
  unfold Ctx.sendMail
  split <;> simp (maxDischargeDepth := 30) [hm]

@[simp] theorem Ctx.sendBaton_wf {s : State} (c : Ctx) (target : Nat) (hm : Memory.wf s.mem = true) :
    Memory.wf (Ctx.sendBaton c target s).mem = true := by
  unfold Ctx.sendBaton
  simp (maxDischargeDepth := 30) [hm]

@[simp] theorem planXfer_wf {s : State} (x : XF) (c : Ctx) (hm : Memory.wf s.mem = true) :
    Memory.wf (planXfer x c s).effect.mem = true := by
  unfold planXfer
  simp (maxDischargeDepth := 30) [hm]

@[simp] theorem planXfera_wf {s : State} (x : XF) (c : Ctx) (hm : Memory.wf s.mem = true) :
    Memory.wf (planXfera x c s).effect.mem = true := by
  unfold planXfera
  simp (maxDischargeDepth := 30) [hm]

@[simp] theorem planBelay_wf {s : State} (x : XF) (c : Ctx) (hm : Memory.wf s.mem = true) :
    Memory.wf (planBelay x c s).effect.mem = true := by
  unfold planBelay
  simp (maxDischargeDepth := 30) [hm]

@[simp] theorem planPark_wf {s : State} (x : XF) (c : Ctx) (hm : Memory.wf s.mem = true) :
    Memory.wf (planPark x c s).effect.mem = true := by
  unfold planPark
  simp (maxDischargeDepth := 30) [hm]

theorem State.surface_wf {s t : State} (r : GroupRef) (k : Counts) (pc : Dword) (hm : Memory.wf s.mem = true)
    (h : s.surface r k pc = some t) : Memory.wf t.mem = true := by
  unfold State.surface at h
  split at h
  · dsimp only at h
    cases hf : oldestFail ((Group.covered ‹_› k).1) with
    | none => simp [hf] at h
    | some f => simp [hf] at h; subst h; simp (maxDischargeDepth := 30) [hm]
  · cases h

@[simp] theorem State.surfaceD_wf {s d : State} {r : GroupRef} {k : Counts} {pc : Dword} (hm : Memory.wf s.mem = true)
    (hd : Memory.wf d.mem = true) : Memory.wf ((s.surface r k pc).getD d).mem = true := by
  cases h : s.surface r k pc with
  | none => exact hd
  | some t => exact State.surface_wf _ _ _ hm h

@[simp] theorem planWait_wf {s : State} (k : Counts) (succ : Byte) (succAt : Nat × Nat) (c : Ctx) (hm : Memory.wf s.mem = true) :
    Memory.wf (planWait k succ succAt c s).effect.mem = true := by
  unfold planWait
  simp (maxDischargeDepth := 30) [hm]

end Sys2Proof.Machine
end

