-- ==== Sys2Proof/Laws/Wf/Memory.lean ====
section
/-! SUPPORT. What Memory does keeps the canonical form of memory. -/

namespace Sys2Proof.Machine

@[simp] theorem planLoad_wf {s : State} (scratch : Bool) (x : XF) (c : Ctx) (hm : Memory.wf s.mem = true) :
    Memory.wf (planLoad scratch x c s).effect.mem = true := by
  unfold planLoad
  dsimp only
  repeat' split
  all_goals simp +contextual (maxDischargeDepth := 30) [hm]

@[simp] theorem planStore_wf {s : State} (scratch : Bool) (x : XF) (c : Ctx) (hm : Memory.wf s.mem = true) :
    Memory.wf (planStore scratch x c s).effect.mem = true := by
  unfold planStore
  simp (maxDischargeDepth := 30) [hm]

@[simp] theorem planStm_wf {s : State} (x : XF) (c : Ctx) (hm : Memory.wf s.mem = true) :
    Memory.wf (planStm x c s).effect.mem = true := by
  unfold planStm
  simp (maxDischargeDepth := 30) [hm]

@[simp] theorem planPref_wf {s : State} (c : Ctx) (hm : Memory.wf s.mem = true) :
    Memory.wf (planPref c s).effect.mem = true := by
  unfold planPref
  simp (maxDischargeDepth := 30) [hm]

@[simp] theorem planSpill_wf {s : State} (x : XF) (c : Ctx) (hm : Memory.wf s.mem = true) :
    Memory.wf (planSpill x c s).effect.mem = true := by
  unfold planSpill
  simp (maxDischargeDepth := 30) [hm]

@[simp] theorem planFill_wf {s : State} (x : XF) (c : Ctx) (hm : Memory.wf s.mem = true) :
    Memory.wf (planFill x c s).effect.mem = true := by
  unfold planFill
  simp (maxDischargeDepth := 30) [hm]

end Sys2Proof.Machine
end

