-- ==== Sys2Proof/Laws/Wf/Atom.lean ====
section
/-! SUPPORT. What Atom does keeps the canonical form of memory. -/

namespace Sys2Proof.Machine

@[simp] theorem State.atomStep_wf {s : State} (t : TeamRef) (ls : List Loc) (bs : List Byte) (hm : Memory.wf s.mem = true) :
    Memory.wf (State.atomStep s t ls bs).mem = true := by
  unfold State.atomStep
  simp (maxDischargeDepth := 30) [hm]

@[simp] theorem atomLanes_wf {t : TeamRef} {f : Nat → List Byte → List Byte} {as : List LaneAcc} {s : State}
    {acc : List (Nat × List Byte)} (hm : Memory.wf s.mem = true) : Memory.wf (atomLanes t f as s acc).1.mem = true := by
  induction as generalizing s acc with
  | nil => exact hm
  | cons a as ih => exact ih (by simp (maxDischargeDepth := 30) [hm])

@[simp] theorem Ctx.addStep_wf {s : State} (c : Ctx) (scope : Nat) (link : Option (Dword × Mask)) (hm : Memory.wf s.mem = true) :
    Memory.wf (Ctx.addStep c scope link s).mem = true := by
  unfold Ctx.addStep
  simp (maxDischargeDepth := 30) [hm]

@[simp] theorem planAtom_wf {s : State} (x : XF) (c : Ctx) (hm : Memory.wf s.mem = true) :
    Memory.wf (planAtom x c s).effect.mem = true := by
  unfold planAtom
  simp (maxDischargeDepth := 30) [hm]

@[simp] theorem cellPlan_wf {s : State} (x : XF) (f : Ctx → Nat → Nat → Nat) (c : Ctx) (hm : Memory.wf s.mem = true) :
    Memory.wf (cellPlan x f c s).effect.mem = true := by
  unfold cellPlan
  simp (maxDischargeDepth := 30) [hm]

@[simp] theorem planXadd_wf {s : State} (x : XF) (c : Ctx) (hm : Memory.wf s.mem = true) :
    Memory.wf (planXadd x c s).effect.mem = true := by
  unfold planXadd
  simp (maxDischargeDepth := 30) [hm]

@[simp] theorem planXclr_wf {s : State} (x : XF) (c : Ctx) (hm : Memory.wf s.mem = true) :
    Memory.wf (planXclr x c s).effect.mem = true := by
  unfold planXclr
  simp (maxDischargeDepth := 30) [hm]

@[simp] theorem planXrd_wf {s : State} (x : XF) (c : Ctx) (hm : Memory.wf s.mem = true) :
    Memory.wf (planXrd x c s).effect.mem = true := by
  unfold planXrd
  simp (maxDischargeDepth := 30) [hm]

end Sys2Proof.Machine
end

