-- ==== Sys2Proof/Laws/Wf/Sync.lean ====
section
/-! SUPPORT. What Sync does keeps the canonical form of memory. -/

namespace Sys2Proof.Machine

@[simp] theorem Ctx.putObj_wf {s : State} (c : Ctx) (a : ObjAcc) (o : SyncObj) (hm : Memory.wf s.mem = true) :
    Memory.wf (Ctx.putObj c a o s).mem = true := by
  unfold Ctx.putObj
  split <;> simp (maxDischargeDepth := 30) [hm]

@[simp] theorem State.putS_wf {s : State} (g : GroupRef) (code : Byte) (v : Word) (hm : Memory.wf s.mem = true) :
    Memory.wf (State.putS s g code v).mem = true := by
  unfold State.putS
  simp (maxDischargeDepth := 30) [hm]

@[simp] theorem planBind_wf {s : State} (x : XF) (c : Ctx) (hm : Memory.wf s.mem = true) :
    Memory.wf (planBind x c s).effect.mem = true := by
  unfold planBind
  simp (maxDischargeDepth := 30) [hm]

@[simp] theorem planUnbind_wf {s : State} (x : XF) (c : Ctx) (hm : Memory.wf s.mem = true) :
    Memory.wf (planUnbind x c s).effect.mem = true := by
  unfold planUnbind
  simp (maxDischargeDepth := 30) [hm]

@[simp] theorem planAcq_wf {s : State} (x : XF) (c : Ctx) (hm : Memory.wf s.mem = true) :
    Memory.wf (planAcq x c s).effect.mem = true := by
  unfold planAcq
  dsimp only
  repeat' split
  all_goals simp +contextual (maxDischargeDepth := 30) [hm]

@[simp] theorem planTryacq_wf {s : State} (x : XF) (c : Ctx) (hm : Memory.wf s.mem = true) :
    Memory.wf (planTryacq x c s).effect.mem = true := by
  unfold planTryacq
  simp (maxDischargeDepth := 30) [hm]

@[simp] theorem planRel_wf {s : State} (x : XF) (c : Ctx) (hm : Memory.wf s.mem = true) :
    Memory.wf (planRel x c s).effect.mem = true := by
  unfold planRel
  simp (maxDischargeDepth := 30) [hm]

@[simp] theorem planFence_wf {s : State} (x : XF) (c : Ctx) (hm : Memory.wf s.mem = true) :
    Memory.wf (planFence x c s).effect.mem = true := by
  unfold planFence
  simp (maxDischargeDepth := 30) [hm]

@[simp] theorem planBarinit_wf {s : State} (x : XF) (c : Ctx) (hm : Memory.wf s.mem = true) :
    Memory.wf (planBarinit x c s).effect.mem = true := by
  unfold planBarinit
  simp (maxDischargeDepth := 30) [hm]

@[simp] theorem planArrive_wf {s : State} (kind : ReleaseKind) (drop : Bool) (x : XF) (c : Ctx) (hm : Memory.wf s.mem = true) :
    Memory.wf (planArrive kind drop x c s).effect.mem = true := by
  unfold planArrive
  simp (maxDischargeDepth := 30) [hm]

@[simp] theorem planBarwait_wf {s : State} (x : XF) (c : Ctx) (hm : Memory.wf s.mem = true) :
    Memory.wf (planBarwait x c s).effect.mem = true := by
  unfold planBarwait
  dsimp only
  repeat' split
  all_goals simp +contextual (maxDischargeDepth := 30) [hm]

@[simp] theorem planSyncset_wf {s : State} (x : XF) (c : Ctx) (hm : Memory.wf s.mem = true) :
    Memory.wf (planSyncset x c s).effect.mem = true := by
  unfold planSyncset
  simp (maxDischargeDepth := 30) [hm]

@[simp] theorem planSyncw_wf {s : State} (x : XF) (c : Ctx) (hm : Memory.wf s.mem = true) :
    Memory.wf (planSyncw x c s).effect.mem = true := by
  unfold planSyncw
  simp (maxDischargeDepth := 30) [hm]

end Sys2Proof.Machine
end

