-- ==== Sys2Proof/Laws/Wf/Async.lean ====
section
/-! SUPPORT. What Async does keeps the canonical form of memory. -/

namespace Sys2Proof.Machine

@[simp] theorem Ctx.addCopy_wf {s : State} (c : Ctx) (k : Copy) (hm : Memory.wf s.mem = true) :
    Memory.wf (Ctx.addCopy c k s).mem = true := by
  unfold Ctx.addCopy
  dsimp only
  split <;> simp (maxDischargeDepth := 30) [hm]

@[simp] theorem planBcopy_wf {s : State} (x0 : XF) (x : XF) (c : Ctx) (hm : Memory.wf s.mem = true) :
    Memory.wf (planBcopy x0 x c s).effect.mem = true := by
  unfold planBcopy
  simp (maxDischargeDepth := 30) [hm]

@[simp] theorem planIndexed_wf {s : State} (func : Nat) (x : XF) (c : Ctx) (hm : Memory.wf s.mem = true) :
    Memory.wf (planIndexed func x c s).effect.mem = true := by
  unfold planIndexed
  simp (maxDischargeDepth := 30) [hm]

@[simp] theorem planQfence_wf {s : State} (x : XF) (c : Ctx) (hm : Memory.wf s.mem = true) :
    Memory.wf (planQfence x c s).effect.mem = true := by
  unfold planQfence
  simp (maxDischargeDepth := 30) [hm]

@[simp] theorem State.modCopy_wf {s : State} (t : TeamRef) (id : Nat) (f : Copy → Copy) (hm : Memory.wf s.mem = true) :
    Memory.wf (State.modCopy s t id f).mem = true := by
  unfold State.modCopy
  simp (maxDischargeDepth := 30) [hm]

@[simp] theorem State.failCopy_wf {s : State} (t : TeamRef) (id : Nat) (f : FaultInfo) (hm : Memory.wf s.mem = true) :
    Memory.wf (State.failCopy s t id f).mem = true := by
  unfold State.failCopy
  exact foldl_wf (fun s a hs => State.received_wf a hs) (State.modCopy_wf _ _ _ hm)

@[simp] theorem State.replayCopy_wf {s : State} (t : Team) (k : Copy) (addr : Nat) (level : Nat) (hm : Memory.wf s.mem = true) :
    Memory.wf (State.replayCopy s t k addr level).mem = true := by
  unfold State.replayCopy
  simp (maxDischargeDepth := 30) [hm]

@[simp] theorem State.countErr_wf {s : State} (core : Nat) (e : DataErr) (hm : Memory.wf s.mem = true) :
    Memory.wf (State.countErr s core e).mem = true := by
  unfold State.countErr
  simp (maxDischargeDepth := 30) [hm]

@[simp] theorem State.noteErr_wf {s : State} (t : TeamRef) (core : Nat) (e : DataErr) (hm : Memory.wf s.mem = true) :
    Memory.wf (State.noteErr s t core e).mem = true := by
  unfold State.noteErr
  dsimp only
  repeat' split
  all_goals simp (maxDischargeDepth := 30) [hm]

@[simp] theorem State.putUnit_wf {s : State} (l : Launch) (t : Team) (k : Copy) (n : Nat) (vs : List Byte)
    (hm : Memory.wf s.mem = true) : Memory.wf (State.putUnit s l t k n vs).1.mem = true := by
  unfold State.putUnit
  refine foldl_wf_fst ?_ hm
  intro r i h
  refine ite_wf ?_ ?_
  · exact State.irrevocable_wf _ (foldl_wf (fun s a hs => State.received_wf a hs) (State.applyBytes_wf _ _ h))
  · exact foldl_wf (fun s a hs => State.received_wf a hs) (State.applyBytes_wf _ _ h)

@[simp] theorem State.copyUnit_wf {s : State} (r : TeamRef) (id : Nat) (err : Option DataErr) (hm : Memory.wf s.mem = true) :
    Memory.wf (State.copyUnit s r id err).mem = true := by
  unfold State.copyUnit
  dsimp only
  repeat' split
  all_goals simp +contextual (maxDischargeDepth := 30) [hm]

@[simp] theorem State.copyDone_wf {s : State} (r : TeamRef) (id : Nat) (hm : Memory.wf s.mem = true) :
    Memory.wf (State.copyDone s r id).mem = true := by
  unfold State.copyDone
  repeat' split
  all_goals simp (maxDischargeDepth := 30) [hm]

end Sys2Proof.Machine
end

