-- ==== Sys2Proof/Laws/Wf/Cvt.lean ====
section
/-! SUPPORT. What Cvt does keeps the canonical form of memory. -/

namespace Sys2Proof.Machine

@[simp] theorem planCvt_wf {s : State} (x : XF) (c : Ctx) (hm : Memory.wf s.mem = true) :
    Memory.wf (planCvt x c s).effect.mem = true := by
  unfold planCvt
  dsimp only
  repeat' split
  all_goals simp +contextual (maxDischargeDepth := 30) [hm]

@[simp] theorem Ctx.withFormat_wf {c : Ctx} {x : XF} {p : Plan} (hm : Memory.wf p.effect.mem = true) :
    Memory.wf (c.withFormat x p).effect.mem = true := by
  unfold Ctx.withFormat
  first
    | exact hm
    | (split <;> exact hm)

@[simp] theorem planCvtn_wf {s : State} (x : XF) (c : Ctx) (hm : Memory.wf s.mem = true) :
    Memory.wf (planCvtn x c s).effect.mem = true := by
  unfold planCvtn
  simp (maxDischargeDepth := 30) [hm]

@[simp] theorem planPackn_wf {s : State} (x : XF) (c : Ctx) (hm : Memory.wf s.mem = true) :
    Memory.wf (planPackn x c s).effect.mem = true := by
  unfold planPackn
  simp (maxDischargeDepth := 30) [hm]

@[simp] theorem planUnpackn_wf {s : State} (x : XF) (c : Ctx) (hm : Memory.wf s.mem = true) :
    Memory.wf (planUnpackn x c s).effect.mem = true := by
  unfold planUnpackn
  simp (maxDischargeDepth := 30) [hm]

@[simp] theorem planScaleb_wf {s : State} (x : XF) (c : Ctx) (hm : Memory.wf s.mem = true) :
    Memory.wf (planScaleb x c s).effect.mem = true := by
  unfold planScaleb
  simp (maxDischargeDepth := 30) [hm]

end Sys2Proof.Machine
end

