-- ==== Sys2Proof/Laws/Wf/Lanes.lean ====
section
/-! SUPPORT. What Lanes does keeps the canonical form of memory. -/

namespace Sys2Proof.Machine

@[simp] theorem planIdp2_wf {s : State} (x : XF) (c : Ctx) (hm : Memory.wf s.mem = true) :
    Memory.wf (planIdp2 x c s).effect.mem = true := by
  unfold planIdp2
  simp (maxDischargeDepth := 30) [hm]

@[simp] theorem planIdp4_wf {s : State} (x : XF) (c : Ctx) (hm : Memory.wf s.mem = true) :
    Memory.wf (planIdp4 x c s).effect.mem = true := by
  unfold planIdp4
  simp (maxDischargeDepth := 30) [hm]

@[simp] theorem planIdp8_wf {s : State} (x : XF) (c : Ctx) (hm : Memory.wf s.mem = true) :
    Memory.wf (planIdp8 x c s).effect.mem = true := by
  unfold planIdp8
  simp (maxDischargeDepth := 30) [hm]

@[simp] theorem planFdp2_wf {s : State} (x : XF) (c : Ctx) (hm : Memory.wf s.mem = true) :
    Memory.wf (planFdp2 x c s).effect.mem = true := by
  unfold planFdp2
  simp (maxDischargeDepth := 30) [hm]

@[simp] theorem crossPlan_wf {s : State} (func : Nat) (f : (lanes : List Nat) → (vals : Nat → Word) → (l : Nat) → Word × Flags) (x : XF) (c : Ctx) (hm : Memory.wf s.mem = true) :
    Memory.wf (crossPlan func f x c s).effect.mem = true := by
  unfold crossPlan
  simp (maxDischargeDepth := 30) [hm]

@[simp] theorem planPerm_wf {s : State} (x : XF) (c : Ctx) (hm : Memory.wf s.mem = true) :
    Memory.wf (planPerm x c s).effect.mem = true := by
  unfold planPerm
  simp (maxDischargeDepth := 30) [hm]

@[simp] theorem planRedux_wf {s : State} (x : XF) (c : Ctx) (hm : Memory.wf s.mem = true) :
    Memory.wf (planRedux x c s).effect.mem = true := by
  unfold planRedux
  simp (maxDischargeDepth := 30) [hm]

@[simp] theorem planScan_wf {s : State} (x : XF) (c : Ctx) (hm : Memory.wf s.mem = true) :
    Memory.wf (planScan x c s).effect.mem = true := by
  unfold planScan
  simp (maxDischargeDepth := 30) [hm]

@[simp] theorem planVote_wf {s : State} (x : XF) (c : Ctx) (hm : Memory.wf s.mem = true) :
    Memory.wf (planVote x c s).effect.mem = true := by
  unfold planVote
  dsimp only
  repeat' split
  all_goals simp +contextual (maxDischargeDepth := 30) [hm]

@[simp] theorem planMatch_wf {s : State} (x : XF) (c : Ctx) (hm : Memory.wf s.mem = true) :
    Memory.wf (planMatch x c s).effect.mem = true := by
  unfold planMatch
  simp (maxDischargeDepth := 30) [hm]

@[simp] theorem Ctx.setK_wf {s : State} (c : Ctx) (k : Nat) (m : Mask) (depth : Option Nat) (hm : Memory.wf s.mem = true) :
    Memory.wf (Ctx.setK c k m depth s).mem = true := by
  unfold Ctx.setK
  simp (maxDischargeDepth := 30) [hm]

@[simp] theorem kPlan_wf {s : State} (x : XF) (m : Mask) (c : Ctx) (hm : Memory.wf s.mem = true) :
    Memory.wf (kPlan x m c s).effect.mem = true := by
  unfold kPlan
  simp (maxDischargeDepth := 30) [hm]

@[simp] theorem planKand_wf {s : State} (x : XF) (c : Ctx) (hm : Memory.wf s.mem = true) :
    Memory.wf (planKand x c s).effect.mem = true := by
  unfold planKand
  simp (maxDischargeDepth := 30) [hm]

@[simp] theorem planKor_wf {s : State} (x : XF) (c : Ctx) (hm : Memory.wf s.mem = true) :
    Memory.wf (planKor x c s).effect.mem = true := by
  unfold planKor
  simp (maxDischargeDepth := 30) [hm]

@[simp] theorem planKxor_wf {s : State} (x : XF) (c : Ctx) (hm : Memory.wf s.mem = true) :
    Memory.wf (planKxor x c s).effect.mem = true := by
  unfold planKxor
  simp (maxDischargeDepth := 30) [hm]

@[simp] theorem planKnot_wf {s : State} (x : XF) (c : Ctx) (hm : Memory.wf s.mem = true) :
    Memory.wf (planKnot x c s).effect.mem = true := by
  unfold planKnot
  simp (maxDischargeDepth := 30) [hm]

@[simp] theorem planKset_wf {s : State} (x : XF) (c : Ctx) (hm : Memory.wf s.mem = true) :
    Memory.wf (planKset x c s).effect.mem = true := by
  unfold planKset
  simp (maxDischargeDepth := 30) [hm]

@[simp] theorem planKmov_wf {s : State} (x : XF) (c : Ctx) (hm : Memory.wf s.mem = true) :
    Memory.wf (planKmov x c s).effect.mem = true := by
  unfold planKmov
  repeat' split
  all_goals simp (maxDischargeDepth := 30) [hm]

@[simp] theorem kWordPlan_wf {s : State} (func : Nat) (v : Word) (x : XF) (c : Ctx) (hm : Memory.wf s.mem = true) :
    Memory.wf (kWordPlan func v x c s).effect.mem = true := by
  unfold kWordPlan
  simp (maxDischargeDepth := 30) [hm]

@[simp] theorem planKpop_wf {s : State} (x : XF) (c : Ctx) (hm : Memory.wf s.mem = true) :
    Memory.wf (planKpop x c s).effect.mem = true := by
  unfold planKpop
  simp (maxDischargeDepth := 30) [hm]

@[simp] theorem planKffs_wf {s : State} (x : XF) (c : Ctx) (hm : Memory.wf s.mem = true) :
    Memory.wf (planKffs x c s).effect.mem = true := by
  unfold planKffs
  simp (maxDischargeDepth := 30) [hm]

@[simp] theorem planRand_wf {s : State} (x : XF) (c : Ctx) (hm : Memory.wf s.mem = true) :
    Memory.wf (planRand x c s).effect.mem = true := by
  unfold planRand
  dsimp only
  repeat' split
  all_goals simp +contextual (maxDischargeDepth := 30) [hm]

@[simp] theorem planFmtset_wf {s : State} (x : XF) (c : Ctx) (hm : Memory.wf s.mem = true) :
    Memory.wf (planFmtset x c s).effect.mem = true := by
  unfold planFmtset
  simp (maxDischargeDepth := 30) [hm]

@[simp] theorem planFmtget_wf {s : State} (x : XF) (c : Ctx) (hm : Memory.wf s.mem = true) :
    Memory.wf (planFmtget x c s).effect.mem = true := by
  unfold planFmtget
  simp (maxDischargeDepth := 30) [hm]

end Sys2Proof.Machine
end

