-- ==== Sys2Proof/Laws/Wf/BForms.lean ====
section
/-! SUPPORT. What BForms does keeps the canonical form of memory. -/

namespace Sys2Proof.Machine

@[simp] theorem bPlan_wf {s : State} (major : Nat) (sfu : Nat) (x : XF) (c : Ctx) (hm : Memory.wf s.mem = true) :
    Memory.wf (bPlan major sfu x c s).effect.mem = true := by
  unfold bPlan
  repeat' split
  all_goals simp (maxDischargeDepth := 30) [hm]

end Sys2Proof.Machine
end

