-- ==== Sys2Proof/Laws/Wf/Engine.lean ====
section
/-! SUPPORT. What Engine does keeps the canonical form of memory. -/

namespace Sys2Proof.Machine

@[simp] theorem State.modEngine_wf {s : State} (quad : Nat) (f : Engine → Engine) (hm : Memory.wf s.mem = true) :
    Memory.wf (State.modEngine s quad f).mem = true := by
  unfold State.modEngine
  simp (maxDischargeDepth := 30) [hm]

@[simp] theorem State.unretryQuad_wf {s : State} (quad : Nat) (hm : Memory.wf s.mem = true) :
    Memory.wf (State.unretryQuad s quad).mem = true := by
  unfold State.unretryQuad
  simp (maxDischargeDepth := 30) [hm]

@[simp] theorem State.writeTile_wf {s : State} (r : TeamRef) (idx : Nat) (t : Nat) (ws : List Word) (hm : Memory.wf s.mem = true) :
    Memory.wf (State.writeTile s r idx t ws).mem = true := by
  unfold State.writeTile
  simp (maxDischargeDepth := 30) [hm]

@[simp] theorem State.failed_wf {s : State} (f : FaultInfo) (hm : Memory.wf s.mem = true) :
    Memory.wf (State.failed s f).s.mem = true := by
  unfold State.failed
  simp (maxDischargeDepth := 30) [hm]

@[simp] theorem State.orFlagsOf_wf {s : State} (g : GroupRef) (f : Flags) (hm : Memory.wf s.mem = true) :
    Memory.wf (State.orFlagsOf s g f).mem = true := by
  unfold State.orFlagsOf
  simp (maxDischargeDepth := 30) [hm]

@[simp] theorem State.putLanes_wf {s : State} (g : GroupRef) (code : Byte) (vals : List Word) (exec : Mask) (hm : Memory.wf s.mem = true) :
    Memory.wf (State.putLanes s g code vals exec).mem = true := by
  unfold State.putLanes
  simp (maxDischargeDepth := 30) [hm]

@[simp] theorem State.putScalar_wf {s : State} (g : GroupRef) (code : Byte) (v : Word) (hm : Memory.wf s.mem = true) :
    Memory.wf (State.putScalar s g code v).mem = true := by
  unfold State.putScalar
  simp (maxDischargeDepth := 30) [hm]

@[simp] theorem State.withSlot_wf {s : State} {e : EngEntry} {idx q : Nat} {readsA : OrthWord → List Nat} {readsB : OrthWord → Bool}
    {f : QBind → OrthWord → Performed} (hf : ∀ b w, Memory.wf (f b w).s.mem = true) (hm : Memory.wf s.mem = true) :
    Memory.wf (s.withSlot e idx q readsA readsB f).s.mem = true := by
  unfold State.withSlot
  split
  · simp (maxDischargeDepth := 30) [hm]
  · dsimp only
    split
    · simp (maxDischargeDepth := 30) [hm]
    · exact hf _ _

@[simp] theorem State.putOrth_wf {s : State} (e : EngEntry) (idx : Nat) (b : QBind) (o : OrthOut) (hm : Memory.wf s.mem = true) :
    Memory.wf (State.putOrth s e idx b o).mem = true := by
  unfold State.putOrth
  split <;> simp (maxDischargeDepth := 30) [hm]

theorem moveRows_wf {row : Nat → State → Except (Nat × LocErr) State}
    (hr : ∀ r s t, Memory.wf s.mem = true → row r s = .ok t → Memory.wf t.mem = true) {rs : List Nat} {s : State}
    (hm : Memory.wf s.mem = true) : Memory.wf (moveRows row rs s).1.mem = true := by
  induction rs generalizing s with
  | nil => exact hm
  | cons r rs ih =>
    unfold moveRows
    split
    · exact hm
    · rename_i h
      exact ih (hr _ _ _ hm h)

@[simp] theorem rowsDone_wf {before : State} {l : Launch} {core : Nat} {dest : Bool} {r : State × Option (Nat × Nat × LocErr)}
    (hr : Memory.wf r.1.mem = true) : Memory.wf (rowsDone before l core dest r).s.mem = true := by
  unfold rowsDone
  split
  · exact hr
  · split <;> exact hr

@[simp] theorem State.mld_wf {s : State} (l : Launch) (e : EngEntry) (idx t : Nat) (ep : Dword) (pitch : Nat) (fmt : ElemFmt)
    (err : Option DataErr) (late : Bool) (hm : Memory.wf s.mem = true) :
    Memory.wf (s.mld l e idx t ep pitch fmt err late).s.mem = true := by
  refine rowsDone_wf (moveRows_wf ?_ hm)
  intro r st u h e
  split at e
  · cases e
  · split at e
    · cases e
    · dsimp only at e
      split at e
      · cases e
      · cases e
        exact h

@[simp] theorem State.mst_wf {s : State} (l : Launch) (e : EngEntry) (idx t : Nat) (ep : Dword) (pitch : Nat) (fmt : ElemFmt)
    (round : Nat) (sr : List Word) (late : Bool) (hm : Memory.wf s.mem = true) :
    Memory.wf (s.mst l e idx t ep pitch fmt round sr late).s.mem = true := by
  refine rowsDone_wf (moveRows_wf ?_ hm)
  intro r st u h e
  split at e
  · cases e
  · split at e
    · cases e
    · cases e
    · cases e
      simp [h]

@[simp] theorem State.performOp_wf {s : State} (e : EngEntry) (err : Option DataErr) (late : Bool) (hm : Memory.wf s.mem = true) :
    Memory.wf (State.performOp s e err late).s.mem = true := by
  unfold State.performOp
  split
  · dsimp only
    split
    · exact hm
    · split
      · simp (maxDischargeDepth := 30) [hm]
      · split
        · simp (maxDischargeDepth := 30) [hm]
        · simp (maxDischargeDepth := 30) [hm]
    · exact State.writeTile_wf _ _ _ _ hm
    · exact State.mld_wf _ _ _ _ _ _ _ _ _ hm
    · exact State.mst_wf _ _ _ _ _ _ _ _ _ _ hm
    · simp (maxDischargeDepth := 30) [hm]
    · exact State.modTeam_wf _ _ hm
    · exact State.modTeam_wf _ _ (State.writeTile_wf _ _ _ _ hm)
    · refine State.withSlot_wf (fun b w => ?_) hm
      split
      · split <;> simp (maxDischargeDepth := 30) [hm]
      · simp (maxDischargeDepth := 30) [hm]
    · refine State.withSlot_wf (fun b w => ?_) hm
      split <;> simp (maxDischargeDepth := 30) [hm]
    · exact State.withSlot_wf (fun b w => by simp (maxDischargeDepth := 30) [hm]) hm
    · refine State.withSlot_wf (fun b w => ?_) hm
      split <;> simp (maxDischargeDepth := 30) [hm]
    · simp (maxDischargeDepth := 30) [hm]
    · exact State.withSlot_wf (fun b w => by simp (maxDischargeDepth := 30) [hm]) hm
    · simp (maxDischargeDepth := 30) [hm]
  · exact hm

@[simp] theorem State.finishOp_wf {s : State} (e : EngEntry) (f : Option FaultInfo) (hm : Memory.wf s.mem = true) :
    Memory.wf (State.finishOp s e f).mem = true := by
  unfold State.finishOp
  simp (maxDischargeDepth := 30) [hm]

@[simp] theorem State.engineStart_wf {s : State} (quad : Nat) (hm : Memory.wf s.mem = true) :
    Memory.wf (State.engineStart s quad).mem = true := by
  unfold State.engineStart
  dsimp only
  repeat' split
  all_goals simp +contextual (maxDischargeDepth := 30) [hm]

@[simp] theorem State.failLd_wf {s : State} (e : EngEntry) (f : FaultInfo) (hm : Memory.wf s.mem = true) :
    Memory.wf (State.failLd s e f).mem = true := by
  unfold State.failLd
  simp (maxDischargeDepth := 30) [hm]

@[simp] theorem State.engineEnd_wf {s : State} (quad : Nat) (e : EngEntry) (f : Option FaultInfo) (hm : Memory.wf s.mem = true) :
    Memory.wf (State.engineEnd s quad e f).mem = true := by
  unfold State.engineEnd
  split <;> simp (maxDischargeDepth := 30) [hm]

@[simp] theorem State.replayEngine_wf {s : State} (quad : Nat) (t : Team) (e : EngEntry) (addr : Nat) (level : Nat) (row : Nat) (out : Bool) (hm : Memory.wf s.mem = true) :
    Memory.wf (State.replayEngine s quad t e addr level row out).mem = true := by
  unfold State.replayEngine
  simp (maxDischargeDepth := 30) [hm]

@[simp] theorem State.engineStep_wf {s : State} (quad : Nat) (t : Team) (l : Launch) (e : EngEntry) (err : Option DataErr) (late : Bool)
    (hm : Memory.wf s.mem = true) : Memory.wf (State.engineStep s quad t l e err late).mem = true := by
  unfold State.engineStep
  dsimp only
  split <;> simp (maxDischargeDepth := 30) [hm]

@[simp] theorem State.engineDone_wf {s : State} (quad : Nat) (err : Option DataErr) (hm : Memory.wf s.mem = true) :
    Memory.wf (State.engineDone s quad err).mem = true := by
  unfold State.engineDone
  dsimp only
  repeat' split
  all_goals simp +contextual (maxDischargeDepth := 30) [hm]

@[simp] theorem State.leaseIdle_wf {s : State} (quad : Nat) (hm : Memory.wf s.mem = true) :
    Memory.wf (State.leaseIdle s quad).mem = true := by
  unfold State.leaseIdle
  simp (maxDischargeDepth := 30) [hm]

@[simp] theorem State.tickEngines_wf {s : State} (cluster : Nat) (hm : Memory.wf s.mem = true) :
    Memory.wf (State.tickEngines s cluster).mem = true := by
  unfold State.tickEngines
  simp (maxDischargeDepth := 30) [hm]

@[simp] theorem State.leaveEngine_wf {s : State} (t : TeamRef) (core : Nat) (drop : EngEntry → Bool) (hm : Memory.wf s.mem = true) :
    Memory.wf (State.leaveEngine s t core drop).mem = true := by
  unfold State.leaveEngine
  simp (maxDischargeDepth := 30) [hm]

@[simp] theorem Ctx.addEng_wf {s : State} (c : Ctx) (op : EngOp) (tiles : List Nat) (dests : List Byte) (logs : List LogKey) (sectors : List Nat) (outbound : Bool) (ld : Bool) (hm : Memory.wf s.mem = true) :
    Memory.wf (Ctx.addEng c op tiles dests logs sectors outbound ld s).mem = true := by
  unfold Ctx.addEng
  simp (maxDischargeDepth := 30) [hm]

end Sys2Proof.Machine
end

