-- ==== Sys2Proof/Laws/Wf/Place.lean ====
section
/-! SUPPORT. What Place does keeps the canonical form of memory. -/

namespace Sys2Proof.Machine

@[simp] theorem State.reshare_wf {s : State}  (hm : Memory.wf s.mem = true) :
    Memory.wf (State.reshare s).mem = true := by
  unfold State.reshare
  simp (maxDischargeDepth := 30) [hm]

end Sys2Proof.Machine
end

