-- ==== Sys2Proof/Laws/Wf/Fetch.lean ====
section
/-! SUPPORT. What Fetch does keeps the canonical form of memory. -/

namespace Sys2Proof.Machine

@[simp] theorem State.afterStep_wf {s : State} (r : GroupRef) (hm : Memory.wf s.mem = true) :
    Memory.wf (State.afterStep s r).mem = true := by
  unfold State.afterStep
  dsimp only
  repeat' split
  all_goals simp +contextual (maxDischargeDepth := 30) [hm]

end Sys2Proof.Machine
end

