-- ==== Sys2Proof/Laws/Wf/Queue.lean ====
section
/-! SUPPORT. What Queue does keeps the canonical form of memory. -/

namespace Sys2Proof.Machine

@[simp] theorem State.putQueue_wf {s : State} (q : Queue) (hm : Memory.wf s.mem = true) :
    Memory.wf (State.putQueue s q).mem = true := by
  unfold State.putQueue
  simp (maxDischargeDepth := 30) [hm]

@[simp] theorem State.noteQueue_wf {s : State} (q : Queue) (hm : Memory.wf s.mem = true) :
    Memory.wf (State.noteQueue s q).mem = true := by
  unfold State.noteQueue
  simp (maxDischargeDepth := 30) [hm]

@[simp] theorem State.saveQueue_wf {s : State} (q : Queue) (hm : Memory.wf s.mem = true) :
    Memory.wf (State.saveQueue s q).mem = true := by
  unfold State.saveQueue
  simp (maxDischargeDepth := 30) [hm]

@[simp] theorem State.setQueue_wf {s : State} (q : Queue) (hm : Memory.wf s.mem = true) :
    Memory.wf (State.setQueue s q).mem = true := by
  unfold State.setQueue
  simp (maxDischargeDepth := 30) [hm]

@[simp] theorem State.queueError_wf {s : State} (q : Queue) (code : Nat) (field : Nat) (hm : Memory.wf s.mem = true) :
    Memory.wf (State.queueError s q code field).mem = true := by
  unfold State.queueError
  simp (maxDischargeDepth := 30) [hm]

@[simp] theorem State.readWridx_wf {s : State} (k : QueueKey) (hm : Memory.wf s.mem = true) :
    Memory.wf (State.readWridx s k).mem = true := by
  unfold State.readWridx
  simp (maxDischargeDepth := 30) [hm]

@[simp] theorem State.refill_wf {s : State} (k : QueueKey) (hm : Memory.wf s.mem = true) :
    Memory.wf (State.refill s k).mem = true := by
  unfold State.refill
  try dsimp only
  repeat' split
  all_goals first
    | with_reducible exact hm
    | simp +contextual (maxDischargeDepth := 30) [hm]

@[simp] theorem State.performed_wf {s : State} (k : QueueKey) (n : Nat) (hm : Memory.wf s.mem = true) :
    Memory.wf (State.performed s k n).mem = true := by
  unfold State.performed
  try dsimp only
  repeat' split
  all_goals first
    | with_reducible exact hm
    | simp +contextual (maxDischargeDepth := 30) [hm]

@[simp] theorem State.testFence_wf {s : State} (k : QueueKey) (hm : Memory.wf s.mem = true) :
    Memory.wf (State.testFence s k).mem = true := by
  unfold State.testFence
  try dsimp only
  repeat' split
  all_goals first
    | with_reducible exact hm
    | simp +contextual (maxDischargeDepth := 30) [hm]

@[simp] theorem State.testFences_wf {s : State}  (hm : Memory.wf s.mem = true) :
    Memory.wf (State.testFences s).mem = true := by
  unfold State.testFences
  try dsimp only
  repeat' split
  all_goals first
    | with_reducible exact hm
    | simp +contextual (maxDischargeDepth := 30) [hm]
    | (refine foldl_wf (fun s a hm => ?_) (by simp +contextual (maxDischargeDepth := 30) [hm])
       try dsimp only
       repeat' split
       all_goals simp +contextual (maxDischargeDepth := 30) [hm])

@[simp] theorem State.setPending_wf {s : State} (k : QueueKey) (on : Bool) (hm : Memory.wf s.mem = true) :
    Memory.wf (State.setPending s k on).mem = true := by
  unfold State.setPending
  simp (maxDischargeDepth := 30) [hm]

@[simp] theorem State.mapQueue_wf {s : State} (k : QueueKey) (slot : Nat) (reason : Nat) (hm : Memory.wf s.mem = true) :
    Memory.wf (State.mapQueue s k slot reason).mem = true := by
  unfold State.mapQueue
  simp (maxDischargeDepth := 30) [hm]

@[simp] theorem State.evictQueue_wf {s : State} (k : QueueKey) (hm : Memory.wf s.mem = true) :
    Memory.wf (State.evictQueue s k).mem = true := by
  unfold State.evictQueue
  simp (maxDischargeDepth := 30) [hm]

@[simp] theorem State.kickQueue_wf {s : State} (k : QueueKey) (hm : Memory.wf s.mem = true) :
    Memory.wf (State.kickQueue s k).mem = true := by
  unfold State.kickQueue
  dsimp only
  repeat' split
  all_goals simp +contextual (maxDischargeDepth := 30) [hm]

@[simp] theorem State.kickPending_wf {s : State} (v : VdevKey) (pending : Mask) (hm : Memory.wf s.mem = true) :
    Memory.wf (State.kickPending s v pending).mem = true := by
  unfold State.kickPending
  try dsimp only
  repeat' split
  all_goals first
    | with_reducible exact hm
    | simp +contextual (maxDischargeDepth := 30) [hm]
    | exact foldl_wf (fun s a h => by simp (maxDischargeDepth := 30) [h]) hm

@[simp] theorem State.redo_wf {s : State} (x : Late) (hm : Memory.wf s.mem = true) : Memory.wf (State.redo s x).mem = true := by
  unfold State.redo
  split <;> simp (maxDischargeDepth := 30) [hm]

@[simp] theorem State.catchUp_wf {s : State} (hm : Memory.wf s.mem = true) : Memory.wf (State.catchUp s).mem = true := by
  unfold State.catchUp
  exact State.testFences_wf (foldl_wf (fun s x h => State.redo_wf x h) hm)

end Sys2Proof.Machine
end

