-- ==== Sys2Proof/Laws/Wf/Rope.lean ====
section
/-! SUPPORT. What Rope does keeps the canonical form of memory. -/

namespace Sys2Proof.Machine

@[simp] theorem State.lendAll_wf {s : State} (gs : List GroupRef) (hm : Memory.wf s.mem = true) :
    Memory.wf (State.lendAll s gs).mem = true := by
  unfold State.lendAll
  try dsimp only
  repeat' split
  all_goals first
    | with_reducible exact hm
    | simp +contextual (maxDischargeDepth := 30) [hm]
    | (refine foldl_wf (fun s a hm => ?_) (by simp +contextual (maxDischargeDepth := 30) [hm])
       try dsimp only
       repeat' split
       all_goals simp +contextual (maxDischargeDepth := 30) [hm])

@[simp] theorem planRecruit_wf {s : State} (x : XF) (c : Ctx) (hm : Memory.wf s.mem = true) :
    Memory.wf (planRecruit x c s).effect.mem = true := by
  unfold planRecruit
  simp (maxDischargeDepth := 30) [hm]

@[simp] theorem planRopered_wf {s : State} (x : XF) (c : Ctx) (hm : Memory.wf s.mem = true) :
    Memory.wf (planRopered x c s).effect.mem = true := by
  unfold planRopered
  simp (maxDischargeDepth := 30) [hm]

@[simp] theorem State.applyOne_wf {s : State} (ref : GroupRef) (r : Rope) (reg : Byte) (hm : Memory.wf s.mem = true) :
    Memory.wf (State.applyOne s ref r reg).mem = true := by
  unfold State.applyOne
  split <;> simp (maxDischargeDepth := 30) [hm]

@[simp] theorem Ctx.endRope_wf {s : State} (c : Ctx) (r : Rope) (hm : Memory.wf s.mem = true) :
    Memory.wf (Ctx.endRope c r s).mem = true := by
  unfold Ctx.endRope
  dsimp only
  repeat' split
  all_goals simp +contextual (maxDischargeDepth := 30) [hm]

@[simp] theorem planRopeend_wf {s : State} (c : Ctx) (hm : Memory.wf s.mem = true) :
    Memory.wf (planRopeend c s).effect.mem = true := by
  unfold planRopeend
  split <;> simp (maxDischargeDepth := 30) [hm]

end Sys2Proof.Machine
end

