-- ==== Sys2Proof/Laws/Wf/Work.lean ====
section
/-! SUPPORT. What Work does keeps the canonical form of memory. -/

namespace Sys2Proof.Machine

@[simp] theorem planTfetch_wf {s : State} (x : XF) (c : Ctx) (hm : Memory.wf s.mem = true) :
    Memory.wf (planTfetch x c s).effect.mem = true := by
  unfold planTfetch
  simp (maxDischargeDepth := 30) [hm]

@[simp] theorem State.appendPackets_wf {s : State} (k : QueueKey) (pkts : List (List Byte)) (hm : Memory.wf s.mem = true) :
    Memory.wf (State.appendPackets s k pkts).mem = true := by
  unfold State.appendPackets
  dsimp only
  repeat' split
  all_goals simp +contextual (maxDischargeDepth := 30) [hm]

@[simp] theorem planLaunch_wf {s : State} (x : XF) (c : Ctx) (hm : Memory.wf s.mem = true) :
    Memory.wf (planLaunch x c s).effect.mem = true := by
  unfold planLaunch
  simp (maxDischargeDepth := 30) [hm]

@[simp] theorem planSvc_wf {s : State} (x : XF) (c : Ctx) (hm : Memory.wf s.mem = true) :
    Memory.wf (planSvc x c s).effect.mem = true := by
  unfold planSvc
  simp (maxDischargeDepth := 30) [hm]

@[simp] theorem planCkpt_wf {s : State} (c : Ctx) (hm : Memory.wf s.mem = true) :
    Memory.wf (planCkpt c s).effect.mem = true := by
  unfold planCkpt
  simp (maxDischargeDepth := 30) [hm]

@[simp] theorem planRdcnt_wf {s : State} (x : XF) (c : Ctx) (hm : Memory.wf s.mem = true) :
    Memory.wf (planRdcnt x c s).effect.mem = true := by
  unfold planRdcnt
  simp (maxDischargeDepth := 30) [hm]

end Sys2Proof.Machine
end

