-- ==== Sys2Proof/Laws/Wf/GroupEv.lean ====
section
/-! SUPPORT. What GroupEv does keeps the canonical form of memory. -/

namespace Sys2Proof.Machine

@[simp] theorem State.squareGrant_wf {s : State} (t : TeamRef) (part : Nat) (hm : Memory.wf s.mem = true) :
    Memory.wf (State.squareGrant s t part).mem = true := by
  unfold State.squareGrant
  try dsimp only
  repeat' split
  all_goals first
    | with_reducible exact hm
    | simp +contextual (maxDischargeDepth := 30) [hm]

@[simp] theorem State.completeStop_wf {s : State} (r : GroupRef) (hm : Memory.wf s.mem = true) :
    Memory.wf (State.completeStop s r).mem = true := by
  unfold State.completeStop
  try dsimp only
  repeat' split
  all_goals first
    | with_reducible exact hm
    | simp +contextual (maxDischargeDepth := 30) [hm]

@[simp] theorem State.stopMet_wf {s : State} (r : GroupRef) (hm : Memory.wf s.mem = true) :
    Memory.wf (State.stopMet s r).mem = true := by
  unfold State.stopMet
  try dsimp only
  repeat' split
  all_goals first
    | with_reducible exact hm
    | simp +contextual (maxDischargeDepth := 30) [hm]

@[simp] theorem State.starvation_wf {s : State} (t : TeamRef) (part : Nat) (hm : Memory.wf s.mem = true) :
    Memory.wf (State.starvation s t part).mem = true := by
  unfold State.starvation
  split <;> simp (maxDischargeDepth := 30) [hm]

@[simp] theorem State.starvationAct_wf {s : State} (t : TeamRef) (part : Nat) (hm : Memory.wf s.mem = true) :
    Memory.wf (State.starvationAct s t part).mem = true := by
  unfold State.starvationAct
  dsimp only
  repeat' split
  all_goals simp +contextual (maxDischargeDepth := 30) [hm]

@[simp] theorem State.land_wf {s : State} (g : GroupRef) (n : Nat) (bad : Byte → Option (Nat × List Nat)) (d : Deliver) (hm : Memory.wf s.mem = true) :
    Memory.wf (State.land s g n bad d).mem = true := by
  unfold State.land
  try dsimp only
  repeat' split
  all_goals first
    | with_reducible exact hm
    | simp +contextual (maxDischargeDepth := 30) [hm]

@[simp] theorem State.accessFault_wf {s : State} (g : GroupRef) (seq : Nat) (pc : Dword) (f : FaultInfo) (hm : Memory.wf s.mem = true) :
    Memory.wf (State.accessFault s g seq pc f).mem = true := by
  unfold State.accessFault
  try dsimp only
  repeat' split
  all_goals first
    | with_reducible exact hm
    | simp +contextual (maxDischargeDepth := 30) [hm]

@[simp] theorem State.inFaultTurn_wf {s t : State} (r : GroupRef) (hs : Memory.wf s.mem = true) (ht : Memory.wf t.mem = true) :
    Memory.wf (State.inFaultTurn s r t).mem = true := by
  unfold State.inFaultTurn
  split <;> assumption

@[simp] theorem State.programMark_wf {s : State} (l : Launch) (g : GroupRef) (arg : Dword) (hm : Memory.wf s.mem = true) :
    Memory.wf (State.programMark s l g arg).1.mem = true := by
  unfold State.programMark
  dsimp only
  split <;> simp (maxDischargeDepth := 30) [hm]

@[simp] theorem State.loadArrival_wf {s : State} (g : GroupRef) (seq : Nat) (err : Option DataErr) (hm : Memory.wf s.mem = true) :
    Memory.wf (State.loadArrival s g seq err).mem = true := by
  unfold State.loadArrival
  try dsimp only
  repeat' split
  all_goals first
    | with_reducible exact hm
    | simp +contextual (maxDischargeDepth := 30) [hm]

@[simp] theorem State.storeDone_wf {s : State} (g : GroupRef) (seq : Nat) (hm : Memory.wf s.mem = true) :
    Memory.wf (State.storeDone s g seq).mem = true := by
  unfold State.storeDone
  try dsimp only
  repeat' split
  all_goals first
    | with_reducible exact hm
    | simp +contextual (maxDischargeDepth := 30) [hm]

@[simp] theorem State.retireCredit_wf {s : State} (g : GroupRef) (cls : CreditClass) (hm : Memory.wf s.mem = true) :
    Memory.wf (State.retireCredit s g cls).mem = true := by
  unfold State.retireCredit
  repeat' split
  all_goals simp (maxDischargeDepth := 30) [hm]

@[simp] theorem State.startPreempt_wf {s : State} (n : Nat) (reason : Nat) (hm : Memory.wf s.mem = true) :
    Memory.wf (State.startPreempt s n reason).mem = true := by
  unfold State.startPreempt
  split <;> simp (maxDischargeDepth := 30) [hm]

@[simp] theorem State.service_wf {s : State} (l : Launch) (g : GroupRef) (n : Nat) (arg : Dword) (hm : Memory.wf s.mem = true) :
    Memory.wf (State.service s l g n arg).1.mem = true := by
  unfold State.service
  split <;> simp (maxDischargeDepth := 30) [hm]

@[simp] theorem State.svcDone_wf {s : State} (g : GroupRef) (hm : Memory.wf s.mem = true) :
    Memory.wf (State.svcDone s g).mem = true := by
  unfold State.svcDone
  dsimp only
  repeat' split
  all_goals simp +contextual (maxDischargeDepth := 30) [hm]

@[simp] theorem State.modEntry_wf {s : State} (quad : Nat) (age : Nat) (f : EngEntry → EngEntry) (hm : Memory.wf s.mem = true) :
    Memory.wf (State.modEntry s quad age f).mem = true := by
  unfold State.modEntry
  simp (maxDischargeDepth := 30) [hm]

@[simp] theorem State.walkDone_wf {s : State} (w : Waiter) (hm : Memory.wf s.mem = true) :
    Memory.wf (State.walkDone s w).mem = true := by
  unfold State.walkDone
  repeat' split
  all_goals simp (maxDischargeDepth := 30) [hm]

@[simp] theorem State.replayEnd_wf {s : State} (w : Waiter) (hm : Memory.wf s.mem = true) :
    Memory.wf (State.replayEnd s w).mem = true := by
  unfold State.replayEnd
  repeat' split
  all_goals simp (maxDischargeDepth := 30) [hm]

@[simp] theorem State.linkEnd_wf {s : State} (w : Waiter) (hm : Memory.wf s.mem = true) :
    Memory.wf (State.linkEnd s w).mem = true := by
  unfold State.linkEnd
  repeat' split
  all_goals simp (maxDischargeDepth := 30) [hm]

@[simp] theorem State.repay_wf {s : State} (cluster : Nat) (hm : Memory.wf s.mem = true) :
    Memory.wf (State.repay s cluster).mem = true := by
  unfold State.repay
  try dsimp only
  repeat' split
  all_goals first
    | with_reducible exact hm
    | simp +contextual (maxDischargeDepth := 30) [hm]

@[simp] theorem State.removeTeam_wf {s : State} (t : Team) (hm : Memory.wf s.mem = true) :
    Memory.wf (State.removeTeam s t).mem = true := by
  unfold State.removeTeam
  try dsimp only
  repeat' split
  all_goals first
    | with_reducible exact hm
    | simp +contextual (maxDischargeDepth := 30) [hm]

@[simp] theorem State.retireTeam_wf {s : State} (r : TeamRef) (hm : Memory.wf s.mem = true) :
    Memory.wf (State.retireTeam s r).mem = true := by
  unfold State.retireTeam
  dsimp only
  repeat' split
  all_goals simp +contextual (maxDischargeDepth := 30) [hm]

end Sys2Proof.Machine
end

