-- ==== Sys2Proof/Laws/Wf/Camp.lean ====
section
/-! SUPPORT. What Camp does keeps the canonical form of memory. -/

namespace Sys2Proof.Machine

@[simp] theorem State.takeCamp_wf {s : State} (r : TeamRef) (hm : Memory.wf s.mem = true) :
    Memory.wf (State.takeCamp s r).mem = true := by
  unfold State.takeCamp
  split <;> simp (maxDischargeDepth := 30) [hm]

@[simp] theorem State.campInterval_wf {s : State} (r : TeamRef) (hm : Memory.wf s.mem = true) :
    Memory.wf (State.campInterval s r).mem = true := by
  unfold State.campInterval
  split <;> simp (maxDischargeDepth := 30) [hm]

theorem undoBytes_wf {u : List (Nat × Byte)} {k : Nat} {m : List Host.Cell} (hm : Memory.wf m = true) :
    Memory.wf (u.foldl (fun m b => cellWrite m (k + b.1) b.2) m) = true := by
  induction u generalizing m with
  | nil => exact hm
  | cons b bs ih => exact ih (cellWrite_wf hm)

@[simp] theorem State.undoSectors_wf {s : State} (us : List UndoSector) (hm : Memory.wf s.mem = true) :
    Memory.wf (State.undoSectors s us).mem = true := by
  refine foldl_wf (fun s u hm => ?_) hm
  dsimp only
  have h := undoBytes_wf (u := u.old) (k := 32 * u.sector) hm
  repeat' split
  · exact State.poisonSector_wf _ _ h
  · exact State.cleanSector_wf _ h
  · exact h

@[simp] theorem State.dropRopes_wf {s : State} (t : Team) (hm : Memory.wf s.mem = true) :
    Memory.wf (State.dropRopes s t).mem = true := by
  unfold State.dropRopes
  try dsimp only
  repeat' split
  all_goals first
    | with_reducible exact hm
    | simp +contextual (maxDischargeDepth := 30) [hm]
    | (refine foldl_wf (fun s a hm => ?_) (by simp +contextual (maxDischargeDepth := 30) [hm])
       try dsimp only
       repeat' split
       all_goals simp +contextual (maxDischargeDepth := 30) [hm])

@[simp] theorem State.retestTeam_wf {s : State} (t : TeamRef) (hm : Memory.wf s.mem = true) :
    Memory.wf (State.retestTeam s t).mem = true := by
  unfold State.retestTeam
  split <;> simp (maxDischargeDepth := 30) [hm]

@[simp] theorem State.lostLog_wf {s : State} (t : Team) (hm : Memory.wf s.mem = true) :
    Memory.wf (State.lostLog s t).mem = true := by
  have h : ∀ l : List (GroupRef × Group), ∀ f : State → GroupRef × Group → State,
      (∀ s e, Memory.wf s.mem = true → Memory.wf (f s e).mem = true) → Memory.wf (l.foldl f s).mem = true :=
    fun l f hf => foldl_wf hf hm
  unfold State.lostLog
  dsimp only
  refine State.modTeam_wf _ _ (h _ _ (fun s e hm => ?_))
  repeat' split
  all_goals simp (maxDischargeDepth := 30) [hm]

@[simp] theorem State.rollTeam_wf {s : State} (t : Team) (hm : Memory.wf s.mem = true) :
    Memory.wf (State.rollTeam s t).mem = true := by
  unfold State.rollTeam
  simp (maxDischargeDepth := 30) [hm]

@[simp] theorem State.quotaFault_wf {s : State} (t : Team) (r : GroupRef) (rope : Rope) (inner : Nat) (hm : Memory.wf s.mem = true) :
    Memory.wf (State.quotaFault s t r rope inner).mem = true := by
  unfold State.quotaFault
  simp (maxDischargeDepth := 30) [hm]

@[simp] theorem State.logRollback_wf {s : State} (t : Team) (hm : Memory.wf s.mem = true) :
    Memory.wf (State.logRollback s t).mem = true := by
  unfold State.logRollback
  try dsimp only
  repeat' split
  all_goals first
    | with_reducible exact hm
    | simp +contextual (maxDischargeDepth := 30) [hm]

@[simp] theorem State.ropeLogFull_wf {s : State} (core : Nat) (t : Team) (hm : Memory.wf s.mem = true) :
    Memory.wf (State.ropeLogFull s core t).mem = true := by
  unfold State.ropeLogFull
  dsimp only
  repeat' split
  all_goals simp +contextual (maxDischargeDepth := 30) [hm]

@[simp] theorem State.undoFull_wf {s : State} (core : Nat) (hm : Memory.wf s.mem = true) :
    Memory.wf (State.undoFull s core).mem = true := by
  unfold State.undoFull
  dsimp only
  repeat' split
  all_goals simp +contextual (maxDischargeDepth := 30) [hm]

@[simp] theorem State.saveTeam_wf {s : State} (r : TeamRef) (hm : Memory.wf s.mem = true) :
    Memory.wf (State.saveTeam s r).mem = true := by
  unfold State.saveTeam
  dsimp only
  repeat' split
  all_goals simp +contextual (maxDischargeDepth := 30) [hm]

@[simp] theorem State.eachLock_wf {s : State} (t : Team) (f : SyncObj → SyncObj) (hm : Memory.wf s.mem = true) :
    Memory.wf (State.eachLock s t f).mem = true := by
  unfold State.eachLock
  try dsimp only
  repeat' split
  all_goals first
    | with_reducible exact hm
    | simp +contextual (maxDischargeDepth := 30) [hm]
    | (refine foldl_wf (fun s a hm => ?_) (by simp +contextual (maxDischargeDepth := 30) [hm])
       try dsimp only
       repeat' split
       all_goals simp +contextual (maxDischargeDepth := 30) [hm])

@[simp] theorem State.markLocks_wf {s : State} (r : TeamRef) (hm : Memory.wf s.mem = true) :
    Memory.wf (State.markLocks s r).mem = true := by
  unfold State.markLocks
  split <;> simp (maxDischargeDepth := 30) [hm]

@[simp] theorem State.settlePreempt_wf {s : State} (l : Launch) (hm : Memory.wf s.mem = true) :
    Memory.wf (State.settlePreempt s l).mem = true := by
  unfold State.settlePreempt
  dsimp only
  repeat' split
  all_goals simp +contextual (maxDischargeDepth := 30) [hm]

@[simp] theorem State.settleRoll_wf {s : State} (t : Team) (hm : Memory.wf s.mem = true) :
    Memory.wf (State.settleRoll s t).mem = true := by
  unfold State.settleRoll
  split <;> simp (maxDischargeDepth := 30) [hm]

end Sys2Proof.Machine
end

