-- ==== Sys2Proof/Laws/Wf/Launches.lean ====
section
/-! SUPPORT. What Launches does keeps the canonical form of memory. -/

namespace Sys2Proof.Machine

@[simp] theorem State.modDistrict_wf {s : State} (d : Nat) (f : District → District) (hm : Memory.wf s.mem = true) :
    Memory.wf (State.modDistrict s d f).mem = true := by
  unfold State.modDistrict
  simp (maxDischargeDepth := 30) [hm]

@[simp] theorem State.settleQuota_wf {s : State} (d : Nat) (hm : Memory.wf s.mem = true) :
    Memory.wf (State.settleQuota s d).mem = true := by
  unfold State.settleQuota
  repeat' split
  all_goals simp (maxDischargeDepth := 30) [hm]

@[simp] theorem State.settleQuotas_wf {s : State} (hm : Memory.wf s.mem = true) : Memory.wf (State.settleQuotas s).mem = true := by
  unfold State.settleQuotas
  dsimp only
  split
  · exact foldl_wf (fun s d h => State.modDistrict_wf _ _ h) hm
  · exact foldl_wf (fun s d h => State.settleQuota_wf d h) hm

@[simp] theorem State.putStatus_wf {s : State} (l : Launch) (status : Nat) (hm : Memory.wf s.mem = true) :
    Memory.wf (State.putStatus s l status).mem = true := by
  unfold State.putStatus
  simp (maxDischargeDepth := 30) [hm]

@[simp] theorem State.dropLaunch_wf {s : State} (l : Launch) (hm : Memory.wf s.mem = true) :
    Memory.wf (State.dropLaunch s l).mem = true := by
  unfold State.dropLaunch
  simp (maxDischargeDepth := 30) [hm]

@[simp] theorem State.admitLaunch_wf {s : State} (k : QueueKey) (p : List Byte) (hm : Memory.wf s.mem = true) :
    Memory.wf (State.admitLaunch s k p).mem = true := by
  unfold State.admitLaunch
  simp (maxDischargeDepth := 30) [hm]

@[simp] theorem State.reclaim_wf {s : State} (d : Nat) (hm : Memory.wf s.mem = true) :
    Memory.wf (State.reclaim s d).mem = true := by
  unfold State.reclaim
  split <;> simp (maxDischargeDepth := 30) [hm]

@[simp] theorem State.reclaimAll_wf {s : State}  (hm : Memory.wf s.mem = true) :
    Memory.wf (State.reclaimAll s).mem = true := by
  unfold State.reclaimAll
  try dsimp only
  repeat' split
  all_goals first
    | with_reducible exact hm
    | simp +contextual (maxDischargeDepth := 30) [hm]
    | (refine foldl_wf (fun s a hm => ?_) (by simp +contextual (maxDischargeDepth := 30) [hm])
       try dsimp only
       repeat' split
       all_goals simp +contextual (maxDischargeDepth := 30) [hm])

@[simp] theorem State.rechoose_wf {s : State} (edge : Option Nat) (hm : Memory.wf s.mem = true) :
    Memory.wf (State.rechoose s edge).mem = true := by
  unfold State.rechoose
  dsimp only
  repeat' split
  all_goals simp +contextual (maxDischargeDepth := 30) [hm]

@[simp] theorem State.notePlace_wf {s : State} (l : Launch) (hm : Memory.wf s.mem = true) :
    Memory.wf (State.notePlace s l).mem = true := by
  unfold State.notePlace
  split <;> simp (maxDischargeDepth := 30) [hm]

@[simp] theorem State.place_wf {s : State} (l : Launch) (hm : Memory.wf s.mem = true) :
    Memory.wf (State.place s l).mem = true := by
  unfold State.place
  simp (maxDischargeDepth := 30) [hm]

@[simp] theorem State.placeLaunch_wf {s : State} (n : Nat) (hm : Memory.wf s.mem = true) :
    Memory.wf (State.placeLaunch s n).mem = true := by
  unfold State.placeLaunch
  dsimp only
  repeat' split
  all_goals simp +contextual (maxDischargeDepth := 30) [hm]

@[simp] theorem State.resumeTeam_wf {s : State} (l : Launch) (r : TeamRef) (order : Nat) (hm : Memory.wf s.mem = true) :
    Memory.wf (State.resumeTeam s l r order).mem = true := by
  unfold State.resumeTeam
  try dsimp only
  repeat' split
  all_goals first
    | with_reducible exact hm
    | simp +contextual (maxDischargeDepth := 30) [hm]

@[simp] theorem State.resume_wf {s : State} (l : Launch) (hm : Memory.wf s.mem = true) :
    Memory.wf (State.resume s l).mem = true := by
  unfold State.resume
  dsimp only
  repeat' split
  all_goals simp +contextual (maxDischargeDepth := 30) [hm]

@[simp] theorem State.resumeLaunch_wf {s : State} (n : Nat) (hm : Memory.wf s.mem = true) :
    Memory.wf (State.resumeLaunch s n).mem = true := by
  unfold State.resumeLaunch
  dsimp only
  repeat' split
  all_goals simp +contextual (maxDischargeDepth := 30) [hm]

@[simp] theorem State.endRight_wf {s : State} (r : DebugRight) (hm : Memory.wf s.mem = true) :
    Memory.wf (State.endRight s r).mem = true := by
  unfold State.endRight
  simp (maxDischargeDepth := 30) [hm]

@[simp] theorem State.endRightOf_wf {s : State} (n : Nat) (hm : Memory.wf s.mem = true) :
    Memory.wf (State.endRightOf s n).mem = true := by
  unfold State.endRightOf
  split <;> simp (maxDischargeDepth := 30) [hm]

@[simp] theorem State.finishLaunch_wf {s : State} (n : Nat) (hm : Memory.wf s.mem = true) :
    Memory.wf (State.finishLaunch s n).mem = true := by
  unfold State.finishLaunch
  split <;> simp (maxDischargeDepth := 30) [hm]

@[simp] theorem State.stopRecords_wf {s : State} (t : Team) (hm : Memory.wf s.mem = true) :
    Memory.wf (State.stopRecords s t).mem = true := by
  unfold State.stopRecords
  try dsimp only
  repeat' split
  all_goals first
    | with_reducible exact hm
    | simp +contextual (maxDischargeDepth := 30) [hm]
    | (refine foldl_wf (fun s a hm => ?_) (by simp +contextual (maxDischargeDepth := 30) [hm])
       try dsimp only
       repeat' split
       all_goals simp +contextual (maxDischargeDepth := 30) [hm])

@[simp] theorem State.replyTo_wf {s : State} (e : Fn × MbCtl) (result : Nat) (hm : Memory.wf s.mem = true) :
    Memory.wf (State.replyTo s e result).mem = true := by
  unfold State.replyTo
  simp (maxDischargeDepth := 30) [hm]

@[simp] theorem State.endSteps_wf {s : State} (t : Team) (hm : Memory.wf s.mem = true) :
    Memory.wf (State.endSteps s t).mem = true := by
  refine foldl_wf (fun s e hm => ?_) hm
  split
  · exact State.replyTo_wf _ _ hm
  · exact hm

@[simp] theorem State.discard_wf {s : State} (r : TeamRef) (hm : Memory.wf s.mem = true) :
    Memory.wf (State.discard s r).mem = true := by
  unfold State.discard
  dsimp only
  repeat' split
  all_goals simp +contextual (maxDischargeDepth := 30) [hm]

@[simp] theorem State.settleStop_wf {s : State} (n : Nat) (hm : Memory.wf s.mem = true) :
    Memory.wf (State.settleStop s n).mem = true := by
  unfold State.settleStop
  dsimp only
  repeat' split
  all_goals simp +contextual (maxDischargeDepth := 30) [hm]

@[simp] theorem State.settle_wf {s : State} (hm : Memory.wf s.mem = true) : Memory.wf (State.settle s).mem = true := by
  unfold State.settle
  refine State.settleQuotas_wf (foldl_wf (fun s l h => State.settleStop_wf l.num h)
    (foldl_wf (fun s l h => ?_) (foldl_wf (fun s t h => State.settleRoll_wf t h) hm)))
  split
  · exact State.settlePreempt_wf _ h
  · exact h

@[simp] theorem State.ageQueues_wf {s : State} (d : Nat) (hm : Memory.wf s.mem = true) :
    Memory.wf (State.ageQueues s d).mem = true := by
  unfold State.ageQueues
  dsimp only
  repeat' split
  all_goals simp +contextual (maxDischargeDepth := 30) [hm]

@[simp] theorem State.swapQueues_wf {s : State} {d n : Nat} (hm : Memory.wf s.mem = true) :
    Memory.wf (s.swapQueues d n).mem = true := by
  induction n generalizing s with
  | zero => exact hm
  | succ n ih =>
    unfold State.swapQueues
    split
    · exact ih (State.mapQueue_wf _ _ _ hm)
    · split
      · split
        · refine ih ?_
          split
          · exact State.mapQueue_wf _ _ _ hm
          · exact State.mapQueue_wf _ _ _ (State.evictQueue_wf _ hm)
        · exact hm
      · exact hm

@[simp] theorem State.lendSlice_wf {s : State} (d : Nat) (hm : Memory.wf s.mem = true) :
    Memory.wf (State.lendSlice s d).mem = true := by
  unfold State.lendSlice
  simp (maxDischargeDepth := 30) [hm]

@[simp] theorem State.settleLending_wf {s : State} (d : Nat) (hm : Memory.wf s.mem = true) :
    Memory.wf (State.settleLending s d).mem = true := by
  unfold State.settleLending
  try dsimp only
  repeat' split
  all_goals first
    | with_reducible exact hm
    | simp +contextual (maxDischargeDepth := 30) [hm]

@[simp] theorem State.sliceEnd_wf {s : State} (d : Nat) (hm : Memory.wf s.mem = true) :
    Memory.wf (State.sliceEnd s d).mem = true := by
  unfold State.sliceEnd
  have h : Memory.wf ((List.range 8).foldl State.repay s).mem = true := foldl_wf (fun s c h => State.repay_wf c h) hm
  repeat' split
  all_goals simp (maxDischargeDepth := 30) [hm, h]

end Sys2Proof.Machine
end

