-- ==== Sys2Proof/Laws/Wf/Packets.lean ====
section
/-! SUPPORT. What Packets does keeps the canonical form of memory. -/

namespace Sys2Proof.Machine

@[simp] theorem State.vput_wf {s : State} (sp : VSpace) (va : Nat) (bs : List Byte) (hm : Memory.wf s.mem = true) :
    Memory.wf (State.vput s sp va bs).mem = true := by
  unfold State.vput
  try dsimp only
  repeat' split
  all_goals first
    | with_reducible exact hm
    | simp +contextual (maxDischargeDepth := 30) [hm]

@[simp] theorem State.startFence_wf {s : State} (q : Queue) (p : List Byte) (hm : Memory.wf s.mem = true) :
    Memory.wf (State.startFence s q p).mem = true := by
  unfold State.startFence
  dsimp only
  repeat' split
  all_goals simp +contextual (maxDischargeDepth := 30) [hm]

@[simp] theorem State.pred_wf {s : State} (q : Queue) (p : List Byte) (hm : Memory.wf s.mem = true) :
    Memory.wf (State.pred s q p).mem = true := by
  unfold State.pred
  simp (maxDischargeDepth := 30) [hm]

@[simp] theorem State.signal_wf {s : State} (q : Queue) (p : List Byte) (hm : Memory.wf s.mem = true) :
    Memory.wf (State.signal s q p).mem = true := by
  unfold State.signal
  simp (maxDischargeDepth := 30) [hm]

@[simp] theorem State.startCopy_wf {s : State} (q : Queue) (p : List Byte) (hm : Memory.wf s.mem = true) :
    Memory.wf (State.startCopy s q p).mem = true := by
  unfold State.startCopy
  simp (maxDischargeDepth := 30) [hm]

@[simp] theorem State.endCopy_wf {s : State} (k : QueueKey) (hm : Memory.wf s.mem = true) :
    Memory.wf (State.endCopy s k).mem = true := by
  unfold State.endCopy
  split <;> simp (maxDischargeDepth := 30) [hm]

@[simp] theorem State.perform_wf {s : State} (q : Queue) (p : List Byte) (hm : Memory.wf s.mem = true) :
    Memory.wf (State.perform s q p).mem = true := by
  unfold State.perform
  split <;> simp (maxDischargeDepth := 30) [hm]

@[simp] theorem State.parse_wf {s : State} (k : QueueKey) (type : Nat) (hm : Memory.wf s.mem = true) :
    Memory.wf (State.parse s k type).mem = true := by
  unfold State.parse
  repeat' split
  all_goals simp (maxDischargeDepth := 30) [hm]

@[simp] theorem State.reservedPacket_wf {s : State} (k : QueueKey) (hm : Memory.wf s.mem = true) :
    Memory.wf (State.reservedPacket s k).mem = true := by
  unfold State.reservedPacket
  split <;> simp (maxDischargeDepth := 30) [hm]

@[simp] theorem State.releasePrev_wf {s : State} (k : QueueKey) (hm : Memory.wf s.mem = true) :
    Memory.wf (State.releasePrev s k).mem = true := by
  unfold State.releasePrev
  simp (maxDischargeDepth := 30) [hm]

end Sys2Proof.Machine
end

