-- ==== Sys2Proof/Laws/Wf/Host.lean ====
section
/-! SUPPORT. What Host does keeps the canonical form of memory. -/

namespace Sys2Proof.Machine

@[simp] theorem State.kick_wf {s : State} (f : Fn) (val : Dword) (hm : Memory.wf s.mem = true) :
    Memory.wf (State.kick s f val).mem = true := by
  unfold State.kick
  split <;> simp (maxDischargeDepth := 30) [hm]

@[simp] theorem State.setScheduled_wf {s : State} (k : VdevKey) (on : Bool) (hm : Memory.wf s.mem = true) :
    Memory.wf (State.setScheduled s k on).mem = true := by
  unfold State.setScheduled
  try dsimp only
  repeat' split
  all_goals first
    | with_reducible exact hm
    | simp +contextual (maxDischargeDepth := 30) [hm]

@[simp] theorem State.deschedule_wf {s : State} (k : VdevKey) (hm : Memory.wf s.mem = true) :
    Memory.wf (State.deschedule s k).mem = true := by
  unfold State.deschedule
  try dsimp only
  repeat' split
  all_goals first
    | with_reducible exact hm
    | simp +contextual (maxDischargeDepth := 30) [hm]

@[simp] theorem State.schedule_wf {s : State} (k : VdevKey) (hm : Memory.wf s.mem = true) :
    Memory.wf (State.schedule s k).mem = true := by
  unfold State.schedule
  try dsimp only
  repeat' split
  all_goals first
    | with_reducible exact hm
    | simp +contextual (maxDischargeDepth := 30) [hm]

@[simp] theorem State.registerWrite_wf {s : State} (f : Fn) (off : Nat) (val : Dword) (hm : Memory.wf s.mem = true) :
    Memory.wf (State.registerWrite s f off val).mem = true := by
  unfold State.registerWrite
  simp (maxDischargeDepth := 30) [hm]

@[simp] theorem State.coalesce_wf {s : State} (f : Fn) (v : Nat) (val : Dword) (hm : Memory.wf s.mem = true) :
    Memory.wf (State.coalesce s f v val).mem = true := by
  unfold State.coalesce
  simp (maxDischargeDepth := 30) [hm]

@[simp] theorem State.vectorDelay_wf {s : State} (f : Fn) (v : Nat) (hm : Memory.wf s.mem = true) :
    Memory.wf (State.vectorDelay s f v).mem = true := by
  unfold State.vectorDelay
  simp (maxDischargeDepth := 30) [hm]

@[simp] theorem State.vectorIdle_wf {s : State} (f : Fn) (v : Nat) (hm : Memory.wf s.mem = true) :
    Memory.wf (State.vectorIdle s f v).mem = true := by
  unfold State.vectorIdle
  simp (maxDischargeDepth := 30) [hm]

@[simp] theorem State.command_wf {s : State} {f : Fn} {mb : MbCtl} {code : Nat} {vf : Bool} {act : State → State}
    (ha : ∀ s, Memory.wf s.mem = true → Memory.wf (act s).mem = true) (hm : Memory.wf s.mem = true) :
    Memory.wf (State.command s f mb code vf act).mem = true := by
  unfold State.command
  split
  · exact hm
  · dsimp only
    split
    · simp [hm]
    · exact ha _ (by simp [hm])

@[simp] theorem State.simply_wf {s : State} {f : Fn} {mb : MbCtl} {ok : Bool} {act : State → State}
    (ha : ∀ s, Memory.wf s.mem = true → Memory.wf (act s).mem = true) (hm : Memory.wf s.mem = true) :
    Memory.wf (State.simply s f mb ok act).mem = true := by
  unfold State.simply
  split
  · simp [ha, hm]
  · simp [hm]

@[simp] theorem State.markReplays_wf {s : State} (asid : Nat) (range : Option (Dword × Nat)) (hm : Memory.wf s.mem = true) :
    Memory.wf (State.markReplays s asid range).mem = true := by
  unfold State.markReplays
  simp (maxDischargeDepth := 30) [hm]

@[simp] theorem State.handOver_wf {s : State} (ds : List Nat) (hm : Memory.wf s.mem = true) :
    Memory.wf (State.handOver s ds).mem = true := by
  unfold State.handOver
  try dsimp only
  repeat' split
  all_goals first
    | with_reducible exact hm
    | simp +contextual (maxDischargeDepth := 30) [hm]

@[simp] theorem State.noteReload_wf {s : State} (core : Nat) (hm : Memory.wf s.mem = true) :
    Memory.wf (State.noteReload s core).mem = true := by
  unfold State.noteReload
  try dsimp only
  repeat' split
  all_goals first
    | with_reducible exact hm
    | simp +contextual (maxDischargeDepth := 30) [hm]

@[simp] theorem State.noteDone_wf {s : State}  (hm : Memory.wf s.mem = true) :
    Memory.wf (State.noteDone s).mem = true := by
  unfold State.noteDone
  try dsimp only
  repeat' split
  all_goals first
    | with_reducible exact hm
    | simp +contextual (maxDischargeDepth := 30) [hm]

@[simp] theorem State.startReload_wf {s : State} (core : Nat) (job : Option (Fn × MbCtl × Dword)) (hm : Memory.wf s.mem = true) :
    Memory.wf (State.startReload s core job).mem = true := by
  unfold State.startReload
  try dsimp only
  repeat' split
  all_goals first
    | with_reducible exact hm
    | simp +contextual (maxDischargeDepth := 30) [hm]

@[simp] theorem State.kickDistricts_wf {s : State} (ds : List Nat) (hm : Memory.wf s.mem = true) :
    Memory.wf (State.kickDistricts s ds).mem = true := by
  unfold State.kickDistricts
  try dsimp only
  repeat' split
  all_goals first
    | with_reducible exact hm
    | simp +contextual (maxDischargeDepth := 30) [hm]

@[simp] theorem State.takeOver_wf {s : State} (core : Nat) (hm : Memory.wf s.mem = true) :
    Memory.wf (State.takeOver s core).mem = true := by
  unfold State.takeOver
  try dsimp only
  repeat' split
  all_goals first
    | with_reducible exact hm
    | simp +contextual (maxDischargeDepth := 30) [hm]

@[simp] theorem State.backInService_wf {s : State} (core : Nat) (hm : Memory.wf s.mem = true) :
    Memory.wf (State.backInService s core).mem = true := by
  unfold State.backInService
  try dsimp only
  repeat' split
  all_goals first
    | with_reducible exact hm
    | simp +contextual (maxDischargeDepth := 30) [hm]

@[simp] theorem State.loadImage_wf {s : State} (core : Nat) (image : Dword) (hm : Memory.wf s.mem = true) :
    Memory.wf (State.loadImage s core image).mem = true := by
  unfold State.loadImage
  try dsimp only
  repeat' split
  all_goals first
    | with_reducible exact hm
    | simp +contextual (maxDischargeDepth := 30) [hm]

@[simp] theorem State.nextJob_wf {s : State}  (hm : Memory.wf s.mem = true) :
    Memory.wf (State.nextJob s).mem = true := by
  unfold State.nextJob
  try dsimp only
  repeat' split
  all_goals first
    | with_reducible exact hm
    | simp +contextual (maxDischargeDepth := 30) [hm]

@[simp] theorem State.endReload_wf {s : State} (r : Reload) (hm : Memory.wf s.mem = true) :
    Memory.wf (State.endReload s r).mem = true := by
  unfold State.endReload
  try dsimp only
  repeat' split
  all_goals first
    | with_reducible exact hm
    | simp +contextual (maxDischargeDepth := 30) [hm]

@[simp] theorem State.reloadTick_wf {s : State} (core : Nat) (hm : Memory.wf s.mem = true) :
    Memory.wf (State.reloadTick s core).mem = true := by
  unfold State.reloadTick
  try dsimp only
  repeat' split
  all_goals first
    | with_reducible exact hm
    | simp +contextual (maxDischargeDepth := 30) [hm]

@[simp] theorem State.resumeDrained_wf {s : State}  (hm : Memory.wf s.mem = true) :
    Memory.wf (State.resumeDrained s).mem = true := by
  unfold State.resumeDrained
  dsimp only
  repeat' split
  all_goals simp +contextual (maxDischargeDepth := 30) [hm]

@[simp] theorem State.drainEnd_wf {s : State} (cluster : Nat) (hm : Memory.wf s.mem = true) :
    Memory.wf (State.drainEnd s cluster).mem = true := by
  unfold State.drainEnd
  split <;> simp (maxDischargeDepth := 30) [hm]

@[simp] theorem State.spdmAnswer_wf {s : State} (req : List Byte) (hm : Memory.wf s.mem = true) :
    Memory.wf (State.spdmAnswer s req).1.mem = true := by
  unfold State.spdmAnswer
  try dsimp only
  repeat' split
  all_goals first
    | with_reducible exact hm
    | simp +contextual (maxDischargeDepth := 30) [hm]

@[simp] theorem State.deviceReset_wf {s : State}  (hm : Memory.wf s.mem = true) :
    Memory.wf (State.deviceReset s).mem = true := by
  unfold State.deviceReset
  simp (maxDischargeDepth := 30) [hm]

@[simp] theorem State.setReady_wf {s : State} (u : TrainedUnit) (hm : Memory.wf s.mem = true) :
    Memory.wf (State.setReady s u).mem = true := by
  unfold State.setReady
  try dsimp only
  repeat' split
  all_goals first
    | with_reducible exact hm
    | simp +contextual (maxDischargeDepth := 30) [hm]

@[simp] theorem State.trained_wf {s : State} (u : TrainedUnit) (hm : Memory.wf s.mem = true) :
    Memory.wf (State.trained s u).mem = true := by
  unfold State.trained
  try dsimp only
  repeat' split
  all_goals first
    | with_reducible exact hm
    | simp +contextual (maxDischargeDepth := 30) [hm]

@[simp] theorem State.stepClock_wf {s : State} (cluster : Nat) (up : Bool) (hm : Memory.wf s.mem = true) :
    Memory.wf (State.stepClock s cluster up).mem = true := by
  unfold State.stepClock
  simp (maxDischargeDepth := 30) [hm]

@[simp] theorem State.busAccess_wf {s : State} (pa : Nat) (acc : BusAccess) (hm : Memory.wf s.mem = true) :
    Memory.wf (State.busAccess s pa acc).1.mem = true := by
  unfold State.busAccess
  split <;> simp (maxDischargeDepth := 30) [hm]

@[simp] theorem State.respond_wf {s : State} (to_ : Nat) (bs : List Byte) (hm : Memory.wf s.mem = true) :
    Memory.wf (State.respond s to_ bs).mem = true := by
  unfold State.respond
  simp (maxDischargeDepth := 30) [hm]

@[simp] theorem State.peerAccess_wf {s : State} (port : Nat) (off : Nat) (acc : BusAccess) (hm : Memory.wf s.mem = true) :
    Memory.wf (State.peerAccess s port off acc).mem = true := by
  unfold State.peerAccess
  repeat' split
  all_goals simp (maxDischargeDepth := 30) [hm]

@[simp] theorem State.hostAccess_wf {s : State} (f : Fn) (off : Nat) (acc : BusAccess) (hm : Memory.wf s.mem = true) :
    Memory.wf (State.hostAccess s f off acc).mem = true := by
  unfold State.hostAccess
  split <;> simp (maxDischargeDepth := 30) [hm]

@[simp] theorem State.rowAlert_wf {s : State} (ch : Nat) (bank : Nat) (row : Nat) (hm : Memory.wf s.mem = true) :
    Memory.wf (State.rowAlert s ch bank row).mem = true := by
  unfold State.rowAlert
  simp (maxDischargeDepth := 30) [hm]

@[simp] theorem State.activate_wf {s : State} (ch : Nat) (bank : Nat) (row : Nat) (hm : Memory.wf s.mem = true) :
    Memory.wf (State.activate s ch bank row).mem = true := by
  unfold State.activate
  try dsimp only
  repeat' split
  all_goals first
    | with_reducible exact hm
    | simp +contextual (maxDischargeDepth := 30) [hm]

@[simp] theorem State.scrubbed_wf {s : State} (ch : Nat) (e : DataErr) (hm : Memory.wf s.mem = true) :
    Memory.wf (State.scrubbed s ch e).mem = true := by
  unfold State.scrubbed
  try dsimp only
  repeat' split
  all_goals first
    | with_reducible exact hm
    | simp +contextual (maxDischargeDepth := 30) [hm]

end Sys2Proof.Machine
end

