-- ==== Sys2Proof/Laws/Wf/Debug.lean ====
section
/-! SUPPORT. What Debug does keeps the canonical form of memory. -/

namespace Sys2Proof.Machine

@[simp] theorem State.debugCommand_wf {s : State} {f : Fn} {mb : MbCtl} {code launch : Nat} {act : DebugRight → State → State}
    (ha : ∀ r s, Memory.wf s.mem = true → Memory.wf (act r s).mem = true) (hm : Memory.wf s.mem = true) :
    Memory.wf (State.debugCommand s f mb code launch act).mem = true := by
  unfold State.debugCommand
  refine State.command_wf (fun s h => ?_) hm
  split
  · split
    · exact ha _ _ h
    · simp [h]
  · simp [h]

@[simp] theorem State.releaseAll_wf {s : State} (launch : Nat) (hm : Memory.wf s.mem = true) :
    Memory.wf (State.releaseAll s launch).mem = true := by
  unfold State.releaseAll
  dsimp only
  repeat' split
  all_goals simp +contextual (maxDischargeDepth := 30) [hm]

@[simp] theorem State.halted_wf {s : State} (r : TeamRef) (hm : Memory.wf s.mem = true) :
    Memory.wf (State.halted s r).mem = true := by
  unfold State.halted
  dsimp only
  repeat' split
  all_goals simp +contextual (maxDischargeDepth := 30) [hm]

@[simp] theorem State.edited_wf {s : State} (t : TeamRef) (only : Option GroupRef) (hm : Memory.wf s.mem = true) :
    Memory.wf (State.edited s t only).mem = true := by
  unfold State.edited
  split <;> simp (maxDischargeDepth := 30) [hm]

end Sys2Proof.Machine
end

