-- ==== Sys2Proof/Laws/Wf/Mtx.lean ====
section
/-! SUPPORT. What Mtx does keeps the canonical form of memory. -/

namespace Sys2Proof.Machine

@[simp] theorem Ctx.addDoneTl_wf {s : State} (c : Ctx) (hm : Memory.wf s.mem = true) :
    Memory.wf (Ctx.addDoneTl c s).mem = true := by
  unfold Ctx.addDoneTl
  simp (maxDischargeDepth := 30) [hm]

@[simp] theorem planMlease_wf {s : State} (x : XF) (c : Ctx) (hm : Memory.wf s.mem = true) :
    Memory.wf (planMlease x c s).effect.mem = true := by
  unfold planMlease
  simp (maxDischargeDepth := 30) [hm]

@[simp] theorem planMrel_wf {s : State} (c : Ctx) (hm : Memory.wf s.mem = true) :
    Memory.wf (planMrel c s).effect.mem = true := by
  unfold planMrel
  dsimp only
  repeat' split
  all_goals simp +contextual (maxDischargeDepth := 30) [hm]

@[simp] theorem planMma_wf {s : State} (x : XF) (c : Ctx) (hm : Memory.wf s.mem = true) :
    Memory.wf (planMma x c s).effect.mem = true := by
  unfold planMma
  simp (maxDischargeDepth := 30) [hm]

@[simp] theorem planMzero_wf {s : State} (x : XF) (c : Ctx) (hm : Memory.wf s.mem = true) :
    Memory.wf (planMzero x c s).effect.mem = true := by
  unfold planMzero
  simp (maxDischargeDepth := 30) [hm]

@[simp] theorem planMld_wf {s : State} (x : XF) (c : Ctx) (hm : Memory.wf s.mem = true) :
    Memory.wf (planMld x c s).effect.mem = true := by
  unfold planMld
  simp (maxDischargeDepth := 30) [hm]

@[simp] theorem planMst_wf {s : State} (x : XF) (c : Ctx) (hm : Memory.wf s.mem = true) :
    Memory.wf (planMst x c s).effect.mem = true := by
  unfold planMst
  simp (maxDischargeDepth := 30) [hm]

@[simp] theorem planMcol_wf {s : State} (x : XF) (c : Ctx) (hm : Memory.wf s.mem = true) :
    Memory.wf (planMcol x c s).effect.mem = true := by
  unfold planMcol
  simp (maxDischargeDepth := 30) [hm]

@[simp] theorem planMput_wf {s : State} (x : XF) (c : Ctx) (hm : Memory.wf s.mem = true) :
    Memory.wf (planMput x c s).effect.mem = true := by
  unfold planMput
  simp (maxDischargeDepth := 30) [hm]

@[simp] theorem planMlink_wf {s : State} (x : XF) (c : Ctx) (hm : Memory.wf s.mem = true) :
    Memory.wf (planMlink x c s).effect.mem = true := by
  unfold planMlink
  simp (maxDischargeDepth := 30) [hm]

end Sys2Proof.Machine
end

