-- ==== Sys2Proof/Laws/Wf/Orth.lean ====
section
/-! SUPPORT. What Orth does keeps the canonical form of memory. -/

namespace Sys2Proof.Machine

@[simp] theorem planQinit_wf {s : State} (x : XF) (c : Ctx) (hm : Memory.wf s.mem = true) :
    Memory.wf (planQinit x c s).effect.mem = true := by
  unfold planQinit
  simp (maxDischargeDepth := 30) [hm]

@[simp] theorem planQacc_wf {s : State} (x : XF) (c : Ctx) (hm : Memory.wf s.mem = true) :
    Memory.wf (planQacc x c s).effect.mem = true := by
  unfold planQacc
  simp (maxDischargeDepth := 30) [hm]

@[simp] theorem planQap_wf {s : State} (left : Bool) (x : XF) (c : Ctx) (hm : Memory.wf s.mem = true) :
    Memory.wf (planQap left x c s).effect.mem = true := by
  unfold planQap
  split <;> simp (maxDischargeDepth := 30) [hm]

@[simp] theorem planQfold_wf {s : State} (x : XF) (c : Ctx) (hm : Memory.wf s.mem = true) :
    Memory.wf (planQfold x c s).effect.mem = true := by
  unfold planQfold
  simp (maxDischargeDepth := 30) [hm]

@[simp] theorem planQstat_wf {s : State} (x : XF) (c : Ctx) (hm : Memory.wf s.mem = true) :
    Memory.wf (planQstat x c s).effect.mem = true := by
  unfold planQstat
  simp (maxDischargeDepth := 30) [hm]

@[simp] theorem planQclr_wf {s : State} (x : XF) (c : Ctx) (hm : Memory.wf s.mem = true) :
    Memory.wf (planQclr x c s).effect.mem = true := by
  unfold planQclr
  simp (maxDischargeDepth := 30) [hm]

@[simp] theorem planHhgen_wf {s : State} (x : XF) (c : Ctx) (hm : Memory.wf s.mem = true) :
    Memory.wf (planHhgen x c s).effect.mem = true := by
  unfold planHhgen
  simp (maxDischargeDepth := 30) [hm]

end Sys2Proof.Machine
end

