-- ==== Sys2Proof/Laws/Wf/Policy.lean ====
section
/-! SUPPORT. What Policy does keeps the canonical form of memory. -/

namespace Sys2Proof.Machine

@[simp] theorem State.passCluster_wf {s : State} (cluster : Nat) (hm : Memory.wf s.mem = true) :
    Memory.wf (State.passCluster s cluster).mem = true := by
  unfold State.passCluster
  try dsimp only
  repeat' split
  all_goals first
    | with_reducible exact hm
    | simp +contextual (maxDischargeDepth := 30) [hm]

@[simp] theorem State.tickCluster_wf {s : State} (cluster : Nat) (hm : Memory.wf s.mem = true) :
    Memory.wf (State.tickCluster s cluster).mem = true := by
  unfold State.tickCluster
  try dsimp only
  repeat' split
  all_goals first
    | with_reducible exact hm
    | simp +contextual (maxDischargeDepth := 30) [hm]

@[simp] theorem State.passHost_wf {s : State}  (hm : Memory.wf s.mem = true) :
    Memory.wf (State.passHost s).mem = true := by
  unfold State.passHost
  try dsimp only
  repeat' split
  all_goals first
    | with_reducible exact hm
    | simp +contextual (maxDischargeDepth := 30) [hm]

@[simp] theorem State.tickHost_wf {s : State}  (hm : Memory.wf s.mem = true) :
    Memory.wf (State.tickHost s).mem = true := by
  unfold State.tickHost
  try dsimp only
  repeat' split
  all_goals first
    | with_reducible exact hm
    | simp +contextual (maxDischargeDepth := 30) [hm]

@[simp] theorem State.tickCommand_wf {s : State} (core : Nat) (hm : Memory.wf s.mem = true) :
    Memory.wf (State.tickCommand s core).mem = true := by
  unfold State.tickCommand
  try dsimp only
  repeat' split
  all_goals first
    | with_reducible exact hm
    | simp +contextual (maxDischargeDepth := 30) [hm]

@[simp] theorem State.tickChannel_wf {s : State} (ch : Nat) (hm : Memory.wf s.mem = true) :
    Memory.wf (State.tickChannel s ch).mem = true := by
  unfold State.tickChannel
  try dsimp only
  repeat' split
  all_goals first
    | with_reducible exact hm
    | simp +contextual (maxDischargeDepth := 30) [hm]

@[simp] theorem State.tick_wf {s : State} (clock : Nat) (hm : Memory.wf s.mem = true) :
    Memory.wf (State.tick s clock).mem = true := by
  unfold State.tick
  try dsimp only
  repeat' split
  all_goals first
    | with_reducible exact hm
    | simp +contextual (maxDischargeDepth := 30) [hm]
    | (refine foldl_wf (fun s a hm => ?_) (by simp +contextual (maxDischargeDepth := 30) [hm])
       try dsimp only
       repeat' split
       all_goals simp +contextual (maxDischargeDepth := 30) [hm])

end Sys2Proof.Machine
end

