-- ==== Sys2Proof/Tests/Slice0.lean ====
section
/-! SUPPORT. Tests: decoding of words taken from the spec's tables, ill-formed terms, single steps with the spec's own results,
and for each statement a state and operands that meet its hypotheses together. -/

namespace Sys2Proof.Machine

/-- The first group of the small machine, changed. -/
def State.but (s : State) (f : Group → Group) : State := s.modGroup fetchGroup f
/-- Firmware that runs. -/
def State.running (s : State) : State := { s with ready := { s.ready with cc := 0xFF } }
/-- The team of the small machine, changed. -/
def State.tm (s : State) (f : Team → Team) : State := s.modTeam (teamOf fetchGroup) f
/-- No group of the team must issue in this clock. -/
def State.calm (s : State) : State := s.tm (fun m => m.mapGroups (fun g => { g with prompt := false }))
def State.busySt (s : State) : State := s.but (fun g => { g with st := [{ seq := 0, pc := 0x1000, scope := 0, bytes := [{ space := .phys, addr := 64, val := 7 }] }], nextSeq := 1 })
def State.object (s : State) (o : SyncObj) : State := { s with mem := cellWrites s.mem 0 o.bytes }
def State.farPage (s : State) : State := { s with
  mem := cellWrites s.mem 0x18008 (leBytes 0x79 8), ready := { s.ready with cxl := 1 }, cxlSize := [(0, 2 ^ 40)], cxlMap := [(0, 0, 2 ^ 40)] }
def State.later (s : State) : State := { s with clocks := List.replicate 8 (2 ^ 24) }

end Sys2Proof.Machine

namespace Sys2Proof.Tests

set_option Elab.async false

open Sys2Proof.Machine

/-! ## Decoding -/

/-- What the decoder reads from words. -/
def dec (ws : List Word) : Decoded := decode (ws.flatMap wordBytes)

/-- The B and BL words of Table 7.19, whose fields it names, and the word with which code is padded (R213). -/
theorem test_decode_short_forms :
    dec [0x01030102] = .instr (.iadd 0x03 0x01 0x02) 1 ∧ dec [0x0D0303FC] = .instr (.iaddi 0x03 0x03 0xFC) 1 ∧
    dec [0x12A203E8] = .instr (.movi 0xA2 0x03E8) 1 ∧ dec [0x53060000, 0x12345678, 0] = .instr (.movBl 0x06 0x12345678) 3 ∧
    dec [0x21010410] = .instr (.ld32 0x01 0x04 0x10) 1 ∧ dec [0x25FFFFFD] = .instr (.bra 0xFFFFFD) 1 ∧
    dec [0x290105FF] = .instr (.xfer 0x01 0x05 0xFF) 1 ∧ dec [0x2A0F1F02] = .instr (.wait 0 15 1 15 0x02) 1 ∧
    dec [0x2B020020] = .instr (.join 2 0x20) 1 ∧ dec [0x2DA40000] = .instr (.tfetch 0xA4) 1 ∧
    dec [0x3E208480, 0x17080203] = .instr (.pfx 2 0 1 0x09 0x17080203) 2 ∧
    dec [0x81040506, 0x00080001, 0x00000008] = .instr (.iminX { d := 0x04, a := 0x05, b := 0x06, wmode := 1, f := 0x08 }) 3 ∧
    dec [0x820A0102, 0x00001141, 0x0000C800] =
      .instr (.faddX { d := 0x0A, a := 0x01, b := 0x02, apat := 1, aparm := 5, wmode := 1, mask := 3, round := 1 }) 3 ∧
    dec [0xC700E400, 0x00010000, 0, 6, 0] = .instr (.brd { a := 0xE4, lit := some 6 }) 5 ∧
    dec [0x13FFFF00] = .instr (.mov 0xFF 0xFF) 1 := by
  decide

/-- The all-zero word is no instruction (R149), nor is major 0x3F, nor an unassigned function (R151). -/
theorem test_decode_illegal :
    dec [0] = .illegal 0 24 ∧ dec [0x3F000000] = .illegal 0 24 ∧ dec [0x85000000, 0x00090000, 0] = .illegal 1 16 ∧
    dec [0x94000000, 0, 0] = .illegal 0 24 := by
  decide

/-- The words of Table 9.5, with the fields that it names. -/
theorem test_decode_control :
    dec [0xC700E300, 0x00000000, 0x00000000, 0xFFFFFFF6, 0xFFFFFFFF] = .instr (.braX { a := 0xE3, lit := some 0xFFFFFFFFFFFFFFF6 }) 5 ∧
    dec [0x87000400, 0x00020000, 0x00000000] = .instr (.jmpi { a := 0x04 }) 3 ∧
    dec [0x8700A200, 0x00040000, 0x00000000] = .instr (.calli { a := 0xA2 }) 3 ∧
    dec [0x27000000] = .instr (.ret) 1 ∧
    dec [0x87000000, 0x00080000, 0x00008000] = .instr (.exitX { mask := 2 }) 3 ∧
    dec [0x87000000, 0x00090000, 0x00000005] = .instr (.trap { f := 0x05 }) 3 ∧
    dec [0x87000000, 0x000B0000, 0x00000000] = .instr (.nop {  }) 3 ∧
    dec [0x880105FF, 0x02010000, 0x00000000] = .instr (.xfera { d := 0x01, a := 0x05, b := 0xFF, c := 0x02 }) 3 ∧
    dec [0x88030000, 0x00020000, 0x00000000] = .instr (.belay { d := 0x03 }) 3 ∧
    dec [0x88210000, 0x00030000, 0x00000000] = .instr (.park { d := 0x21 }) 3 ∧
    dec [0x88020000, 0x02040000, 0x00000014] = .instr (.waitX { d := 0x02, a := 0x00, b := 0x00, c := 0x02, f := 0x14 }) 3 ∧
    dec [0xCFA60000, 0x00000000, 0x0000000F, 0x00000005, 0x00000000] = .instr (.recruit { d := 0xA6, f := 0x0F, lit := some 0x5 }) 5 ∧
    dec [0x8F000000, 0x00010000, 0x00000000] = .instr (.ropeend {  }) 3 ∧
    dec [0x8F09D200, 0x00020000, 0x00000001] = .instr (.ropered { d := 0x09, a := 0xD2, f := 0x01 }) 3 ∧
    dec [0x920A0400, 0x00010001, 0x00000000] = .instr (.launch { d := 0x0A, a := 0x04, wmode := 1 }) 3 ∧
    dec [0x93A2A400, 0x00000000, 0x00000001] = .instr (.svc { d := 0xA2, a := 0xA4, f := 0x01 }) 3 ∧
    dec [0x93000000, 0x00010000, 0x00000000] = .instr (.ckpt {  }) 3 ∧
    dec [0x93A00000, 0x00020000, 0x00000017] = .instr (.rdcnt { d := 0xA0, f := 0x17 }) 3 := by
  decide

/-- The words of Table 10.12, with the fields that it names. -/
theorem test_decode_memory :
    dec [0x89020406, 0xFF000001, 0x00000033] = .instr (.ld { d := 0x02, a := 0x04, b := 0x06, c := 0xFF, wmode := 1, f := 0x33 }) 3 ∧
    dec [0x89030809, 0xA1010000, 0x00000042] = .instr (.st { d := 0x03, a := 0x08, b := 0x09, c := 0xA1, f := 0x42 }) 3 ∧
    dec [0x89050708, 0xFF020001, 0x00000009] = .instr (.lds { d := 0x05, a := 0x07, b := 0x08, c := 0xFF, wmode := 1, f := 0x09 }) 3 ∧
    dec [0x89030405, 0x00040000, 0x00000032] = .instr (.stm { d := 0x03, a := 0x04, b := 0x05, f := 0x32 }) 3 ∧
    dec [0x8903A400, 0xFF060000, 0x00000000] = .instr (.spill { d := 0x03, a := 0xA4, c := 0xFF }) 3 ∧
    dec [0x8903A400, 0xFF070000, 0x00000000] = .instr (.fill { d := 0x03, a := 0xA4, c := 0xFF }) 3 ∧
    dec [0x8A060407, 0x00000001, 0x00000030] = .instr (.atom { d := 0x06, a := 0x04, b := 0x07, wmode := 1, f := 0x30 }) 3 ∧
    dec [0x8A060408, 0x0A000001, 0x000000BA] = .instr (.atom { d := 0x06, a := 0x04, b := 0x08, c := 0x0A, wmode := 1, f := 0xBA }) 3 ∧
    dec [0x8A000409, 0x00010000, 0x00080032] = .instr (.xadd { a := 0x04, b := 0x09, bsub := 2, f := 0x32 }) 3 ∧
    dec [0x8A020400, 0x00020001, 0x00000830] = .instr (.xrd { d := 0x02, a := 0x04, wmode := 1, round := 1, f := 0x30 }) 3 ∧
    dec [0x8B000A0C, 0xA3000000, 0x00000032] = .instr (.bind { a := 0x0A, b := 0x0C, c := 0xA3, f := 0x32 }) 3 ∧
    dec [0x8B200AA6, 0xA7020000, 0x00000030] = .instr (.acq { d := 0x20, a := 0x0A, b := 0xA6, c := 0xA7, f := 0x30 }) 3 ∧
    dec [0x8B000A00, 0x00040000, 0x00000030] = .instr (.rel { a := 0x0A, f := 0x30 }) 3 ∧
    dec [0x8B000000, 0x00050000, 0x00000040] = .instr (.fence { f := 0x40 }) 3 ∧
    dec [0x8BA40A00, 0x00070000, 0x00004030] = .instr (.barrive { d := 0xA4, a := 0x0A, mask := 1, f := 0x30 }) 3 ∧
    dec [0x8B010AA4, 0xA5090000, 0x00000030] = .instr (.barwait { d := 0x01, a := 0x0A, b := 0xA4, c := 0xA5, f := 0x30 }) 3 ∧
    dec [0x8B00A3A9, 0xFF0A0000, 0x00000010] = .instr (.syncset { a := 0xA3, b := 0xA9, c := 0xFF, f := 0x10 }) 3 ∧
    dec [0x8B02A3A6, 0x000B0000, 0x00000010] = .instr (.syncw { d := 0x02, a := 0xA3, b := 0xA6, f := 0x10 }) 3 ∧
    dec [0x8CA80406, 0xA9000000, 0x00000009] = .instr (.bcopy { d := 0xA8, a := 0x04, b := 0x06, c := 0xA9, f := 0x09 }) 3 ∧
    dec [0xCCA80406, 0xA9000000, 0x00000018, 0x04000040, 0x00010000] = .instr (.bcopy { d := 0xA8, a := 0x04, b := 0x06, c := 0xA9, f := 0x18, lit := some 0x1000004000040 }) 5 ∧
    dec [0x8CA80406, 0x07010000, 0x0000404A] = .instr (.gather { d := 0xA8, a := 0x04, b := 0x06, c := 0x07, mask := 1, f := 0x4A }) 3 ∧
    dec [0x8C000000, 0x00030000, 0x00000003] = .instr (.qfence { f := 0x03 }) 3 := by
  decide

/-- The words of Table 11.10, with the fields that it names. -/
theorem test_decode_matrix :
    dec [0x8D000000, 0x00000000, 0x00000004] = .instr (.mlease { f := 0x04 }) 3 ∧
    dec [0x8D000000, 0x00010000, 0x00000000] = .instr (.mrel {  }) 3 ∧
    dec [0x8DF1A4A5, 0xFF020000, 0x00000022] = .instr (.mma { d := 0xF1, a := 0xA4, b := 0xA5, c := 0xFF, f := 0x22 }) 3 ∧
    dec [0x8DF2A4A5, 0xFF020000, 0x00000043] = .instr (.mma { d := 0xF2, a := 0xA4, b := 0xA5, c := 0xFF, f := 0x43 }) 3 ∧
    dec [0x8DF0A4A5, 0x08020008, 0x000000AA] = .instr (.mma { d := 0xF0, a := 0xA4, b := 0xA5, c := 0x08, asub := 2, f := 0xAA }) 3 ∧
    dec [0x8DF30000, 0x00030000, 0x00000000] = .instr (.mzero { d := 0xF3 }) 3 ∧
    dec [0x8DF004A6, 0x00040000, 0x00000002] = .instr (.mld { d := 0xF0, a := 0x04, b := 0xA6, f := 0x02 }) 3 ∧
    dec [0x8DF004A6, 0xA8050000, 0x00002002] = .instr (.mst { d := 0xF0, a := 0x04, b := 0xA6, c := 0xA8, round := 4, f := 0x02 }) 3 ∧
    dec [0xCD09F100, 0x00060000, 0x00000000, 0x00000005, 0x00000000] = .instr (.mcol { d := 0x09, a := 0xF1, lit := some 0x5 }) 5 ∧
    dec [0x8DF10900, 0xA3070000, 0x00000000] = .instr (.mput { d := 0xF1, a := 0x09, c := 0xA3 }) 3 ∧
    dec [0x8DF00A00, 0x00080000, 0x00000000] = .instr (.mlink { d := 0xF0, a := 0x0A }) 3 ∧
    dec [0x8EC2F6F7, 0x00000000, 0x00000004] = .instr (.qinit { d := 0xC2, a := 0xF6, b := 0xF7, f := 0x04 }) 3 ∧
    dec [0x8EC208A4, 0x00010000, 0x00000000] = .instr (.qacc { d := 0xC2, a := 0x08, b := 0xA4 }) 3 ∧
    dec [0x8EF2C200, 0x00020000, 0x00000001] = .instr (.qapl { d := 0xF2, a := 0xC2, f := 0x01 }) 3 ∧
    dec [0x8E0CC300, 0x00030000, 0x00000000] = .instr (.qapr { d := 0x0C, a := 0xC3 }) 3 ∧
    dec [0x8EC20000, 0x00040000, 0x00000000] = .instr (.qfold { d := 0xC2 }) 3 ∧
    dec [0x8EA3C200, 0x00050000, 0x00000000] = .instr (.qstat { d := 0xA3, a := 0xC2 }) 3 ∧
    dec [0x8EC20000, 0x00060000, 0x00000000] = .instr (.qclr { d := 0xC2 }) 3 ∧
    dec [0x8E0908A4, 0x00070000, 0x00000000] = .instr (.hhgen { d := 0x09, a := 0x08, b := 0xA4, f := 0x00 }) 3 := by
  decide

/-- The words of Table 8.11, with the fields that it names. -/
theorem test_decode_compute :
    dec [0x20050403] = .instr (.sfu 0x05 0x04 3) 1 ∧
    dec [0x1C060102] = .instr (.hfma2 0x06 0x01 0x02) 1 ∧
    dec [0x81040102, 0x001C0001, 0x00000002] = .instr (.icmp { d := 0x04, a := 0x01, b := 0x02, wmode := 1, f := 0x02 }) 3 ∧
    dec [0x84090203, 0x09010001, 0x00000004] = .instr (.idp4X { d := 0x09, a := 0x02, b := 0x03, c := 0x09, wmode := 1, f := 0x04 }) 3 ∧
    dec [0x83020103, 0xA4000001, 0x00002002] = .instr (.cvt { d := 0x02, a := 0x01, b := 0x03, c := 0xA4, wmode := 1, round := 4, f := 0x02 }) 3 ∧
    dec [0x85070600, 0x00020001, 0x00004001] = .instr (.scan { d := 0x07, a := 0x06, wmode := 1, mask := 1, f := 0x01 }) 3 ∧
    dec [0x86E20100, 0x00040000, 0x00000000] = .instr (.kmov { d := 0xE2, a := 0x01 }) 3 ∧
    dec [0x9008A204, 0x00000001, 0x00000001] = .instr (.rand { d := 0x08, a := 0xA2, b := 0x04, wmode := 1, f := 0x01 }) 3 ∧
    dec [0xD1000000, 0x00000000, 0x00000002, 0x000C01A8, 0x00000000] = .instr (.fmtset { f := 0x02, lit := some 0x000C01A8 }) 5 := by
  decide

/-! The remaining constructors, each by a word composed from the spec's own fields: for the X form the FAMILY and FUNC of the
function tables of chapters 8 to 11 and the field positions of R158, for the B and BL forms the majors of R154 and R156. -/

theorem test_decode_int :
    dec [0x81030102, 0x00000001, 0x00000000] = .instr (.iaddX { d := 3, a := 1, b := 2, wmode := 1 }) 3 ∧
    dec [0x81030102, 0x00010001, 0x00000000] = .instr (.isubX { d := 3, a := 1, b := 2, wmode := 1 }) 3 ∧
    dec [0x81030102, 0x04020001, 0x00000000] = .instr (.iaddc { d := 3, a := 1, b := 2, wmode := 1, c := 4 }) 3 ∧
    dec [0x81030102, 0x04030001, 0x00000000] = .instr (.isubb { d := 3, a := 1, b := 2, wmode := 1, c := 4 }) 3 ∧
    dec [0x81030102, 0x00040001, 0x00000000] = .instr (.imulX { d := 3, a := 1, b := 2, wmode := 1 }) 3 ∧
    dec [0x81030102, 0x00050001, 0x00000000] = .instr (.imulhS { d := 3, a := 1, b := 2, wmode := 1 }) 3 ∧
    dec [0x81030102, 0x00060001, 0x00000000] = .instr (.imulhU { d := 3, a := 1, b := 2, wmode := 1 }) 3 ∧
    dec [0x81030102, 0x00070001, 0x00000000] = .instr (.imadX { d := 3, a := 1, b := 2, wmode := 1 }) 3 ∧
    dec [0x81030102, 0x00090001, 0x00000000] = .instr (.imaxX { d := 3, a := 1, b := 2, wmode := 1 }) 3 ∧
    dec [0x81030100, 0x000A0001, 0x00000000] = .instr (.iabs { d := 3, a := 1, wmode := 1 }) 3 ∧
    dec [0x81030100, 0x000B0001, 0x00000000] = .instr (.ineg { d := 3, a := 1, wmode := 1 }) 3 ∧
    dec [0x81030102, 0x000C0001, 0x00000000] = .instr (.andX { d := 3, a := 1, b := 2, wmode := 1 }) 3 ∧
    dec [0x81030102, 0x000D0001, 0x00000000] = .instr (.orX { d := 3, a := 1, b := 2, wmode := 1 }) 3 ∧
    dec [0x81030102, 0x000E0001, 0x00000000] = .instr (.xorX { d := 3, a := 1, b := 2, wmode := 1 }) 3 ∧
    dec [0x81030102, 0x000F0001, 0x00000000] = .instr (.andn { d := 3, a := 1, b := 2, wmode := 1 }) 3 ∧
    dec [0x81030100, 0x00100001, 0x00000000] = .instr (.not { d := 3, a := 1, wmode := 1 }) 3 ∧
    dec [0x81030102, 0x00110001, 0x00000000] = .instr (.shlX { d := 3, a := 1, b := 2, wmode := 1 }) 3 ∧
    dec [0x81030102, 0x00120001, 0x00000000] = .instr (.shrX { d := 3, a := 1, b := 2, wmode := 1 }) 3 ∧
    dec [0x81030102, 0x00130001, 0x00000000] = .instr (.sarX { d := 3, a := 1, b := 2, wmode := 1 }) 3 ∧
    dec [0x81030102, 0x00140001, 0x00000000] = .instr (.rotl { d := 3, a := 1, b := 2, wmode := 1 }) 3 ∧
    dec [0x81030102, 0x00150001, 0x00000000] = .instr (.rotr { d := 3, a := 1, b := 2, wmode := 1 }) 3 ∧
    dec [0x81030100, 0x00160001, 0x00000000] = .instr (.popc { d := 3, a := 1, wmode := 1 }) 3 ∧
    dec [0x81030100, 0x00170001, 0x00000000] = .instr (.clz { d := 3, a := 1, wmode := 1 }) 3 ∧
    dec [0x81030100, 0x00180001, 0x00000000] = .instr (.ctz { d := 3, a := 1, wmode := 1 }) 3 ∧
    dec [0x81030100, 0x00190001, 0x00000000] = .instr (.brev { d := 3, a := 1, wmode := 1 }) 3 ∧
    dec [0x81030102, 0x001A0001, 0x00000000] = .instr (.bfx { d := 3, a := 1, b := 2, wmode := 1 }) 3 ∧
    dec [0x81030102, 0x001B0001, 0x00000000] = .instr (.bfi { d := 3, a := 1, b := 2, wmode := 1 }) 3 ∧
    dec [0x81030102, 0x041D0001, 0x00000000] = .instr (.isel { d := 3, a := 1, b := 2, wmode := 1, c := 4 }) 3 ∧
    dec [0x81030102, 0x041E0001, 0x00000000] = .instr (.lea { d := 3, a := 1, b := 2, wmode := 1, c := 4 }) 3 ∧
    dec [0x81030100, 0x001F0001, 0x00000000] = .instr (.movX { d := 3, a := 1, wmode := 1 }) 3 ∧
    dec [0xC1030000, 0x00200001, 0x00000000, 0x00000007, 0x00000000] = .instr (.ldi { d := 3, wmode := 1, lit := some 7 }) 5 := by
  decide

theorem test_decode_flt :
    dec [0x82030102, 0x00010001, 0x00000000] = .instr (.fsubX { d := 3, a := 1, b := 2, wmode := 1 }) 3 ∧
    dec [0x82030102, 0x00020001, 0x00000000] = .instr (.fmulX { d := 3, a := 1, b := 2, wmode := 1 }) 3 ∧
    dec [0x82030102, 0x04030001, 0x00000000] = .instr (.ffmaX { d := 3, a := 1, b := 2, wmode := 1, c := 4 }) 3 ∧
    dec [0x82030102, 0x00040001, 0x00000000] = .instr (.fminX { d := 3, a := 1, b := 2, wmode := 1 }) 3 ∧
    dec [0x82030102, 0x00050001, 0x00000000] = .instr (.fmaxX { d := 3, a := 1, b := 2, wmode := 1 }) 3 ∧
    dec [0x82030100, 0x00060001, 0x00000000] = .instr (.fabs { d := 3, a := 1, wmode := 1 }) 3 ∧
    dec [0x82030100, 0x00070001, 0x00000000] = .instr (.fneg { d := 3, a := 1, wmode := 1 }) 3 ∧
    dec [0x82030102, 0x00080001, 0x00000000] = .instr (.fcmp { d := 3, a := 1, b := 2, wmode := 1 }) 3 ∧
    dec [0x82030102, 0x04090001, 0x00000000] = .instr (.fsel { d := 3, a := 1, b := 2, wmode := 1, c := 4 }) 3 ∧
    dec [0x82030100, 0x000A0001, 0x00000000] = .instr (.fclass { d := 3, a := 1, wmode := 1 }) 3 ∧
    dec [0x82030102, 0x000B0001, 0x00000000] = .instr (.fdiv { d := 3, a := 1, b := 2, wmode := 1 }) 3 ∧
    dec [0x82030100, 0x000C0001, 0x00000000] = .instr (.fsqrt { d := 3, a := 1, wmode := 1 }) 3 ∧
    dec [0x82030100, 0x000D0001, 0x00000000] = .instr (.frcp { d := 3, a := 1, wmode := 1 }) 3 ∧
    dec [0x82030100, 0x000E0001, 0x00000000] = .instr (.frsq { d := 3, a := 1, wmode := 1 }) 3 ∧
    dec [0x82030100, 0x000F0001, 0x00000000] = .instr (.fexp2 { d := 3, a := 1, wmode := 1 }) 3 ∧
    dec [0x82030100, 0x00100001, 0x00000000] = .instr (.flog2 { d := 3, a := 1, wmode := 1 }) 3 ∧
    dec [0x82030100, 0x00110001, 0x00000000] = .instr (.fsinpi { d := 3, a := 1, wmode := 1 }) 3 ∧
    dec [0x82030100, 0x00120001, 0x00000000] = .instr (.fcospi { d := 3, a := 1, wmode := 1 }) 3 ∧
    dec [0x82030100, 0x00130001, 0x00000000] = .instr (.ftanh { d := 3, a := 1, wmode := 1 }) 3 ∧
    dec [0x82030102, 0x00140001, 0x00000000] = .instr (.fscale { d := 3, a := 1, b := 2, wmode := 1 }) 3 := by
  decide

theorem test_decode_cvt :
    dec [0x83030100, 0x00010001, 0x00000080] = .instr (.cvtn { d := 3, a := 1, wmode := 1, f := 0x80 }) 3 ∧
    dec [0x83030100, 0x00020001, 0x00000000] = .instr (.packn { d := 3, a := 1, wmode := 1, f := 0x00 }) 3 ∧
    dec [0x83030100, 0x00030001, 0x00000080] = .instr (.unpackn { d := 3, a := 1, wmode := 1, f := 0x80 }) 3 ∧
    dec [0x83030102, 0x00040001, 0x00000000] = .instr (.scaleb { d := 3, a := 1, b := 2, wmode := 1 }) 3 := by
  decide

theorem test_decode_dot :
    dec [0x84030102, 0x04000001, 0x00000000] = .instr (.idp2 { d := 3, a := 1, b := 2, wmode := 1, c := 4 }) 3 ∧
    dec [0x84030102, 0x04020001, 0x00000000] = .instr (.idp8X { d := 3, a := 1, b := 2, wmode := 1, c := 4 }) 3 ∧
    dec [0x84030102, 0x04030001, 0x00000000] = .instr (.fdp2 { d := 3, a := 1, b := 2, wmode := 1, c := 4 }) 3 := by
  decide

theorem test_decode_xlane :
    dec [0x85030102, 0x00000001, 0x00000000] = .instr (.perm { d := 3, a := 1, b := 2, wmode := 1 }) 3 ∧
    dec [0x85030100, 0x00010001, 0x00000000] = .instr (.redux { d := 3, a := 1, wmode := 1 }) 3 ∧
    dec [0x85030100, 0x00030001, 0x00000003] = .instr (.vote { d := 3, a := 1, wmode := 1, f := 3 }) 3 ∧
    dec [0x85030100, 0x00040001, 0x00000000] = .instr (.matchLanes { d := 3, a := 1, wmode := 1 }) 3 := by
  decide

theorem test_decode_mask :
    dec [0x86E1E2E0, 0x00000000, 0x00000000] = .instr (.kand { d := 0xE1, a := 0xE2, b := 0xE0 }) 3 ∧
    dec [0x86E1E2E0, 0x00010000, 0x00000000] = .instr (.kor { d := 0xE1, a := 0xE2, b := 0xE0 }) 3 ∧
    dec [0x86E1E2E0, 0x00020000, 0x00000000] = .instr (.kxor { d := 0xE1, a := 0xE2, b := 0xE0 }) 3 ∧
    dec [0x86E1E200, 0x00030000, 0x00000000] = .instr (.knot { d := 0xE1, a := 0xE2 }) 3 ∧
    dec [0x86A2E000, 0x00050000, 0x00000000] = .instr (.kpop { d := 0xA2, a := 0xE0 }) 3 ∧
    dec [0x86A2E000, 0x00060000, 0x00000000] = .instr (.kffs { d := 0xA2, a := 0xE0 }) 3 ∧
    dec [0xC6E10000, 0x00070000, 0x00000000, 0x00000005, 0x00000000] = .instr (.kset { d := 0xE1, lit := some 5 }) 5 := by
  decide

theorem test_decode_ctrl :
    dec [0xC7000000, 0x00030000, 0x00000000, 0x00000004, 0x00000000] = .instr (.callX { lit := some 4 }) 5 ∧
    dec [0x87000000, 0x00050000, 0x00000000] = .instr (.retX {  }) 3 ∧
    dec [0x87E20000, 0x00060000, 0x00000000] = .instr (.splitX { d := 0xE2 }) 3 ∧
    dec [0x8720E200, 0x00070000, 0x00000000] = .instr (.joinX { d := 0x20, a := 0xE2 }) 3 ∧
    dec [0x87000000, 0x000A0000, 0x00000005] = .instr (.brk { f := 5 }) 3 := by
  decide

theorem test_decode_baton :
    dec [0x88010506, 0x00000000, 0x00000000] = .instr (.xferX { d := 1, a := 5, b := 6 }) 3 := by
  decide

theorem test_decode_mem :
    dec [0x89010400, 0x00030000, 0x00000000] = .instr (.sts { d := 1, a := 4, f := 0x00 }) 3 ∧
    dec [0x89000200, 0x00050000, 0x00000000] = .instr (.pref { a := 2 }) 3 := by
  decide

theorem test_decode_atom :
    dec [0x8A000400, 0x00030000, 0x00000030] = .instr (.xclr { a := 4, f := 0x30 }) 3 := by
  decide

theorem test_decode_sync :
    dec [0x8B00A200, 0x00010000, 0x00000030] = .instr (.unbind { a := 0xA2, f := 0x30 }) 3 ∧
    dec [0x8BA8A2FF, 0x00030000, 0x00000030] = .instr (.tryacq { d := 0xA8, a := 0xA2, b := 0xFF, f := 0x30 }) 3 ∧
    dec [0x8B00A2A4, 0x00060000, 0x00000030] = .instr (.barinit { a := 0xA2, b := 0xA4, f := 0x30 }) 3 ∧
    dec [0x8BA8A200, 0x00080000, 0x00004030] = .instr (.bardrop { d := 0xA8, a := 0xA2, mask := 1, f := 0x30 }) 3 := by
  decide

theorem test_decode_async :
    dec [0x8C00A4A2, 0x06020000, 0x00000040] = .instr (.scatter { a := 0xA4, b := 0xA2, c := 6, f := 0x40 }) 3 := by
  decide

theorem test_decode_fmt :
    dec [0x91A30000, 0x00010000, 0x00000001] = .instr (.fmtget { d := 0xA3, f := 1 }) 3 := by
  decide

theorem test_decode_work :
    dec [0x92A40000, 0x00000000, 0x00000000] = .instr (.tfetchX { d := 0xA4 }) 3 := by
  decide

theorem test_decode_b_form :
    dec [0x02030102] = .instr (.isub 3 1 2) 1 ∧
    dec [0x03030102] = .instr (.imul 3 1 2) 1 ∧
    dec [0x04030102] = .instr (.imad 3 1 2) 1 ∧
    dec [0x05030102] = .instr (.and 3 1 2) 1 ∧
    dec [0x06030102] = .instr (.or 3 1 2) 1 ∧
    dec [0x07030102] = .instr (.xor 3 1 2) 1 ∧
    dec [0x08030102] = .instr (.shl 3 1 2) 1 ∧
    dec [0x09030102] = .instr (.shr 3 1 2) 1 ∧
    dec [0x0A030102] = .instr (.sar 3 1 2) 1 ∧
    dec [0x0B030102] = .instr (.imin 3 1 2) 1 ∧
    dec [0x0C030102] = .instr (.imax 3 1 2) 1 ∧
    dec [0x14030102] = .instr (.fadd 3 1 2) 1 ∧
    dec [0x15030102] = .instr (.fsub 3 1 2) 1 ∧
    dec [0x16030102] = .instr (.fmul 3 1 2) 1 ∧
    dec [0x17030102] = .instr (.ffma 3 1 2) 1 ∧
    dec [0x18030102] = .instr (.fmin 3 1 2) 1 ∧
    dec [0x19030102] = .instr (.fmax 3 1 2) 1 ∧
    dec [0x1A030102] = .instr (.hadd2 3 1 2) 1 ∧
    dec [0x1B030102] = .instr (.hmul2 3 1 2) 1 ∧
    dec [0x1D030102] = .instr (.bfma2 3 1 2) 1 ∧
    dec [0x1E030102] = .instr (.idp4 3 1 2) 1 ∧
    dec [0x1F030102] = .instr (.idp8 3 1 2) 1 ∧
    dec [0x0E030105] = .instr (.shli 3 1 5) 1 ∧
    dec [0x0F030105] = .instr (.shri 3 1 5) 1 ∧
    dec [0x10030105] = .instr (.sari 3 1 5) 1 ∧
    dec [0x11030105] = .instr (.andi 3 1 5) 1 ∧
    dec [0x22010410] = .instr (.st32 1 4 0x10) 1 ∧
    dec [0x23010410] = .instr (.lds32 1 4 0x10) 1 ∧
    dec [0x24010410] = .instr (.sts32 1 4 0x10) 1 ∧
    dec [0x26000004] = .instr (.call 4) 1 ∧
    dec [0x28000000] = .instr .exit 1 ∧
    dec [0x2C020000] = .instr (.split 2) 1 := by
  decide

theorem test_decode_bl_form :
    dec [0x41030100, 5, 0] = .instr (.iaddBl 3 1 5) 3 ∧
    dec [0x42030100, 5, 0] = .instr (.isubBl 3 1 5) 3 ∧
    dec [0x43030100, 5, 0] = .instr (.imulBl 3 1 5) 3 ∧
    dec [0x44030100, 5, 0] = .instr (.imadBl 3 1 5) 3 ∧
    dec [0x45030100, 5, 0] = .instr (.andBl 3 1 5) 3 ∧
    dec [0x46030100, 5, 0] = .instr (.orBl 3 1 5) 3 ∧
    dec [0x47030100, 5, 0] = .instr (.xorBl 3 1 5) 3 ∧
    dec [0x48030100, 5, 0] = .instr (.shlBl 3 1 5) 3 ∧
    dec [0x49030100, 5, 0] = .instr (.shrBl 3 1 5) 3 ∧
    dec [0x4A030100, 5, 0] = .instr (.sarBl 3 1 5) 3 ∧
    dec [0x4B030100, 5, 0] = .instr (.iminBl 3 1 5) 3 ∧
    dec [0x4C030100, 5, 0] = .instr (.imaxBl 3 1 5) 3 ∧
    dec [0x54030100, 5, 0] = .instr (.faddBl 3 1 5) 3 ∧
    dec [0x55030100, 5, 0] = .instr (.fsubBl 3 1 5) 3 ∧
    dec [0x56030100, 5, 0] = .instr (.fmulBl 3 1 5) 3 ∧
    dec [0x57030100, 5, 0] = .instr (.ffmaBl 3 1 5) 3 ∧
    dec [0x58030100, 5, 0] = .instr (.fminBl 3 1 5) 3 ∧
    dec [0x59030100, 5, 0] = .instr (.fmaxBl 3 1 5) 3 ∧
    dec [0x61010400, 64, 1] = .instr (.ld32Bl 1 4 0x100000040) 3 ∧
    dec [0x62010400, 64, 1] = .instr (.st32Bl 1 4 0x100000040) 3 ∧
    dec [0x63010400, 64, 0] = .instr (.lds32Bl 1 4 64) 3 ∧
    dec [0x64010400, 64, 0] = .instr (.sts32Bl 1 4 64) 3 ∧
    dec [0x65000000, 8, 0] = .instr (.braBl 8) 3 ∧
    dec [0x66000000, 8, 0] = .instr (.callBl 8) 3 := by
  decide


/-! ## Well-formedness: a term that breaks each check of the encoding rules, refused at the word and lowest bit of the field -/

/-- The X form (07 R151 to R163): the literal's form, the four operand fields, the patterns and their parameters, the
sub-selects, the write mode, MASK, ROUND, TYPE, F, and the literal's high bits. -/
theorem test_ill_formed_x :
    (Instr.ldi { d := 3, wmode := 1 }).offence = some (0, 30) ∧
    (Instr.iaddX { d := 0xF9, a := 1, b := 2, wmode := 1 }).offence = some (0, 16) ∧
    (Instr.iaddX { d := 3, a := 0xF9, b := 2, wmode := 1 }).offence = some (0, 8) ∧
    (Instr.iaddX { d := 3, a := 1, b := 0xF9, wmode := 1 }).offence = some (0, 0) ∧
    (Instr.iaddX { d := 3, a := 1, b := 2, c := 4, wmode := 1 }).offence = some (1, 24) ∧
    (Instr.iaddX { d := 3, a := 1, b := 2, apat := 7, wmode := 1 }).offence = some (1, 12) ∧
    (Instr.iaddX { d := 3, a := 1, b := 2, aparm := 7, wmode := 1 }).offence = some (1, 6) ∧
    (Instr.iaddX { d := 3, a := 1, b := 2, asub := 9, wmode := 1 }).offence = some (1, 2) ∧
    (Instr.iaddX { d := 0xA3, a := 1, b := 2, wmode := 1 }).offence = some (1, 0) ∧
    (Instr.iaddX { d := 3, a := 1, b := 2, wmode := 1, bpat := 7 }).offence = some (2, 28) ∧
    (Instr.iaddX { d := 3, a := 1, b := 2, wmode := 1, bparm := 7 }).offence = some (2, 22) ∧
    (Instr.iaddX { d := 3, a := 1, b := 2, wmode := 1, bsub := 9 }).offence = some (2, 18) ∧
    (Instr.kand { d := 0xE1, a := 0xE2, b := 0xE0, mask := 1 }).offence = some (2, 14) ∧
    (Instr.faddX { d := 3, a := 1, b := 2, wmode := 1, round := 7 }).offence = some (2, 11) ∧
    (Instr.faddX { d := 3, a := 1, b := 2, wmode := 1, type := 3 }).offence = some (2, 8) ∧
    (Instr.iaddX { d := 3, a := 1, b := 2, wmode := 1, f := 1 }).offence = some (2, 0) ∧
    (Instr.braX { a := 0xE0, lit := some 0x100000000 }).offence = some (4, 0) ∧
    (Instr.iaddX { d := 3, a := 0xF9, b := 0xF9, wmode := 1 }).wf = false := by decide

/-- The B and BL forms and PFX (R153 to R157). -/
theorem test_ill_formed_short :
    (Instr.iadd 0xF9 1 2).offence = some (0, 16) ∧ (Instr.iadd 3 0xF9 2).offence = some (0, 8) ∧ (Instr.iadd 3 1 0xF9).offence = some (0, 0) ∧
    (Instr.iaddi 0xF9 1 2).offence = some (0, 16) ∧ (Instr.shli 3 0xF9 2).offence = some (0, 8) ∧ (Instr.movi 0xF9 2).offence = some (0, 16) ∧
    (Instr.wait 0 0 0 0 0x30).offence = some (0, 0) ∧ (Instr.join 2 0x30).offence = some (0, 0) ∧ (Instr.xfer 0x30 1 2).offence = some (0, 16) ∧
    (Instr.iaddBl 3 1 0x100000000).offence = some (2, 0) ∧ (Instr.movBl 0xF9 5).offence = some (0, 16) ∧
    (Instr.braBl 0x100000000).offence = some (2, 0) ∧ (Instr.ld32Bl 3 0xF9 5).offence = some (0, 8) ∧
    (Instr.pfx 0 2 0 0 0x14030102).offence = some (0, 18) ∧ (Instr.pfx 0 1 0 0 0x14A30102).offence = some (0, 18) ∧
    (Instr.pfx 0 0 7 0 0x14030102).offence = some (0, 15) ∧ (Instr.pfx 0 0 0 9 0x14030102).offence = some (0, 7) ∧
    (Instr.pfx 0 0 0 0 0x14F90102).offence = some (1, 16) := by decide

/-! ## Small machines -/

/-- A launch of one team of one partition, of a width in 16 lanes and a number of groups. -/
def fetched (width16 groups : Nat) : Launch :=
  { fetchLaunch with desc := { fetchLaunch.desc with width16 := width16, groups := groups } }

/-- A machine with that team on core 0, at the PC 0x1000, and the first 2 GiB of its space mapped. -/
def small (width16 groups : Nat) : State :=
  { (State.reset.placed 32 0) with
    launches := [fetched width16 groups], teams := [newTeam (fetched width16 groups) (teamOf fetchGroup) 0 4 0 0], agenda := [], cur := fetchGroup }



/-- A uniform register. -/
def uni (v : Word) : Reg := { base := v }

def s16 := small 1 1
def s64 := small 4 1
def sTwo := small 1 2
def sFmt := s16.but (fun g => { g with fmt := [0x07C8, 0x07C8] })
def sRec := s16.but (fun g => { g with regs := [(0xA2, uni 0x07C8)] })
def sK := s16.but (fun g => { g with ks := [{}, { mask := 1 }] })
def sDeep (n : Nat) := s16.but (fun g => { g with depth := n, stack := List.replicate (min n 16) 0x1000 })
def sJoin (p k : Mask) := s16.but (fun g => { g with ks := [{}, {}, { mask := k, depth := some 0 }], paths := [{ pc := 0x1000, mask := p }] ++ (if p = 0xFFFF then [] else [{ pc := 0x2000, mask := 0xFFFF &&& ~~~p }]) })
def sRight : State := { s16 with rights := [{ launch := 1, fn := { link := 0, num := 0 }, ring := 0x20000, size := 16 }] }
def sLoads (n : Nat) := s16.but (fun g => { g with ld := (List.range n).map (fun i => { seq := i, pc := 0x1000, delivers := [] }), nextSeq := n })
def sFail := s16.but (fun g => { g with fails := [{ cls := .tl, seq := 0, pc := 0x1000, info := { code := 0x29 } }] })
def plain : SyncObj := { kind := 0, base := 0, len := 0, res0 := 0, owner := 0, gen := 0, expected := 0, arrived := 0, droppend := 0, res1 := 0 }
def sKAll := s16.but (fun g => { g with ks := [{}, { mask := 0xFFFF }] })
def sOver : State := { sDeep 17 with launches := [{ fetched 1 1 with desc := { (fetched 1 1).desc with calls := 2, callArea := 0x8000 } }] }
def sObj (o : SyncObj) : State := { s16 with mem := cellWrites s16.mem 0 o.bytes }
def sBar (o : SyncObj) : State := (sObj o).but (fun g => { g with regs := [(0xA4, uni 16)] })
def sNone (o : SyncObj) : State := (sObj o).but (fun g => { g with ks := [{}, {}] })
def sBase : State := s16.but (fun g => { g with regs := [(0xA4, uni 64), (0xA6, uni 32)] })
def sOne : State := s16.but (fun g => { g with regs := [(0xA4, uni 1)] })
def sCopy : State := s16.but (fun g => { g with regs := [(0xA3, uni 0), (0xA4, uni 0x4000), (0xA6, uni 64)] })
def sLease : State := { s64 with engines := [(0, { lease := some (teamOf fetchGroup, 3) })] }
def sSlot : State := { s64 with teams := s64.teams.map (fun t => t.modCur (fun c => { c with cores := c.cores.map (fun h => { h with qs := [(0, { tA := 0, tB := none })] }) })) }
def sLead : State := (small 1 2).but (fun g => { g with ks := [{}, { mask := 1 }] })
def sNoHelp : State := s16.but (fun g => { g with ks := [{}, { mask := 1 }] })
def sRope (m : Mask) : State := (small 1 2).but (fun g => { g with
  state := .leaderSuspended
  rope := some { n := 2, positions := [16, 17], lenders := [], leaderLane := 0, recruitPc := 0x800, nextPc := 0x814, hregs := []
                 ks := [], paths := if m = 3 then [{ pc := 0x1000, mask := m }] else [{ pc := 0x1000, mask := m }, { pc := 0x2000, mask := 3 &&& ~~~m }], used := [0, 0] } })
def sChild : State := { s16 with launches := [{ fetched 1 1 with childQ := 1 }] }



/-! ## Witnesses: the hypotheses of every statement can be met together

An instruction that passes every check, as `Runs` asks. -/

def runs (o : Op) (plan : Ctx → State → Plan) (s : State) : Bool :=
  match o.issuer s with
  | none => false
  | some c => c.verdict o false (plan c (c.start o s)) == .go && (c.done (plan c (c.start o s)).effect).logFits c.core

def Ran (o : Op) (plan : Ctx → State → Plan) (s : State) : Prop := ∃ c, Runs o plan s c

theorem ran {o : Op} {plan : Ctx → State → Plan} {s : State} (h : runs o plan s = true) : Ran o plan s := by
  unfold runs at h
  split at h
  · cases h
  · next c hc =>
    simp only [Bool.and_eq_true, beq_iff_eq] at h
    exact ⟨c, hc, h.1, h.2⟩
theorem test_witness_IntegerFunctions :
    Ran (opX 0x01 0x00 { d := 3, a := 1, b := 2, wmode := 1 }) (planIadd { d := 3, a := 1, b := 2, wmode := 1 }) s16 ∧
    Ran (opX 0x01 0x01 { d := 3, a := 1, b := 2, wmode := 1 }) (planIsub { d := 3, a := 1, b := 2, wmode := 1 }) s16 ∧
    Ran (opX 0x01 0x02 { d := 3, a := 1, b := 2, wmode := 1, c := 4 }) (intPlan 0x02 .none (opIaddc { d := 3, a := 1, b := 2, wmode := 1, c := 4 }) { d := 3, a := 1, b := 2, wmode := 1, c := 4 }) s16 ∧
    Ran (opX 0x01 0x03 { d := 3, a := 1, b := 2, wmode := 1, c := 4 }) (intPlan 0x03 .none (opIsubb { d := 3, a := 1, b := 2, wmode := 1, c := 4 }) { d := 3, a := 1, b := 2, wmode := 1, c := 4 }) s16 ∧
    Ran (opX 0x01 0x04 { d := 3, a := 1, b := 2, wmode := 1 }) (intPlan 0x04 .mul (opImul { d := 3, a := 1, b := 2, wmode := 1 }) { d := 3, a := 1, b := 2, wmode := 1 }) s16 ∧
    Ran (opX 0x01 0x05 { d := 3, a := 1, b := 2, wmode := 1 }) (intPlan 0x05 .none (opImulhS { d := 3, a := 1, b := 2, wmode := 1 }) { d := 3, a := 1, b := 2, wmode := 1 }) s16 ∧
    Ran (opX 0x01 0x06 { d := 3, a := 1, b := 2, wmode := 1 }) (intPlan 0x06 .none (opImulhU { d := 3, a := 1, b := 2, wmode := 1 }) { d := 3, a := 1, b := 2, wmode := 1 }) s16 ∧
    Ran (opX 0x01 0x07 { d := 3, a := 1, b := 2, wmode := 1 }) (intPlan 0x07 .none (opImad { d := 3, a := 1, b := 2, wmode := 1 }) { d := 3, a := 1, b := 2, wmode := 1 }) s16 ∧
    Ran (opX 0x01 0x08 { d := 3, a := 1, b := 2, wmode := 1 }) (intPlan 0x08 .none (opImin { d := 3, a := 1, b := 2, wmode := 1 }) { d := 3, a := 1, b := 2, wmode := 1 }) s16 ∧
    Ran (opX 0x01 0x09 { d := 3, a := 1, b := 2, wmode := 1 }) (intPlan 0x09 .none (opImax { d := 3, a := 1, b := 2, wmode := 1 }) { d := 3, a := 1, b := 2, wmode := 1 }) s16 ∧
    Ran (opX 0x01 0x0A { d := 3, a := 1, wmode := 1 }) (intPlan 0x0A .none (opIabs { d := 3, a := 1, wmode := 1 }) { d := 3, a := 1, wmode := 1 }) s16 ∧
    Ran (opX 0x01 0x0B { d := 3, a := 1, wmode := 1 }) (intPlan 0x0B .none (opIneg { d := 3, a := 1, wmode := 1 }) { d := 3, a := 1, wmode := 1 }) s16 ∧
    Ran (opX 0x01 0x11 { d := 3, a := 1, b := 2, wmode := 1 }) (intPlan 0x11 .shl (opShl { d := 3, a := 1, b := 2, wmode := 1 }) { d := 3, a := 1, b := 2, wmode := 1 }) s16 ∧
    Ran (opX 0x01 0x12 { d := 3, a := 1, b := 2, wmode := 1 }) (intPlan 0x12 .none (opShr { d := 3, a := 1, b := 2, wmode := 1 }) { d := 3, a := 1, b := 2, wmode := 1 }) s16 ∧
    Ran (opX 0x01 0x13 { d := 3, a := 1, b := 2, wmode := 1 }) (intPlan 0x13 .none (opSar { d := 3, a := 1, b := 2, wmode := 1 }) { d := 3, a := 1, b := 2, wmode := 1 }) s16 ∧
    Ran (opX 0x01 0x1C { d := 3, a := 1, b := 2, wmode := 1 }) (intPlan 0x1C .none (opIcmp { d := 3, a := 1, b := 2, wmode := 1 }) { d := 3, a := 1, b := 2, wmode := 1 }) s16 :=
  ⟨ran (by decide +kernel), ran (by decide +kernel), ran (by decide +kernel), ran (by decide +kernel), ran (by decide +kernel), ran (by decide +kernel), ran (by decide +kernel), ran (by decide +kernel), ran (by decide +kernel), ran (by decide +kernel), ran (by decide +kernel), ran (by decide +kernel), ran (by decide +kernel), ran (by decide +kernel), ran (by decide +kernel), ran (by decide +kernel)⟩
theorem test_witness_WordFunctions :
    Ran (opX 0x01 0x0C { d := 3, a := 1, b := 2, wmode := 1 }) (intPlan 0x0C .none opAnd { d := 3, a := 1, b := 2, wmode := 1 }) s16 ∧
    Ran (opX 0x01 0x0D { d := 3, a := 1, b := 2, wmode := 1 }) (intPlan 0x0D .none opOr { d := 3, a := 1, b := 2, wmode := 1 }) s16 ∧
    Ran (opX 0x01 0x0E { d := 3, a := 1, b := 2, wmode := 1 }) (intPlan 0x0E .none opXor { d := 3, a := 1, b := 2, wmode := 1 }) s16 ∧
    Ran (opX 0x01 0x0F { d := 3, a := 1, b := 2, wmode := 1 }) (intPlan 0x0F .none opAndn { d := 3, a := 1, b := 2, wmode := 1 }) s16 ∧
    Ran (opX 0x01 0x10 { d := 3, a := 1, wmode := 1 }) (intPlan 0x10 .none opNot { d := 3, a := 1, wmode := 1 }) s16 ∧
    Ran (opX 0x01 0x14 { d := 3, a := 1, b := 2, wmode := 1 }) (intPlan 0x14 .none opRotl { d := 3, a := 1, b := 2, wmode := 1 }) s16 ∧
    Ran (opX 0x01 0x15 { d := 3, a := 1, b := 2, wmode := 1 }) (intPlan 0x15 .none opRotr { d := 3, a := 1, b := 2, wmode := 1 }) s16 ∧
    Ran (opX 0x01 0x16 { d := 3, a := 1, wmode := 1 }) (intPlan 0x16 .none opPopc { d := 3, a := 1, wmode := 1 }) s16 ∧
    Ran (opX 0x01 0x17 { d := 3, a := 1, wmode := 1 }) (intPlan 0x17 .none opClz { d := 3, a := 1, wmode := 1 }) s16 ∧
    Ran (opX 0x01 0x18 { d := 3, a := 1, wmode := 1 }) (intPlan 0x18 .none opCtz { d := 3, a := 1, wmode := 1 }) s16 ∧
    Ran (opX 0x01 0x19 { d := 3, a := 1, wmode := 1 }) (intPlan 0x19 .none opBrev { d := 3, a := 1, wmode := 1 }) s16 ∧
    Ran (opX 0x01 0x1A { d := 3, a := 1, b := 2, wmode := 1 }) (intPlan 0x1A .none (opBfx { d := 3, a := 1, b := 2, wmode := 1 }) { d := 3, a := 1, b := 2, wmode := 1 }) s16 ∧
    Ran (opX 0x01 0x1B { d := 3, a := 1, b := 2, wmode := 1 }) (intPlan 0x1B .none opBfi { d := 3, a := 1, b := 2, wmode := 1 }) s16 ∧
    Ran (opX 0x01 0x1D { d := 3, a := 1, b := 2, wmode := 1, c := 4 }) (intPlan 0x1D .none opIsel { d := 3, a := 1, b := 2, wmode := 1, c := 4 }) s16 ∧
    Ran (opX 0x01 0x1E { d := 3, a := 1, b := 2, wmode := 1, c := 4 }) (planLea { d := 3, a := 1, b := 2, wmode := 1, c := 4 }) s16 ∧
    Ran (opX 0x01 0x1F { d := 3, a := 1, wmode := 1 }) (planMov { d := 3, a := 1, wmode := 1 }) s16 ∧
    Ran (opX 0x01 0x20 { d := 3, wmode := 1, lit := some 7 }) (planLdi { d := 3, wmode := 1, lit := some 7 }) s16 :=
  ⟨ran (by decide +kernel), ran (by decide +kernel), ran (by decide +kernel), ran (by decide +kernel), ran (by decide +kernel), ran (by decide +kernel), ran (by decide +kernel), ran (by decide +kernel), ran (by decide +kernel), ran (by decide +kernel), ran (by decide +kernel), ran (by decide +kernel), ran (by decide +kernel), ran (by decide +kernel), ran (by decide +kernel), ran (by decide +kernel), ran (by decide +kernel)⟩
theorem test_witness_WideFunctions :
    Ran (opX 0x01 0x00 { d := 4, a := 2, b := 6, wmode := 1, type := 5 }) (planIadd { d := 4, a := 2, b := 6, wmode := 1, type := 5 }) s16 ∧
    Ran (opX 0x01 0x01 { d := 4, a := 2, b := 6, wmode := 1, type := 5 }) (planIsub { d := 4, a := 2, b := 6, wmode := 1, type := 5 }) s16 ∧
    Ran (opX 0x01 0x1E { d := 4, a := 2, b := 6, c := 8, wmode := 1, type := 5 }) (planLea { d := 4, a := 2, b := 6, c := 8, wmode := 1, type := 5 }) s16 ∧
    Ran (opX 0x01 0x1F { d := 4, a := 2, wmode := 1, type := 5 }) (planMov { d := 4, a := 2, wmode := 1, type := 5 }) s16 ∧
    Ran (opX 0x01 0x20 { d := 4, wmode := 1, type := 5, lit := some 7 }) (planLdi { d := 4, wmode := 1, type := 5, lit := some 7 }) s16 :=
  ⟨ran (by decide +kernel), ran (by decide +kernel), ran (by decide +kernel), ran (by decide +kernel), ran (by decide +kernel)⟩
theorem test_witness_FloatFunctions :
    Ran (opX 0x02 0x00 { d := 3, a := 1, b := 2, wmode := 1 }) (planFadd { d := 3, a := 1, b := 2, wmode := 1 }) s16 ∧
    Ran (opX 0x02 0x01 { d := 3, a := 1, b := 2, wmode := 1 }) (planFsub { d := 3, a := 1, b := 2, wmode := 1 }) s16 ∧
    Ran (opX 0x02 0x02 { d := 3, a := 1, b := 2, wmode := 1 }) (planFmul { d := 3, a := 1, b := 2, wmode := 1 }) s16 ∧
    Ran (opX 0x02 0x03 { d := 3, a := 1, b := 2, wmode := 1, c := 4 }) (planFfma { d := 3, a := 1, b := 2, wmode := 1, c := 4 }) s16 ∧
    Ran (opX 0x02 0x04 { d := 3, a := 1, b := 2, wmode := 1 }) (planFmin { d := 3, a := 1, b := 2, wmode := 1 }) s16 ∧
    Ran (opX 0x02 0x05 { d := 3, a := 1, b := 2, wmode := 1 }) (planFmax { d := 3, a := 1, b := 2, wmode := 1 }) s16 ∧
    Ran (opX 0x02 0x06 { d := 3, a := 1, wmode := 1 }) (planFabs { d := 3, a := 1, wmode := 1 }) s16 ∧
    Ran (opX 0x02 0x07 { d := 3, a := 1, wmode := 1 }) (planFneg { d := 3, a := 1, wmode := 1 }) s16 ∧
    Ran (opX 0x02 0x08 { d := 3, a := 1, b := 2, wmode := 1 }) (planFcmp { d := 3, a := 1, b := 2, wmode := 1 }) s16 ∧
    Ran (opX 0x02 0x09 { d := 3, a := 1, b := 2, wmode := 1, c := 4 }) (planFsel { d := 3, a := 1, b := 2, wmode := 1, c := 4 }) s16 ∧
    Ran (opX 0x02 0x0A { d := 3, a := 1, wmode := 1 }) (planFclass { d := 3, a := 1, wmode := 1 }) s16 ∧
    Ran (opX 0x02 0x0B { d := 3, a := 1, b := 2, wmode := 1 }) (planFdiv { d := 3, a := 1, b := 2, wmode := 1 }) s16 ∧
    Ran (opX 0x02 0x0C { d := 3, a := 1, wmode := 1 }) (planFsqrt { d := 3, a := 1, wmode := 1 }) s16 ∧
    Ran (opX 0x02 0x0D { d := 3, a := 1, wmode := 1 }) (planFrcp { d := 3, a := 1, wmode := 1 }) s16 ∧
    Ran (opX 0x02 0x0E { d := 3, a := 1, wmode := 1 }) (planFrsq { d := 3, a := 1, wmode := 1 }) s16 ∧
    Ran (opX 0x02 0x0F { d := 3, a := 1, wmode := 1 }) (planFexp2 { d := 3, a := 1, wmode := 1 }) s16 ∧
    Ran (opX 0x02 0x10 { d := 3, a := 1, wmode := 1 }) (planFlog2 { d := 3, a := 1, wmode := 1 }) s16 ∧
    Ran (opX 0x02 0x11 { d := 3, a := 1, wmode := 1 }) (planFsinpi { d := 3, a := 1, wmode := 1 }) s16 ∧
    Ran (opX 0x02 0x12 { d := 3, a := 1, wmode := 1 }) (planFcospi { d := 3, a := 1, wmode := 1 }) s16 ∧
    Ran (opX 0x02 0x13 { d := 3, a := 1, wmode := 1 }) (planFtanh { d := 3, a := 1, wmode := 1 }) s16 ∧
    Ran (opX 0x02 0x14 { d := 3, a := 1, b := 2, wmode := 1 }) (planFscale { d := 3, a := 1, b := 2, wmode := 1 }) s16 :=
  ⟨ran (by decide +kernel), ran (by decide +kernel), ran (by decide +kernel), ran (by decide +kernel), ran (by decide +kernel), ran (by decide +kernel), ran (by decide +kernel), ran (by decide +kernel), ran (by decide +kernel), ran (by decide +kernel), ran (by decide +kernel), ran (by decide +kernel), ran (by decide +kernel), ran (by decide +kernel), ran (by decide +kernel), ran (by decide +kernel), ran (by decide +kernel), ran (by decide +kernel), ran (by decide +kernel), ran (by decide +kernel), ran (by decide +kernel)⟩
theorem test_witness_ConversionAndDotFunctions :
    Ran (opX 0x03 0x00 { d := 3, a := 1, wmode := 1, f := 0x10 }) (planCvt { d := 3, a := 1, wmode := 1, f := 0x10 }) s16 ∧
    Ran (opX 0x03 0x00 { d := 3, a := 1, wmode := 1, f := 0xB0 }) (planCvt { d := 3, a := 1, wmode := 1, f := 0xB0 }) s16 ∧
    Ran (opX 0x03 0x01 { d := 3, a := 1, wmode := 1, f := 0x80 }) (planCvtn { d := 3, a := 1, wmode := 1, f := 0x80 }) sFmt ∧
    Ran (opX 0x03 0x02 { d := 3, a := 1, wmode := 1, f := 0x00 }) (planPackn { d := 3, a := 1, wmode := 1, f := 0x00 }) sFmt ∧
    Ran (opX 0x03 0x03 { d := 3, a := 1, wmode := 1, f := 0x80 }) (planUnpackn { d := 3, a := 1, wmode := 1, f := 0x80 }) sFmt ∧
    Ran (opX 0x03 0x04 { d := 3, a := 1, b := 2, wmode := 1 }) (planScaleb { d := 3, a := 1, b := 2, wmode := 1 }) s16 ∧
    Ran (opX 0x04 0x00 { d := 3, a := 1, b := 2, wmode := 1, c := 4 }) (planIdp2 { d := 3, a := 1, b := 2, wmode := 1, c := 4 }) s16 ∧
    Ran (opX 0x04 0x01 { d := 3, a := 1, b := 2, wmode := 1, c := 4 }) (planIdp4 { d := 3, a := 1, b := 2, wmode := 1, c := 4 }) s16 ∧
    Ran (opX 0x04 0x02 { d := 3, a := 1, b := 2, wmode := 1, c := 4 }) (planIdp8 { d := 3, a := 1, b := 2, wmode := 1, c := 4 }) s16 ∧
    Ran (opX 0x04 0x03 { d := 3, a := 1, b := 2, wmode := 1, c := 4 }) (planFdp2 { d := 3, a := 1, b := 2, wmode := 1, c := 4 }) s16 :=
  ⟨ran (by decide +kernel), ran (by decide +kernel), ran (by decide +kernel), ran (by decide +kernel), ran (by decide +kernel), ran (by decide +kernel), ran (by decide +kernel), ran (by decide +kernel), ran (by decide +kernel), ran (by decide +kernel)⟩
theorem test_witness_CrossLaneFunctions :
    Ran (opX 0x05 0x00 { d := 3, a := 1, b := 2, wmode := 1 }) (planPerm { d := 3, a := 1, b := 2, wmode := 1 }) s16 ∧
    Ran (opX 0x05 0x01 { d := 3, a := 1, wmode := 1 }) (planRedux { d := 3, a := 1, wmode := 1 }) s16 ∧
    Ran (opX 0x05 0x02 { d := 3, a := 1, wmode := 1, f := 0x10 }) (planScan { d := 3, a := 1, wmode := 1, f := 0x10 }) s16 ∧
    Ran (opX 0x05 0x03 { d := 3, a := 1, wmode := 1, f := 3 }) (planVote { d := 3, a := 1, wmode := 1, f := 3 }) s16 ∧
    Ran (opX 0x05 0x04 { d := 3, a := 1, wmode := 1 }) (planMatch { d := 3, a := 1, wmode := 1 }) s16 ∧
    Ran (opX 0x05 0x03 { d := 4, a := 1, wmode := 1, f := 2 }) (planVote { d := 4, a := 1, wmode := 1, f := 2 }) s16 :=
  ⟨ran (by decide +kernel), ran (by decide +kernel), ran (by decide +kernel), ran (by decide +kernel), ran (by decide +kernel), ran (by decide +kernel)⟩
theorem test_witness_MaskFunctions :
    Ran (opX 0x06 0x00 { d := 0xE1, a := 0xE2, b := 0xE0 }) (planKand { d := 0xE1, a := 0xE2, b := 0xE0 }) s16 ∧
    Ran (opX 0x06 0x01 { d := 0xE1, a := 0xE2, b := 0xE0 }) (planKor { d := 0xE1, a := 0xE2, b := 0xE0 }) s16 ∧
    Ran (opX 0x06 0x02 { d := 0xE1, a := 0xE2, b := 0xE0 }) (planKxor { d := 0xE1, a := 0xE2, b := 0xE0 }) s16 ∧
    Ran (opX 0x06 0x03 { d := 0xE1, a := 0xE2 }) (planKnot { d := 0xE1, a := 0xE2 }) s16 ∧
    Ran (opX 0x06 0x07 { d := 0xE1, lit := some 5 }) (planKset { d := 0xE1, lit := some 5 }) s16 ∧
    Ran (opX 0x06 0x04 { d := 0xE1, a := 3 }) (planKmov { d := 0xE1, a := 3 }) s16 ∧
    Ran (opX 0x06 0x04 { d := 0xE1, a := 0xE2 }) (planKmov { d := 0xE1, a := 0xE2 }) s16 ∧
    Ran (opX 0x06 0x04 { d := 0xE1, a := 0xA2 }) (planKmov { d := 0xE1, a := 0xA2 }) s16 ∧
    Ran (opX 0x06 0x04 { d := 0xA2, a := 0xE2 }) (planKmov { d := 0xA2, a := 0xE2 }) s16 ∧
    Ran (opX 0x06 0x05 { d := 0xA2, a := 0xE0 }) (planKpop { d := 0xA2, a := 0xE0 }) s16 ∧
    Ran (opX 0x06 0x06 { d := 0xA2, a := 0xE0 }) (planKffs { d := 0xA2, a := 0xE0 }) s16 :=
  ⟨ran (by decide +kernel), ran (by decide +kernel), ran (by decide +kernel), ran (by decide +kernel), ran (by decide +kernel), ran (by decide +kernel), ran (by decide +kernel), ran (by decide +kernel), ran (by decide +kernel), ran (by decide +kernel), ran (by decide +kernel)⟩
theorem test_witness_RandomAndFormatFunctions :
    Ran (opX 0x10 0x00 { d := 4, a := 0xA2, b := 6, wmode := 1, f := 1 }) (planRand { d := 4, a := 0xA2, b := 6, wmode := 1, f := 1 }) s16 ∧
    Ran (opX 0x11 0x00 { c := 0xA2 }) (planFmtset { c := 0xA2 }) sRec ∧
    Ran (opX 0x11 0x01 { d := 0xA3, f := 1 }) (planFmtget { d := 0xA3, f := 1 }) s16 :=
  ⟨ran (by decide +kernel), ran (by decide +kernel), ran (by decide +kernel)⟩
theorem test_witness_ShortForms :
    Ran (majorOp 0x01 0x03 0x01 0x02) (bPlan 0x01 0x02 (majorOp 0x01 0x03 0x01 0x02).x) s16 ∧
    Ran (majorOp 0x02 0x03 0x01 0x02) (bPlan 0x02 0x02 (majorOp 0x02 0x03 0x01 0x02).x) s16 ∧
    Ran (majorOp 0x03 0x03 0x01 0x02) (bPlan 0x03 0x02 (majorOp 0x03 0x03 0x01 0x02).x) s16 ∧
    Ran (majorOp 0x04 0x03 0x01 0x02) (bPlan 0x04 0x02 (majorOp 0x04 0x03 0x01 0x02).x) s16 ∧
    Ran (majorOp 0x05 0x03 0x01 0x02) (bPlan 0x05 0x02 (majorOp 0x05 0x03 0x01 0x02).x) s16 ∧
    Ran (majorOp 0x06 0x03 0x01 0x02) (bPlan 0x06 0x02 (majorOp 0x06 0x03 0x01 0x02).x) s16 ∧
    Ran (majorOp 0x07 0x03 0x01 0x02) (bPlan 0x07 0x02 (majorOp 0x07 0x03 0x01 0x02).x) s16 ∧
    Ran (majorOp 0x08 0x03 0x01 0x02) (bPlan 0x08 0x02 (majorOp 0x08 0x03 0x01 0x02).x) s16 ∧
    Ran (majorOp 0x09 0x03 0x01 0x02) (bPlan 0x09 0x02 (majorOp 0x09 0x03 0x01 0x02).x) s16 ∧
    Ran (majorOp 0x0A 0x03 0x01 0x02) (bPlan 0x0A 0x02 (majorOp 0x0A 0x03 0x01 0x02).x) s16 ∧
    Ran (majorOp 0x0B 0x03 0x01 0x02) (bPlan 0x0B 0x02 (majorOp 0x0B 0x03 0x01 0x02).x) s16 ∧
    Ran (majorOp 0x0C 0x03 0x01 0x02) (bPlan 0x0C 0x02 (majorOp 0x0C 0x03 0x01 0x02).x) s16 ∧
    Ran (majorOp 0x0D 0x03 0x01 0x02) (bPlan 0x0D 0x02 (majorOp 0x0D 0x03 0x01 0x02).x) s16 ∧
    Ran (majorOp 0x0E 0x03 0x01 0x05) (bPlan 0x0E 0x05 (majorOp 0x0E 0x03 0x01 0x05).x) s16 ∧
    Ran (majorOp 0x0F 0x03 0x01 0x05) (bPlan 0x0F 0x05 (majorOp 0x0F 0x03 0x01 0x05).x) s16 ∧
    Ran (majorOp 0x10 0x03 0x01 0x05) (bPlan 0x10 0x05 (majorOp 0x10 0x03 0x01 0x05).x) s16 ∧
    Ran (majorOp 0x11 0x03 0x01 0x02) (bPlan 0x11 0x02 (majorOp 0x11 0x03 0x01 0x02).x) s16 ∧
    Ran (majorOp 0x12 0xA2 0x03 0xE8) (bPlan 0x12 0xE8 (majorOp 0x12 0xA2 0x03 0xE8).x) s16 ∧
    Ran (majorOp 0x13 0x03 0x01 0x00) (bPlan 0x13 0x00 (majorOp 0x13 0x03 0x01 0x00).x) s16 ∧
    Ran (majorOp 0x14 0x03 0x01 0x02) (bPlan 0x14 0x02 (majorOp 0x14 0x03 0x01 0x02).x) s16 ∧
    Ran (majorOp 0x15 0x03 0x01 0x02) (bPlan 0x15 0x02 (majorOp 0x15 0x03 0x01 0x02).x) s16 ∧
    Ran (majorOp 0x16 0x03 0x01 0x02) (bPlan 0x16 0x02 (majorOp 0x16 0x03 0x01 0x02).x) s16 ∧
    Ran (majorOp 0x17 0x03 0x01 0x02) (bPlan 0x17 0x02 (majorOp 0x17 0x03 0x01 0x02).x) s16 ∧
    Ran (majorOp 0x18 0x03 0x01 0x02) (bPlan 0x18 0x02 (majorOp 0x18 0x03 0x01 0x02).x) s16 ∧
    Ran (majorOp 0x19 0x03 0x01 0x02) (bPlan 0x19 0x02 (majorOp 0x19 0x03 0x01 0x02).x) s16 ∧
    Ran (majorOp 0x1A 0x03 0x01 0x02) (bPlan 0x1A 0x02 (majorOp 0x1A 0x03 0x01 0x02).x) s16 ∧
    Ran (majorOp 0x1B 0x03 0x01 0x02) (bPlan 0x1B 0x02 (majorOp 0x1B 0x03 0x01 0x02).x) s16 ∧
    Ran (majorOp 0x1C 0x03 0x01 0x02) (bPlan 0x1C 0x02 (majorOp 0x1C 0x03 0x01 0x02).x) s16 ∧
    Ran (majorOp 0x1D 0x03 0x01 0x02) (bPlan 0x1D 0x02 (majorOp 0x1D 0x03 0x01 0x02).x) s16 ∧
    Ran (majorOp 0x1E 0x03 0x01 0x02) (bPlan 0x1E 0x02 (majorOp 0x1E 0x03 0x01 0x02).x) s16 ∧
    Ran (majorOp 0x1F 0x03 0x01 0x02) (bPlan 0x1F 0x02 (majorOp 0x1F 0x03 0x01 0x02).x) s16 ∧
    Ran (majorOp 0x20 0x03 0x01 0x01) (bPlan 0x20 0x01 (majorOp 0x20 0x03 0x01 0x01).x) s16 :=
  ⟨ran (by decide +kernel), ran (by decide +kernel), ran (by decide +kernel), ran (by decide +kernel), ran (by decide +kernel), ran (by decide +kernel), ran (by decide +kernel), ran (by decide +kernel), ran (by decide +kernel), ran (by decide +kernel), ran (by decide +kernel), ran (by decide +kernel), ran (by decide +kernel), ran (by decide +kernel), ran (by decide +kernel), ran (by decide +kernel), ran (by decide +kernel), ran (by decide +kernel), ran (by decide +kernel), ran (by decide +kernel), ran (by decide +kernel), ran (by decide +kernel), ran (by decide +kernel), ran (by decide +kernel), ran (by decide +kernel), ran (by decide +kernel), ran (by decide +kernel), ran (by decide +kernel), ran (by decide +kernel), ran (by decide +kernel), ran (by decide +kernel), ran (by decide +kernel)⟩
theorem test_witness_LiteralAndPrefixedForms :
    Ran (majorOpBL 0x01 0x03 0x01 0x05) (bPlan 0x01 0x00 (majorOpBL 0x01 0x03 0x01 0x05).x) s16 ∧
    Ran (majorOpBL 0x02 0x03 0x01 0x05) (bPlan 0x02 0x00 (majorOpBL 0x02 0x03 0x01 0x05).x) s16 ∧
    Ran (majorOpBL 0x03 0x03 0x01 0x05) (bPlan 0x03 0x00 (majorOpBL 0x03 0x03 0x01 0x05).x) s16 ∧
    Ran (majorOpBL 0x04 0x03 0x01 0x05) (bPlan 0x04 0x00 (majorOpBL 0x04 0x03 0x01 0x05).x) s16 ∧
    Ran (majorOpBL 0x05 0x03 0x01 0x05) (bPlan 0x05 0x00 (majorOpBL 0x05 0x03 0x01 0x05).x) s16 ∧
    Ran (majorOpBL 0x06 0x03 0x01 0x05) (bPlan 0x06 0x00 (majorOpBL 0x06 0x03 0x01 0x05).x) s16 ∧
    Ran (majorOpBL 0x07 0x03 0x01 0x05) (bPlan 0x07 0x00 (majorOpBL 0x07 0x03 0x01 0x05).x) s16 ∧
    Ran (majorOpBL 0x08 0x03 0x01 0x05) (bPlan 0x08 0x00 (majorOpBL 0x08 0x03 0x01 0x05).x) s16 ∧
    Ran (majorOpBL 0x09 0x03 0x01 0x05) (bPlan 0x09 0x00 (majorOpBL 0x09 0x03 0x01 0x05).x) s16 ∧
    Ran (majorOpBL 0x0A 0x03 0x01 0x05) (bPlan 0x0A 0x00 (majorOpBL 0x0A 0x03 0x01 0x05).x) s16 ∧
    Ran (majorOpBL 0x0B 0x03 0x01 0x05) (bPlan 0x0B 0x00 (majorOpBL 0x0B 0x03 0x01 0x05).x) s16 ∧
    Ran (majorOpBL 0x0C 0x03 0x01 0x05) (bPlan 0x0C 0x00 (majorOpBL 0x0C 0x03 0x01 0x05).x) s16 ∧
    Ran (majorOpBL 0x14 0x03 0x01 0x05) (bPlan 0x14 0x00 (majorOpBL 0x14 0x03 0x01 0x05).x) s16 ∧
    Ran (majorOpBL 0x15 0x03 0x01 0x05) (bPlan 0x15 0x00 (majorOpBL 0x15 0x03 0x01 0x05).x) s16 ∧
    Ran (majorOpBL 0x16 0x03 0x01 0x05) (bPlan 0x16 0x00 (majorOpBL 0x16 0x03 0x01 0x05).x) s16 ∧
    Ran (majorOpBL 0x17 0x03 0x01 0x05) (bPlan 0x17 0x00 (majorOpBL 0x17 0x03 0x01 0x05).x) s16 ∧
    Ran (majorOpBL 0x18 0x03 0x01 0x05) (bPlan 0x18 0x00 (majorOpBL 0x18 0x03 0x01 0x05).x) s16 ∧
    Ran (majorOpBL 0x19 0x03 0x01 0x05) (bPlan 0x19 0x00 (majorOpBL 0x19 0x03 0x01 0x05).x) s16 ∧
    Ran ({ family := 0x01, func := 0x20, x := { d := 3, wmode := bMode 3, lit := some 9 }, len := 3, bad := illegalBL (wordBL 0x13 3 0) 9, prompt := true }) (planLdi { d := 3, wmode := bMode 3, lit := some 9 }) s16 ∧
    Ran (pfxOp 2 0 1 0x09 0x17080203) (bPlan 0x17 0x03 (pfxOp 2 0 1 0x09 0x17080203).x) s16 :=
  ⟨ran (by decide +kernel), ran (by decide +kernel), ran (by decide +kernel), ran (by decide +kernel), ran (by decide +kernel), ran (by decide +kernel), ran (by decide +kernel), ran (by decide +kernel), ran (by decide +kernel), ran (by decide +kernel), ran (by decide +kernel), ran (by decide +kernel), ran (by decide +kernel), ran (by decide +kernel), ran (by decide +kernel), ran (by decide +kernel), ran (by decide +kernel), ran (by decide +kernel), ran (by decide +kernel), ran (by decide +kernel)⟩
theorem test_witness_BranchesAndNops :
    Ran (opB (wordOff 0x25 0xFFFFFD) 0x07 0x00 { a := 0xE0 }) (planBra { a := 0xE0 } (off24 0xFFFFFD)) s16 ∧
    Ran ({ family := 0x07, func := 0x00, x := { a := 0xE0 }, len := 3, bad := illegalBL (wordBL 0x25 0 0) 8, prompt := true }) (planBra { a := 0xE0 } 8) s16 ∧
    Ran (opX 0x07 0x00 { a := 0xE1, lit := some 8 }) (planBra { a := 0xE1, lit := some 8 } 8) sKAll ∧
    Ran (opX 0x07 0x01 { a := 0xE1, lit := some 8 }) (planBrd { a := 0xE1, lit := some 8 }) s16 ∧
    Ran (opX 0x07 0x02 { a := 0xA2 }) (planJmpi { a := 0xA2 }) s16 ∧
    Ran (opX 0x07 0x0B {  }) (planNop) s16 ∧
    Ran (opX 0x09 0x05 { a := 2 }) (planPref) s16 :=
  ⟨ran (by decide +kernel), ran (by decide +kernel), ran (by decide +kernel), ran (by decide +kernel), ran (by decide +kernel), ran (by decide +kernel), ran (by decide +kernel)⟩
theorem test_witness_CallsAndReturns :
    Ran (opB (wordOff 0x26 4) 0x07 0x03 {}) (fun c => planCall (c.target (off24 4)) none .ok c) s16 ∧
    Ran ({ family := 0x07, func := 0x03, x := {}, len := 3, bad := illegalBL (wordBL 0x26 0 0) 4 }) (fun c => planCall (c.target 4) none .ok c) s16 ∧
    Ran (opX 0x07 0x03 { lit := some 4 }) (fun c => planCall (c.target 4) none .ok c) s16 ∧
    Ran (opX 0x07 0x04 { a := 0xA2 }) (fun c => planCall (c.pairTarget 0xA2) (c.pairUniform 0xA2 c.path.mask) (c.pcAlign (c.pairTarget 0xA2)) c) s16 ∧
    Ran (opX 0x07 0x04 { a := 0xA2 }) (fun c => planCall (c.pairTarget 0xA2) (c.pairUniform 0xA2 c.path.mask) (c.pcAlign (c.pairTarget 0xA2)) c) sOver ∧
    Ran (opB (wordB 0x27 0 0 0) 0x07 0x05 {}) (planRet) (sDeep 1) ∧
    Ran (opX 0x07 0x05 {  }) (planRet) sOver :=
  ⟨ran (by decide +kernel), ran (by decide +kernel), ran (by decide +kernel), ran (by decide +kernel), ran (by decide +kernel), ran (by decide +kernel), ran (by decide +kernel)⟩
theorem test_witness_SplitsAndJoins :
    Ran (opB (wordB 0x2C 2 0 0) 0x07 0x06 { d := kCode 2 }) (planSplit { d := kCode 2 }) s16 ∧
    Ran (opX 0x07 0x06 { d := 0xE2 }) (planSplit { d := 0xE2 }) s16 ∧
    Ran (opB (wordB 0x2B 2 0 0x20) 0x07 0x07 { d := 0x20, a := kCode 2 } (fun e => if e = (0, 8) then (0, 16) else if e = (0, 16) then (0, 0) else e)) (planJoin { d := 0x20, a := kCode 2 } (0, 0)) (sJoin 0x0F 0x0F) ∧
    Ran (opX 0x07 0x07 { d := 0x20, a := 0xE2 }) (planJoin { d := 0x20, a := 0xE2 } (0, 16)) (sJoin 0x0F 0xFF) ∧
    Ran (opX 0x07 0x07 { d := 0x20, a := 0xE2 }) (planJoin { d := 0x20, a := 0xE2 } (0, 16)) (sJoin 0xFFFF 0xFFFF) :=
  ⟨ran (by decide +kernel), ran (by decide +kernel), ran (by decide +kernel), ran (by decide +kernel), ran (by decide +kernel)⟩
theorem test_witness_Exits :
    Ran (opB (wordB 0x28 0 0 0) 0x07 0x08 {}) (planExit {}) s16 ∧
    Ran (opX 0x07 0x08 { mask := 1 }) (planExit { mask := 1 }) sK :=
  ⟨ran (by decide +kernel), ran (by decide +kernel)⟩
theorem test_witness_Traps :
    Ran (opX 0x07 0x0A { f := 5 }) (planBrk { f := 5 }) sRight :=
  ran (by decide +kernel)
theorem test_witness_BatonTransfers :
    Ran (opB (wordB 0x29 1 5 0xFF) 0x08 0x00 { d := 1, a := 5, b := 0xFF }) (planXfer { d := 1, a := 5, b := 0xFF }) sTwo ∧
    Ran (opX 0x08 0x00 { d := 1, a := 5, b := 6 }) (planXfer { d := 1, a := 5, b := 6 }) sTwo ∧
    Ran (opX 0x08 0x01 { d := 1, a := 5, b := 6, c := 0x21 }) (planXfera { d := 1, a := 5, b := 6, c := 0x21 }) sTwo ∧
    Ran (opX 0x08 0x02 { d := 1 }) (planBelay { d := 1 }) sTwo ∧
    Ran (opX 0x08 0x03 { d := 0x21 }) (planPark { d := 0x21 }) sTwo :=
  ⟨ran (by decide +kernel), ran (by decide +kernel), ran (by decide +kernel), ran (by decide +kernel), ran (by decide +kernel)⟩
theorem test_witness_Waits :
    Ran (opB (wordB 0x2A 0x0F 0x1F 0x21) 0x08 0x04 { d := 0x21 } (fun e => if e = (0, 16) then (0, 0) else e)) (planWait { ld := 0, st := 63, cp := 1, tl := 63 } 0x21 (0, 0)) s16 ∧
    Ran (opX 0x08 0x04 { d := 0x21, a := 0, b := 63, c := 63, f := 63 }) (planWait { ld := 0, st := 63, cp := 63, tl := 63 } 0x21 (0, 16)) (sLoads 1) ∧
    Ran (opX 0x08 0x04 { d := 0x21, a := 63, b := 63, c := 63, f := 0 }) (planWait { ld := 63, st := 63, cp := 63, tl := 0 } 0x21 (0, 16)) (sFail) :=
  ⟨ran (by decide +kernel), ran (by decide +kernel), ran (by decide +kernel)⟩
theorem test_witness_Loads :
    Ran (opX 0x09 0x00 { d := 2, a := 4, wmode := 2, mask := 1, f := 0x03 }) (planLoad false { d := 2, a := 4, wmode := 2, mask := 1, f := 0x03 }) sK ∧
    Ran (opX 0x09 0x02 { d := 1, a := 4, wmode := 1, f := 0x08 }) (planLoad true { d := 1, a := 4, wmode := 1, f := 0x08 }) s16 ∧
    Ran (opX 0x09 0x00 { d := 0xA2, a := 0xA4, f := 0x02 }) (planLoad false { d := 0xA2, a := 0xA4, f := 0x02 }) s16 ∧
    Ran ({ family := 0x09, func := 0x00, x := memB 0x01 0x04 true, len := 1, bad := illegalB (wordB 0x21 1 4 0x10), immC := some 64 }) (planLoad false (memB 0x01 0x04 true)) s16 ∧
    Ran ({ family := 0x09, func := 0x00, x := memB 0x01 0x04 true, len := 3, bad := illegalBL (wordBL 0x21 1 4) 64, immC := some 64 }) (planLoad false (memB 0x01 0x04 true)) s16 ∧
    Ran ({ family := 0x09, func := 0x02, x := memB 0x01 0x04 true, len := 1, bad := illegalB (wordB 0x23 1 4 0x10), immC := some 64 }) (planLoad true (memB 0x01 0x04 true)) s16 ∧
    Ran ({ family := 0x09, func := 0x02, x := memB 0x01 0x04 true, len := 3, bad := illegalBL (wordBL 0x23 1 4) 64, immC := some 64 }) (planLoad true (memB 0x01 0x04 true)) s16 :=
  ⟨ran (by decide +kernel), ran (by decide +kernel), ran (by decide +kernel), ran (by decide +kernel), ran (by decide +kernel), ran (by decide +kernel), ran (by decide +kernel)⟩
theorem test_witness_StoresAtIssue :
    Ran (opX 0x09 0x01 { d := 1, a := 4, f := 0x02 }) (planStore false { d := 1, a := 4, f := 0x02 }) s16 ∧
    Ran (opX 0x09 0x03 { d := 1, a := 4, f := 0x00 }) (planStore true { d := 1, a := 4, f := 0x00 }) s16 ∧
    Ran ({ family := 0x09, func := 0x01, x := memB 0x01 0x04 false, len := 1, bad := illegalB (wordB 0x22 1 4 0x10), immC := some 64 }) (planStore false (memB 0x01 0x04 false)) s16 ∧
    Ran ({ family := 0x09, func := 0x01, x := memB 0x01 0x04 false, len := 3, bad := illegalBL (wordBL 0x22 1 4) 64, immC := some 64 }) (planStore false (memB 0x01 0x04 false)) s16 ∧
    Ran ({ family := 0x09, func := 0x03, x := memB 0x01 0x04 false, len := 1, bad := illegalB (wordB 0x24 1 4 0x10), immC := some 64 }) (planStore true (memB 0x01 0x04 false)) s16 ∧
    Ran ({ family := 0x09, func := 0x03, x := memB 0x01 0x04 false, len := 3, bad := illegalBL (wordBL 0x24 1 4) 64, immC := some 64 }) (planStore true (memB 0x01 0x04 false)) s16 ∧
    Ran (opX 0x09 0x04 { d := 1, a := 4, b := 6, f := 2 }) (planStm { d := 1, a := 4, b := 6, f := 2 }) s16 :=
  ⟨ran (by decide +kernel), ran (by decide +kernel), ran (by decide +kernel), ran (by decide +kernel), ran (by decide +kernel), ran (by decide +kernel), ran (by decide +kernel)⟩
theorem test_witness_SpillAndFill :
    Ran (opX 0x09 0x06 { d := 1, a := 0xA2 }) (planSpill { d := 1, a := 0xA2 }) s16 ∧
    Ran (opX 0x09 0x07 { d := 1, a := 0xA2 }) (planFill { d := 1, a := 0xA2 }) s16 :=
  ⟨ran (by decide +kernel), ran (by decide +kernel)⟩
theorem test_witness_Atomics :
    Ran (opX 0x0A 0x00 { d := 1, a := 4, b := 6, wmode := 1, f := 0x30 }) (planAtom { d := 1, a := 4, b := 6, wmode := 1, f := 0x30 }) s16 ∧
    Ran (opX 0x0A 0x00 { d := 2, a := 4, b := 6, c := 8, wmode := 1, f := 0xBA }) (planAtom { d := 2, a := 4, b := 6, c := 8, wmode := 1, f := 0xBA }) s16 ∧
    Ran (opX 0x0A 0x00 { d := 0xFF, a := 4, b := 6, f := 0x30 }) (planAtom { d := 0xFF, a := 4, b := 6, f := 0x30 }) s16 ∧
    Ran (opX 0x0A 0x01 { a := 4, b := 6, f := 0x30 }) (planXadd { a := 4, b := 6, f := 0x30 }) s16 ∧
    Ran (opX 0x0A 0x03 { a := 4, f := 0x30 }) (planXclr { a := 4, f := 0x30 }) s16 ∧
    Ran (opX 0x0A 0x02 { d := 1, a := 4, wmode := 1, f := 0x30 }) (planXrd { d := 1, a := 4, wmode := 1, f := 0x30 }) s16 :=
  ⟨ran (by decide +kernel), ran (by decide +kernel), ran (by decide +kernel), ran (by decide +kernel), ran (by decide +kernel), ran (by decide +kernel)⟩
theorem test_witness_SyncObjects :
    Ran (opX 0x0B 0x00 { a := 0xA2, b := 0xA4, c := 0xA6, f := 0x31 }) (planBind { a := 0xA2, b := 0xA4, c := 0xA6, f := 0x31 }) sBase ∧
    Ran (opX 0x0B 0x01 { a := 0xA2, f := 0x30 }) (planUnbind { a := 0xA2, f := 0x30 }) (sObj { plain with kind := 1, base := 64, len := 32 }) ∧
    Ran (opX 0x0B 0x06 { a := 0xA2, b := 0xA4, f := 0x30 }) (planBarinit { a := 0xA2, b := 0xA4, f := 0x30 }) (sBar { plain with kind := 3 }) ∧
    Ran (opX 0x0B 0x04 { a := 0xA2, f := 0x30 }) (planRel { a := 0xA2, f := 0x30 }) (sObj { plain with kind := 1, owner := ownerWord 0 0 0 }) ∧
    Ran (opX 0x0B 0x04 { a := 0xA2, f := 0x30 }) (planRel { a := 0xA2, f := 0x30 }) (sObj { plain with kind := 2, gen := 5 }) :=
  ⟨ran (by decide +kernel), ran (by decide +kernel), ran (by decide +kernel), ran (by decide +kernel), ran (by decide +kernel)⟩
theorem test_witness_Acquires :
    Ran (opX 0x0B 0x02 { d := 0x21, a := 0xA2, b := 0xFF, c := 0xA8, f := 0x30 }) (planAcq { d := 0x21, a := 0xA2, b := 0xFF, c := 0xA8, f := 0x30 }) (sObj { plain with kind := 1, base := 64, len := 32 }) ∧
    Ran (opX 0x0B 0x02 { d := 0x21, a := 0xA2, b := 0xFF, c := 0xA8, f := 0x30 }) (planAcq { d := 0x21, a := 0xA2, b := 0xFF, c := 0xA8, f := 0x30 }) (sObj { plain with kind := 1, owner := ownerWord 0 0 0 }) ∧
    Ran (opX 0x0B 0x02 { d := 0x21, a := 0xA2, b := 0xFF, c := 0xA8, f := 0x30 }) (planAcq { d := 0x21, a := 0xA2, b := 0xFF, c := 0xA8, f := 0x30 }) (sObj { plain with kind := 1, owner := ownerWord 9 0 0 }) ∧
    Ran (opX 0x0B 0x02 { d := 0x21, a := 0xA2, b := 0xFF, c := 0xA8, f := 0x30 }) (planAcq { d := 0x21, a := 0xA2, b := 0xFF, c := 0xA8, f := 0x30 }) (sObj { plain with kind := 9, owner := ownerWord 9 0 0 }) ∧
    Ran (opX 0x0B 0x02 { d := 0x21, a := 0xA2, b := 0xFF, c := 0xA8, f := 0x30 }) (planAcq { d := 0x21, a := 0xA2, b := 0xFF, c := 0xA8, f := 0x30 }) (sObj { plain with kind := 2, gen := 5 }) ∧
    Ran (opX 0x0B 0x03 { d := 0xA8, a := 0xA2, b := 0xFF, f := 0x30 }) (planTryacq { d := 0xA8, a := 0xA2, b := 0xFF, f := 0x30 }) (sObj { plain with kind := 1, base := 64, len := 32 }) ∧
    Ran (opX 0x0B 0x03 { d := 0xA8, a := 0xA2, b := 0xFF, f := 0x30 }) (planTryacq { d := 0xA8, a := 0xA2, b := 0xFF, f := 0x30 }) (sObj { plain with kind := 1, owner := ownerWord 0 0 0 }) ∧
    Ran (opX 0x0B 0x03 { d := 0xA8, a := 0xA2, b := 0xFF, f := 0x30 }) (planTryacq { d := 0xA8, a := 0xA2, b := 0xFF, f := 0x30 }) (sObj { plain with kind := 1, owner := ownerWord 9 0 0 }) ∧
    Ran (opX 0x0B 0x03 { d := 0xA8, a := 0xA2, b := 0xFF, f := 0x30 }) (planTryacq { d := 0xA8, a := 0xA2, b := 0xFF, f := 0x30 }) (sObj { plain with kind := 9, owner := ownerWord 9 0 0 }) ∧
    Ran (opX 0x0B 0x03 { d := 0xA8, a := 0xA2, b := 0xFF, f := 0x30 }) (planTryacq { d := 0xA8, a := 0xA2, b := 0xFF, f := 0x30 }) (sObj { plain with kind := 2, gen := 5 }) :=
  ⟨ran (by decide +kernel), ran (by decide +kernel), ran (by decide +kernel), ran (by decide +kernel), ran (by decide +kernel), ran (by decide +kernel), ran (by decide +kernel), ran (by decide +kernel), ran (by decide +kernel), ran (by decide +kernel)⟩
theorem test_witness_FencesAndReleases :
    Ran (opX 0x0B 0x05 { f := 0x30 }) (planFence { f := 0x30 }) s16 :=
  ran (by decide +kernel)
theorem test_witness_Barriers :
    Ran (opX 0x0B 0x07 { d := 0xA8, a := 0xA2, f := 0x30 }) (planArrive .barrive false { d := 0xA8, a := 0xA2, f := 0x30 }) (sObj { plain with kind := 3, expected := 17 }) ∧
    Ran (opX 0x0B 0x07 { d := 0xA8, a := 0xA2, f := 0x30 }) (planArrive .barrive false { d := 0xA8, a := 0xA2, f := 0x30 }) (sObj { plain with kind := 3, expected := 16 }) ∧
    Ran (opX 0x0B 0x07 { d := 0xA8, a := 0xA2, f := 0x30 }) (planArrive .barrive false { d := 0xA8, a := 0xA2, f := 0x30 }) (sObj { plain with kind := 7, expected := 15 }) ∧
    Ran (opX 0x0B 0x07 { d := 0xA8, a := 0xA2, f := 0x30 }) (planArrive .barrive false { d := 0xA8, a := 0xA2, f := 0x30 }) (sObj { plain with kind := 3, expected := 15 }) ∧
    Ran (opX 0x0B 0x08 { d := 0xA8, a := 0xA2, mask := 1, f := 0x30 }) (planArrive .bardrop true { d := 0xA8, a := 0xA2, mask := 1, f := 0x30 }) (sNone { plain with kind := 3, expected := 16 }) ∧
    Ran (opX 0x0B 0x08 { d := 0xA8, a := 0xA2, f := 0x30 }) (planArrive .bardrop true { d := 0xA8, a := 0xA2, f := 0x30 }) (sObj { plain with kind := 3, expected := 16 }) ∧
    Ran (opX 0x0B 0x09 { d := 0x21, a := 0xA2, b := 0xFF, c := 0xA8, f := 0x30 }) (planBarwait { d := 0x21, a := 0xA2, b := 0xFF, c := 0xA8, f := 0x30 }) (sObj { plain with kind := 7, expected := 4 }) ∧
    Ran (opX 0x0B 0x09 { d := 0x21, a := 0xA2, b := 0xFF, c := 0xA8, f := 0x30 }) (planBarwait { d := 0x21, a := 0xA2, b := 0xFF, c := 0xA8, f := 0x30 }) (sObj { plain with kind := 3, gen := 1, expected := 4 }) ∧
    Ran (opX 0x0B 0x09 { d := 0x21, a := 0xA2, b := 0xFF, c := 0xA8, f := 0x30 }) (planBarwait { d := 0x21, a := 0xA2, b := 0xFF, c := 0xA8, f := 0x30 }) (sObj { plain with kind := 3, gen := 0x80000000, expected := 4 }) ∧
    Ran (opX 0x0B 0x09 { d := 0x21, a := 0xA2, b := 0xFF, c := 0xA8, f := 0x30 }) (planBarwait { d := 0x21, a := 0xA2, b := 0xFF, c := 0xA8, f := 0x30 }) (sObj { plain with kind := 3, gen := 0x80000001, expected := 4 }) ∧
    Ran (opX 0x0B 0x09 { d := 0x21, a := 0xA2, b := 0xFF, c := 0xA8, f := 0x30 }) (planBarwait { d := 0x21, a := 0xA2, b := 0xFF, c := 0xA8, f := 0x30 }) (sObj { plain with kind := 3, expected := 16 }) :=
  ⟨ran (by decide +kernel), ran (by decide +kernel), ran (by decide +kernel), ran (by decide +kernel), ran (by decide +kernel), ran (by decide +kernel), ran (by decide +kernel), ran (by decide +kernel), ran (by decide +kernel), ran (by decide +kernel), ran (by decide +kernel)⟩
theorem test_witness_SyncWords :
    Ran (opX 0x0B 0x0A { a := 0xA2, b := 0xA4, c := 0xFF }) (planSyncset { a := 0xA2, b := 0xA4, c := 0xFF }) s16 ∧
    Ran (opX 0x0B 0x0B { d := 0x21, a := 0xA2, b := 0xFF }) (planSyncw { d := 0x21, a := 0xA2, b := 0xFF }) s16 ∧
    Ran (opX 0x0B 0x0B { d := 0x21, a := 0xA2, b := 0xA4 }) (planSyncw { d := 0x21, a := 0xA2, b := 0xA4 }) sOne :=
  ⟨ran (by decide +kernel), ran (by decide +kernel), ran (by decide +kernel)⟩
theorem test_witness_CopiesAtIssue :
    Ran ({ opX 0x0C 0x00 { a := 0xA2, b := 0xA4, c := 0xA6 } with x := { a := 0xA2, b := 0xA4, c := 0xA6 } }) (planBcopy { a := 0xA2, b := 0xA4, c := 0xA6 } { a := 0xA2, b := 0xA4, c := 0xA6 }) sCopy ∧
    Ran (opX 0x0C 0x01 { a := 0xA2, b := 0xA4, c := 6, f := 0x40 }) (planIndexed 1 { a := 0xA2, b := 0xA4, c := 6, f := 0x40 }) sCopy ∧
    Ran (opX 0x0C 0x02 { a := 0xA4, b := 0xA2, c := 6, f := 0x40 }) (planIndexed 2 { a := 0xA4, b := 0xA2, c := 6, f := 0x40 }) sCopy ∧
    Ran (opX 0x0C 0x03 { f := 3 }) (planQfence { f := 3 }) s16 :=
  ⟨ran (by decide +kernel), ran (by decide +kernel), ran (by decide +kernel), ran (by decide +kernel)⟩
theorem test_witness_MatrixOperationsAtIssue :
    Ran (opX 0x0D 0x00 { f := 255 }) (planMlease { f := 255 }) s64 ∧
    Ran (opX 0x0D 0x00 { f := 1 }) (planMlease { f := 1 }) sLease ∧
    Ran (opX 0x0D 0x01 {  }) (planMrel) sLease ∧
    Ran (opX 0x0D 0x02 { d := 0xF0, a := 0xA2, b := 0xA4, c := 0xFF }) (planMma { d := 0xF0, a := 0xA2, b := 0xA4, c := 0xFF }) s64 ∧
    Ran (opX 0x0D 0x03 { d := 0xF7 }) (planMzero { d := 0xF7 }) s64 ∧
    Ran (opX 0x0D 0x04 { d := 0xF0, a := 0xA2, b := 0xA5 }) (planMld { d := 0xF0, a := 0xA2, b := 0xA5 }) s64 ∧
    Ran (opX 0x0D 0x05 { d := 0xF0, a := 0xA2, b := 0xA5 }) (planMst { d := 0xF0, a := 0xA2, b := 0xA5 }) s64 ∧
    Ran (opX 0x0D 0x06 { d := 1, a := 0xF0, c := 0xFF }) (planMcol { d := 1, a := 0xF0, c := 0xFF }) s64 ∧
    Ran (opX 0x0D 0x07 { d := 0xF0, a := 1, c := 0xFF }) (planMput { d := 0xF0, a := 1, c := 0xFF }) s64 ∧
    Ran (opX 0x0D 0x08 { d := 0xF0, a := 0xFF }) (planMlink { d := 0xF0, a := 0xFF }) s64 :=
  ⟨ran (by decide +kernel), ran (by decide +kernel), ran (by decide +kernel), ran (by decide +kernel), ran (by decide +kernel), ran (by decide +kernel), ran (by decide +kernel), ran (by decide +kernel), ran (by decide +kernel), ran (by decide +kernel)⟩
theorem test_witness_OrthOperationsAtIssue :
    Ran (opX 0x0E 0x00 { d := 0xC2, a := 0xF0, b := 0xF1, f := 0x20 }) (planQinit { d := 0xC2, a := 0xF0, b := 0xF1, f := 0x20 }) s64 ∧
    Ran (opX 0x0E 0x01 { d := 0xC2, a := 1, b := 0xA2 }) (planQacc { d := 0xC2, a := 1, b := 0xA2 }) sSlot ∧
    Ran (opX 0x0E 0x02 { d := 0xF3, a := 0xC2 }) (planQap true { d := 0xF3, a := 0xC2 }) sSlot ∧
    Ran (opX 0x0E 0x03 { d := 1, a := 0xC2, f := 1 }) (planQap false { d := 1, a := 0xC2, f := 1 }) sSlot ∧
    Ran (opX 0x0E 0x04 { d := 0xC2 }) (planQfold { d := 0xC2 }) sSlot ∧
    Ran (opX 0x0E 0x05 { d := 0xA2, a := 0xC2 }) (planQstat { d := 0xA2, a := 0xC2 }) sSlot ∧
    Ran (opX 0x0E 0x06 { d := 0xC2 }) (planQclr { d := 0xC2 }) sSlot ∧
    Ran (opX 0x0E 0x07 { d := 1, a := 2, b := 0xA2, f := 63 }) (planHhgen { d := 1, a := 2, b := 0xA2, f := 63 }) sSlot :=
  ⟨ran (by decide +kernel), ran (by decide +kernel), ran (by decide +kernel), ran (by decide +kernel), ran (by decide +kernel), ran (by decide +kernel), ran (by decide +kernel), ran (by decide +kernel)⟩
theorem test_witness_Ropes :
    Ran (opX 0x0F 0x00 { d := 0xA2, f := 4, lit := some 9, mask := 1 }) (planRecruit { d := 0xA2, f := 4, lit := some 9, mask := 1 }) sLead ∧
    Ran (opX 0x0F 0x00 { d := 0xA2, f := 4, lit := some 9, mask := 1 }) (planRecruit { d := 0xA2, f := 4, lit := some 9, mask := 1 }) sNoHelp ∧
    Ran (opX 0x0F 0x02 { d := 0xA2, a := 0xD0 }) (planRopered { d := 0xA2, a := 0xD0 }) (sRope 3) ∧
    Ran (opX 0x0F 0x01 {  }) (planRopeend) (sRope 3) ∧
    Ran (opX 0x0F 0x01 {  }) (planRopeend) (sRope 1) :=
  ⟨ran (by decide +kernel), ran (by decide +kernel), ran (by decide +kernel), ran (by decide +kernel), ran (by decide +kernel)⟩
theorem test_witness_WorkFetches :
    Ran (opB (wordB 0x2D 0xA4 0 0) 0x12 0x00 { d := 0xA4 }) (planTfetch { d := 0xA4 }) s16 ∧
    Ran (opX 0x12 0x00 { d := 0xA4 }) (planTfetch { d := 0xA4 }) s16 :=
  ⟨ran (by decide +kernel), ran (by decide +kernel)⟩
theorem test_witness_SystemInstructions :
    Ran (opX 0x13 0x01 {  }) (planCkpt) s16 ∧
    Ran (opX 0x13 0x02 { d := 0xA2, f := 16 }) (planRdcnt { d := 0xA2, f := 16 }) s16 ∧
    Ran (opX 0x13 0x02 { d := 0xA2, f := 17 }) (planRdcnt { d := 0xA2, f := 17 }) s16 :=
  ⟨ran (by decide +kernel), ran (by decide +kernel), ran (by decide +kernel)⟩

/-! ### The other statements: for each, the hypotheses of its clauses together -/

theorem clear_of {o : Op} {p : Plan} {c : Ctx} (h : (c.wordFault o p = none ∧ c.awaits (c.named o ++ p.codes) = false
    ∧ c.issueFault o p = none ∧ p.mem = .ok ∧ c.poisonOf o.family o.func o.sig o.x (c.exec o.x.mask.toNat) = none)) :
    Clear o p c := ⟨h.1, h.2.1, h.2.2.1, h.2.2.2.1, h.2.2.2.2⟩

/-- The issuer of an operation in a state has no fault before its own, and more is true of it. -/
def Cleared (o : Op) (plan : Ctx → State → Plan) (s : State) (q : Ctx → Prop) : Prop :=
  ∃ c ∈ o.issuer s, Clear o (plan c (c.start o s)) c ∧ q c

theorem cleared {o : Op} {plan : Ctx → State → Plan} {s : State} {q : Ctx → Prop} [DecidablePred q]
    (h : ∃ c ∈ o.issuer s, (c.wordFault o (plan c (c.start o s)) = none
      ∧ c.awaits (c.named o ++ (plan c (c.start o s)).codes) = false ∧ c.issueFault o (plan c (c.start o s)) = none
      ∧ (plan c (c.start o s)).mem = .ok ∧ c.poisonOf o.family o.func o.sig o.x (c.exec o.x.mask.toNat) = none) ∧ q c) :
    Cleared o plan s q := by
  obtain ⟨c, hc, hp, hq⟩ := h
  exact ⟨c, hc, clear_of hp, hq⟩

/-- A group that is in its core, of which more is true. -/
def AtGroup (s : State) (r : GroupRef) (q : Team → Group → Prop) : Prop := ∃ m g, Present s r m g ∧ q m g

theorem atGroup {s : State} {r : GroupRef} {q : Team → Group → Prop} [∀ m g, Decidable (q m g)]
    (h : s.ready.trip = false ∧ ∃ m ∈ s.team? (teamOf r), m.saved = false ∧ ∃ g ∈ s.group? r, q m g) : AtGroup s r q := by
  obtain ⟨ht, m, hm, hs, g, hg, hq⟩ := h
  exact ⟨m, g, ⟨ht, hm, hs, hg⟩, hq⟩

/-- A function that exists, while the firmware runs and no command of it is in progress. -/
theorem takes {s : State} {f : Fn} (h : s.fwUp = true ∧ fnExists f = true ∧ (s.fnState f).mailbox.busy = false) : Takes s f :=
  ⟨h.1, h.2.1, h.2.2⟩

def r0 : GroupRef := fetchGroup
def u0 : TeamRef := teamOf fetchGroup
def f0 : Fn := { link := 0, num := 0 }
def v0 : Fn := { link := 0, num := 1 }
def mb0 : MbCtl := { vector := 0, irq := true }
def k0 : QueueKey := { district := 0, vdev := 0, idx := 0 }




def sSt : State := s16.but (fun g => { g with st := [{ seq := 0, pc := 0x1000, scope := 0, bytes := [{ space := .phys, addr := 64, val := 7 }] }], nextSeq := 1 })


theorem test_witness_Traps_faults :
    Cleared (opX 0x07 0x09 { f := 5 }) (planTrap { f := 5 }) s16 (fun _ => True) ∧
    Cleared (opX 0x07 0x0A { f := 5 }) (planBrk { f := 5 }) s16 (fun c => s16.right? c.ref.launch = none) ∧
    Ran (opX 0x07 0x0A { f := 5 }) (planBrk { f := 5 }) sRight ∧ (sRight.right? 1).isSome ∧ (ctxOf s16).isSome :=
  ⟨cleared (by decide +kernel), cleared (by decide +kernel), ran (by decide +kernel), by decide +kernel, by decide +kernel⟩

def faulted : Group := { state := .faulted, paths := [{ pc := 0x1000, mask := 3 }], faultPc := 0x1000 }

theorem test_witness_TakingAndLeavingAFault :
    (∃ c ∈ ctxOf s16, c.rope = none) ∧ (∃ c ∈ ctxOf sRight, c.rope = none ∧ (sRight.right? c.ref.launch).isSome) ∧
    faulted.state = .faulted ∧ (∃ p ∈ runPath faulted.paths, faulted.stopped = false ∧ p.pc = 0x1000) ∧
    (runPath ({ faulted with stopped := true } : Group).paths).isSome := by decide +kernel

/-- A partition whose groups are in these states; a belay target 1. -/
def part (ss : List GState) : Part := { groups := ss.map (fun x => { state := x, belay := 1 }) }

theorem test_witness_BatonTransfers_deliver :
    (∃ g ∈ (part [.ready]).groups[0]?, g.state = .ready) ∧ (∃ g ∈ (part [.waiting]).groups[0]?, g.state = .waiting) ∧
    (∃ g ∈ (part [.parked]).groups[0]?, g.state = .parked) ∧
    (∃ g ∈ (part [.exited, .ready]).groups[0]?, g.state ≠ .ready ∧ g.state ≠ .waiting ∧ g.state ≠ .parked ∧ g.belay.toNat ≠ 0x21 ∧
      ∃ b ∈ (part [.exited, .ready]).groups[g.belay.toNat]?, b.state = .ready) ∧
    (∀ g ∈ (part [.exited, .faulted]).groups, g.state ≠ .ready ∧ g.state ≠ .waiting ∧ g.state ≠ .parked) := by decide +kernel

theorem test_witness_FencesAndReleases_held :
    Cleared (opX 0x0B 0x05 { f := 0x30 }) (planFence { f := 0x30 }) sSt (fun c => c.group.quiet = false) ∧
    Cleared (opX 0x0B 0x04 { a := 0xA2, f := 0x30 }) (planRel { a := 0xA2, f := 0x30 })
      (sObj { plain with kind := 1, owner := ownerWord 0 0 0 }).busySt (fun c => c.group.quiet = false) ∧
    Cleared (opX 0x0B 0x07 { d := 0xA8, a := 0xA2, f := 0x30 }) (planArrive .barrive false { d := 0xA8, a := 0xA2, f := 0x30 })
      (sObj { plain with kind := 3, expected := 17 }).busySt (fun c => c.group.quiet = false ∧ c.group.links = []) ∧
    Cleared (opX 0x0B 0x08 { d := 0xA8, a := 0xA2, f := 0x30 }) (planArrive .bardrop true { d := 0xA8, a := 0xA2, f := 0x30 })
      (sObj { plain with kind := 3, expected := 17 }).busySt (fun c => c.group.quiet = false ∧ c.group.links = []) :=
  ⟨cleared (by decide +kernel), cleared (by decide +kernel), cleared (by decide +kernel), cleared (by decide +kernel)⟩

theorem test_witness_ExactCells :
    (Cell.ofNat 0).value < 2 ^ 248 ∧ (-149 : Int) ≤ -149 ∧ Fp.topExp 1 (-149) < 97 ∧
    97 ≤ Fp.topExp 1 97 ∧ (5 : Nat) < 2 ^ 256 := by decide +kernel

theorem test_witness_SystemInstructions_service :
    Ran (opX 0x13 0x00 { d := 0xA4, a := 0xA2, f := 1 }) (planSvc { d := 0xA4, a := 0xA2, f := 1 }) s16 :=
  ran (by decide +kernel)

/-- The first groups of a chain have exited, each with the next as its belay target; a last one is READY. -/
def chain (n : Nat) : Part :=
  { groups := (List.range n).map (fun i => { state := .exited, belay := BitVec.ofNat 8 (i + 1) }) ++ [{ state := .ready }] }

/-- Every number of hops up to four, the square after it, and a group that names itself (R36, R38). -/
theorem test_witness_BatonTransfers_hops :
    let cand := fun (q : Part) (k : Nat) => Nat.repeat (fun i => ((q.groups[i]?).map (·.belay.toNat)).getD 0x21) k 0
    let taken := fun (g : Group) => g.state == .ready || g.state == .waiting
    (∀ k ∈ List.range 5, cand (chain k) k = k ∧ (∃ g ∈ (chain k).groups[k]?, g.state = .ready) ∧ ∀ j ∈ List.range k,
      cand (chain k) j ≠ 0x21 ∧ ∀ g ∈ (chain k).groups[cand (chain k) j]?, taken g = false ∧ g.state ≠ .parked) ∧
    (∀ k ∈ List.range 5, cand (chain 5) k ≠ 0x21 ∧ ∀ g ∈ (chain 5).groups[cand (chain 5) k]?, taken g = false ∧ g.state ≠ .parked) ∧
    cand { groups := [{ state := .exited }] } 1 = 0x21 ∧
    ((deliver (chain 4) 0 true 0 100 16).groups[4]?).map (fun g => (g.state, g.readyAt)) = some (.holding, 102) ∧
    (deliver (chain 5) 0 true 0 100 16).square = [(0, 101)] := by
  refine ⟨?_, ?_, ?_, ?_, ?_⟩ <;> decide +kernel

theorem test_witness_BatonTransfers_self :
    Ran (opX 0x08 0x00 { d := 0, a := 5, b := 6 }) (planXfer { d := 0, a := 5, b := 6 }) sTwo ∧
    Ran (opX 0x08 0x01 { d := 0, a := 5, b := 6, c := 1 }) (planXfera { d := 0, a := 5, b := 6, c := 1 }) sTwo :=
  ⟨ran (by decide +kernel), ran (by decide +kernel)⟩

/-- Two failures that a WAIT covers: the older is reported. -/
theorem test_witness_Waits_oldest :
    Ran (opX 0x08 0x04 { d := 0x21, a := 63, b := 63, c := 63, f := 0 }) (planWait { ld := 63, st := 63, cp := 63, tl := 0 } 0x21 (0, 16))
      (s16.but (fun g => { g with fails := [{ cls := .tl, seq := 4, pc := 0x900, info := { code := 0x2B } },
        { cls := .tl, seq := 2, pc := 0x800, info := { code := 0x29 } }] })) :=
  ran (by decide +kernel)

/-- A rope of two helpers, the first of which has ended, with a contribution of both and a lent group. -/
def sRopeEnd (late : Bool) : State := ((sRope 1).modGroup { r0 with grp := 1 } (fun g => { g with state := .lent, slot := none })).but (fun g => { g with
  ld := if late then [{ seq := 0, pc := 0x1000, delivers := [.helper 0xD0 [(0, 7, none)]] }] else []
  nextSeq := 1
  rope := g.rope.map (fun r => { r with
    lenders := [{ group := { r0 with grp := 1 }, prior := .parked }], ended := 2
    contributions := [{ reg := 0xA2, op := 0, round := 0, vals := [(0, 5), (1, 6)] }] }) })

theorem test_witness_Ropes_end :
    Ran (opX 0x0F 0x01 {  }) planRopeend (sRopeEnd false) ∧
    Cleared (opX 0x0F 0x01 {  }) planRopeend (sRopeEnd true) (fun c =>
      c.group.pendingHelpers ≠ [] ∧ ∃ r ∈ c.rope, fullMask r.n &&& ~~~(r.ended ||| c.path.mask) = 0) ∧
    (∃ c ∈ (opX 0x0F 0x01 {}).issuer (sRopeEnd false), c.group.pendingHelpers = [] ∧ ∃ r ∈ c.rope,
      fullMask r.n &&& ~~~(r.ended ||| c.path.mask) = 0 ∧ 0xA2 ∈ r.contributions.map (·.reg) ∧
      ∃ e ∈ r.lenders, e.group ≠ c.ref ∧ ∃ g ∈ (sRopeEnd false).group? e.group, g.state = .lent) :=
  ⟨ran (by decide +kernel), cleared (by decide +kernel), by decide +kernel⟩

theorem test_witness_IntegerArithmetic :
    ({} : XF).type = 0 ∧ satBit {} = false ∧ unsBit {} = false ∧ unsBit { f := 0x08 } = true ∧ satBit { f := 0x10 } = true ∧
    3 < 32 / typeWidth 3 := by decide +kernel

/-- The team with a partition changed. -/
def sPart (f : Part → Part) : State := s16.calm.tm (fun m => m.modPart 0 f)
def sSquare : State := sPart (fun q => { q with square := [(2, 0)], lastGrant := none, groups := q.groups.map (fun g => { g with state := .ready, slot := none }) })
def sStarve (b : Bool) : State := sPart (fun q => { q with starve := 2 ^ 16, starved := b })
def sHeld : State := (small 1 2).tm (fun m => { m.modPart 0 (fun q => { q with
  starved := true, groups := [{ state := .heldWaiting, slot := some 0 }, { state := .ready }] }) with share := 1 })

/-- The group stopped, and changed. -/
def sStop (what : Stop) (f : Group → Group := id) (res : Option Nat := none) : State :=
  s16.calm.but (fun g => f { g with state := .waiting, slot := none, stop := some { what := what, pc := 0x1000, next := 0x1004, res := res } })

theorem test_witness_SquaresAndStarvation :
    (sSquare.ready.trip = false ∧ ∃ m ∈ sSquare.team? u0, m.saved = false ∧ ∃ q ∈ m.cur.parts[0]?,
      q.lastGrant ≠ some (sSquare.clk (m.coreOf 0)) ∧ q.square = [] ++ (2, 0) :: [] ∧ 0 ≤ sSquare.clk (m.coreOf 0) ∧
      0 < q.groups.length ∧ sSquare.tested m 0 = true ∧ ∃ g ∈ q.groups[(q.lastRecipient + 1 + 0) % q.groups.length]?, g.state = .ready) ∧
    (∃ m ∈ (sStop (.wait 0 0 0 0)).team? u0, m.saved = false ∧ (sStop (.wait 0 0 0 0)).tested m 0 = false) ∧
    (∃ m ∈ (sPart (fun q => { q with square := [] })).team? u0, m.saved = false ∧ ∃ q ∈ m.cur.parts[0]?, q.square = [] ∧ q.starve < 2 ^ 16) ∧
    (∃ m ∈ (sStarve false).team? u0, m.saved = false ∧ ∃ q ∈ m.cur.parts[0]?, 2 ^ 16 ≤ q.starve ∧ q.starved = false) ∧
    (∃ m ∈ sHeld.team? u0, m.saved = false ∧ ∃ q ∈ m.cur.parts[0]?, (sHeld.launch? u0.launch).isSome ∧ q.starved = true ∧
      (∃ x ∈ q.groups, x.state = .ready) ∧
      (q.groups.filter (fun x => x.slot.isSome && x.state == .heldWaiting)).length = m.share ∧
      ∃ g ∈ q.groups[0]?, g.state = .heldWaiting ∧ g.slot = some 0) := by decide +kernel

/-- The hypotheses of the clauses on a stop: a group that is present and stopped, of which more is true. -/
def Stopped_ (s : State) (q : Launch → StopRec → Group → Prop) : Prop :=
  AtGroup s r0 (fun m g => ∃ l ∈ s.launch? r0.launch, ∃ stop ∈ g.stop, g.state = .waiting ∧ s.stopTurn m r0 g = true ∧ q l stop g)

/-- The group has stopped at ACQ or BARWAIT of the object at address 0, and a store of the team writes the object. -/
def sObjStep (what : Stop) (o : SyncObj) : State := (sStop what).atomStep u0 (physSpan 0 32) o.bytes
/-- The hypotheses of the clauses on a re-test (R245, R248). -/
def Retested (what : Stop) (o : SyncObj) (q : SyncObj → Bool) : Prop :=
  Stopped_ (sStop what) (fun l st _ => st.res = none ∧ st.what.object = some 0 ∧ (sObjStep what o).objKey l 0 = some 0 ∧
    q ((sObjStep what o).objAt 0) = true)

theorem test_witness_StopConditions_retest :
    Retested (.acq 0 0 0xA8) { plain with kind := 3 } (fun o => o.type != 1 && o.type != 2) ∧
    Retested (.acq 0 0 0xA8) { plain with kind := 0x11 } (fun o => !o.clean) ∧
    Retested (.acq 0 0 0xA8) { plain with kind := 1, owner := ownerWord 0 0 0 } (fun o => o.clean && o.type == 1 && o.owner == ownerWord 0 0 0) ∧
    Retested (.acq 0 0 0xA8) { plain with kind := 9, owner := ownerWord 9 0 0 } (fun o =>
      o.clean && o.type == 1 && o.owner != ownerWord 0 0 0 && o.owned && o.parkedOwner) ∧
    Retested (.acq 0 3 0xA8) { plain with kind := 2, gen := 3 } (fun o => o.clean && o.type == 2 && genReached o.gen 3) ∧
    Retested (.barwait 0 0 0xA8) { plain with kind := 2 } (fun o => o.type != 3) ∧
    Retested (.barwait 0 0 0xA8) { plain with kind := 7 } (fun o => o.clean && o.type == 3 && o.broken) ∧
    Retested (.barwait 0 1 0xA8) { plain with kind := 3, gen := 1 } (fun o => o.clean && o.type == 3 && !o.broken && (o.gen - 1).toNat == 0) ∧
    Retested (.barwait 0 0 0xA8) { plain with kind := 3, gen := 1 } (fun o => o.clean && o.type == 3 && !o.broken && (o.gen - 0).toNat == 1) ∧
    Retested (.barwait 0 0 0xA8) { plain with kind := 3, gen := 0x80000000 } (fun o => (o.gen - 0).toNat == 2 ^ 31) ∧
    Retested (.barwait 0 0 0xA8) { plain with kind := 3, gen := 0x80000001 } (fun o => (o.gen - 0).toNat == 2 ^ 31 + 1) ∧
    Stopped_ (sStop (.syncw 0 1)) (fun l st _ => st.res = none ∧ ∃ word ∈ (((sStop (.syncw 0 1)).atomStep u0 [{ space := .scratch u0 0, addr := 8 }]
        [1]).scratchLocs l 0 0 16).toOption, word.head? = some { space := .scratch u0 0, addr := 0 } ∧
      ((sStop (.syncw 0 1)).atomStep u0 [{ space := .scratch u0 0, addr := 8 }] [1]).poisonAt { space := .scratch u0 0, addr := 8 } = none) ∧
    Stopped_ (sStop (.acq 0 0 0xA8) id (some 1)) (fun _ st _ => st.res.isSome = true) :=
  ⟨atGroup (by decide +kernel), atGroup (by decide +kernel), atGroup (by decide +kernel), atGroup (by decide +kernel), atGroup (by decide +kernel),
    atGroup (by decide +kernel), atGroup (by decide +kernel), atGroup (by decide +kernel), atGroup (by decide +kernel), atGroup (by decide +kernel),
    atGroup (by decide +kernel), atGroup (by decide +kernel), atGroup (by decide +kernel)⟩

/-- A group has stopped, and another must issue in this clock. -/
def sDeal : State := (sTwo.but (fun g => { g with state := .waiting, slot := none, stop := some { what := .join, pc := 0x1000, next := 0x1004 } })).modGroup
  { r0 with grp := 1 } (fun g => { g with state := .holding, slot := some 1, prompt := true, readyAt := 0 })

theorem test_witness_StopConditions :
    Stopped_ (sStop (.wait 0 0 0 0)) (fun _ st g => st.what = .wait 0 0 0 0 ∧ g.ld.length ≤ 0 ∧ g.fails = []) ∧
    Stopped_ (sStop (.wait 0 0 0 0) (fun g => { g with ld := [{ seq := 0, pc := 0x1000, delivers := [] }] })) (fun _ _ g => ¬ g.ld.length ≤ 0) ∧
    Stopped_ (sStop (.wait 0 0 0 0) (fun g => { g with fails := [{ cls := .tl, seq := 0, pc := 0x1000, info := { code := 0x29 } }] }))
      (fun _ _ g => ∃ f ∈ g.fails, ({ ld := 0, st := 0, cp := 0, tl := 0 } : Counts).of f.cls < 63) ∧
    Stopped_ (sStop .park) (fun _ st _ => st.what = .park) ∧
    Stopped_ (sStop .join) (fun _ st g => st.what = .join ∧ (runPath g.settle.paths).isSome) ∧
    Stopped_ (sStop (.syncw 0 1) id (some 0)) (fun _ st _ => st.what = .syncw 0 1 ∧ st.res.isSome) ∧
    Stopped_ (sStop (.barwait 0 0 0xA8) id (some 2)) (fun _ st _ => ∃ v ∈ st.res, v < 256) ∧
    Stopped_ (sStop (.acq 0 0 0xA8) id (some 0x103)) (fun _ st _ => ∃ v ∈ st.res, 256 ≤ v) ∧
    Stopped_ ((sStop (.acq 0 0 0xA8)).object { plain with kind := 1 }) (fun l st _ => st.res = none ∧
      ∃ key ∈ ((sStop (.acq 0 0 0xA8)).object { plain with kind := 1 }).objKey l 0,
        (((sStop (.acq 0 0 0xA8)).object { plain with kind := 1 }).objAt key).clean = true ∧
        (((sStop (.acq 0 0 0xA8)).object { plain with kind := 1 }).objAt key).type = 1 ∧
        (((sStop (.acq 0 0 0xA8)).object { plain with kind := 1 }).objAt key).owned = false) ∧
    Stopped_ (sStop .join) (fun _ st g => ∃ p ∈ runPath g.paths, p.pc = st.pc) ∧
    Stopped_ (sStop (.syncw 0 1)) (fun _ st _ => st.res = none) ∧ Stopped_ (sStop (.syncw 0 1) id (some 1)) (fun _ st _ => st.res = some 1) ∧
    Stopped_ (sStop (.barwait 0 0 0xA8)) (fun _ st _ => st.res = none) ∧
    (∃ m ∈ (sPart (fun q => { q with lastGrant := some 0 })).team? u0, ∃ g ∈ (sPart (fun q => { q with lastGrant := some 0 })).group? r0,
      (sPart (fun q => { q with lastGrant := some 0 })).stopTurn m r0 g = false) ∧
    (∃ m ∈ sDeal.team? u0, ∃ g ∈ sDeal.group? r0, sDeal.stopTurn m r0 g = false ∧ g.state = .waiting ∧ g.stop.isSome = true) :=
  ⟨atGroup (by decide +kernel), atGroup (by decide +kernel), atGroup (by decide +kernel), atGroup (by decide +kernel), atGroup (by decide +kernel), atGroup (by decide +kernel), atGroup (by decide +kernel), atGroup (by decide +kernel), atGroup (by decide +kernel),
    atGroup (by decide +kernel), atGroup (by decide +kernel), atGroup (by decide +kernel), atGroup (by decide +kernel), by decide +kernel, by decide +kernel⟩

def sLd (o : LdOp) : State := s16.but (fun g => { g with ld := [o], nextSeq := 1 })

/-- No channel is ready. -/
def unready (s : State) : State := { s with ready := { s.ready with chan := 0 } }
/-- Two stores to one sector. -/
def sTwoSt : State := s16.but (fun g => { g with nextSeq := 2, st := [
  { seq := 0, pc := 0x1000, scope := 0, bytes := [{ space := .phys, addr := 64, val := 7 }] },
  { seq := 1, pc := 0x1004, scope := 0, bytes := [{ space := .phys, addr := 64, val := 8 }, { space := .phys, addr := 65, val := 9 }] }] })
/-- A load has failed of a group that is gone. -/
def sGone (st : GState) : State := s16.but (fun g => { g with
  state := st, slot := none, nextSeq := 1, ld := [{ seq := 0, pc := 0x1000, delivers := [], done := true, fail := some { code := 0x32 } }] })

theorem test_witness_Arrivals :
    AtGroup (sLd { seq := 0, pc := 0x1000, delivers := [.lanes 3 [(0, 7, none)]] }) r0 (fun _ g =>
      ∃ o ∈ g.ld.find? (fun x => x.seq == 0), o.done = false ∧ o.engine = false ∧ o.fail = none ∧
        o.delivers = [.lanes 3 [(0, 7, none)]] ∧ clsOf 3 = .v) ∧
    AtGroup (sLd { seq := 0, pc := 0x1000, delivers := [.whole 0xA3 { base := 7 }] }) r0 (fun _ g =>
      ∃ o ∈ g.ld.find? (fun x => x.seq == 0), o.done = false ∧ o.engine = false ∧ o.fail = none ∧
        o.delivers = [.whole 0xA3 { base := 7 }] ∧ clsOf 0xA3 ≠ .vz) ∧
    AtGroup (sLd { seq := 0, pc := 0x1000, delivers := [], fail := some { code := 0x32 } }) r0 (fun _ g =>
      ∃ o ∈ g.ld.find? (fun x => x.seq == 0), o.done = false ∧ o.engine = false ∧ o.fail.isSome) ∧
    AtGroup (sLd { seq := 0, pc := 0x1000, delivers := [], done := true }) r0 (fun _ g =>
      (∃ o ∈ g.ld.find? (fun x => x.seq == 0), o.done = true) ∧ ∃ e ∈ g.oldest .ld, e.2.2 = none) ∧
    AtGroup sSt r0 (fun _ g => ∃ o ∈ g.st.head?, g.st = [] ++ o :: [] ∧ o.done = false ∧ ∀ b ∈ o.bytes, b.space = .phys) ∧
    AtGroup s16 r0 (fun _ g => g.oldest .ld = none) ∧
    AtGroup (unready (sLd { seq := 0, pc := 0x1000, delivers := [], srcs := [(3, 0, .phys, 64)] })) r0 (fun _ g =>
      ∃ o ∈ g.ld.find? (fun x => x.seq == 0), o.srcs.all (fun e => (unready s16).locReady { space := e.2.2.1, addr := e.2.2.2 }) = false) ∧
    AtGroup (unready sSt) r0 (fun _ g => ∃ o ∈ g.st.head?, ∃ b ∈ o.bytes, (unready sSt).locReady { space := b.space, addr := b.addr } = false) ∧
    AtGroup sTwoSt r0 (fun _ g => ∃ x ∈ g.st.head?, ∃ o ∈ g.st[1]?, g.st = [] ++ x :: [] ++ o :: [] ∧ o.done = false ∧ x.done = false ∧
      x.seq ≠ o.seq ∧ o.meets x = true ∧ (∀ b ∈ x.bytes ++ o.bytes, b.space = .phys ∧ sTwoSt.locReady { space := b.space, addr := b.addr } = true)) ∧
    AtGroup (sGone .exited) r0 (fun _ g => g.state = .exited ∧ ∃ e ∈ g.oldest .ld, e.2.2.isSome = true) ∧
    AtGroup (sGone .faulted) r0 (fun _ g => g.state = .faulted ∧ ∃ e ∈ g.oldest .ld, e.2.2.isSome = true) :=
  ⟨atGroup (by decide +kernel), atGroup (by decide +kernel), atGroup (by decide +kernel), atGroup (by decide +kernel), atGroup (by decide +kernel), atGroup (by decide +kernel), atGroup (by decide +kernel), atGroup (by decide +kernel), atGroup (by decide +kernel), atGroup (by decide +kernel), atGroup (by decide +kernel)⟩

def sHold (h : Hold) (s : State := s16) : State := s.but (fun g => { g with hold := some h })

/-- A held release is seen to run again. -/
theorem test_witness_HeldInstructions :
    AtGroup (sHold (.release .fence {})) r0 (fun _ g => g.hold = some (.release .fence {}) ∧ g.quiet = true) ∧
    Ran (opX 0x0B 0x05 { f := 0x30 }) (planFence { f := 0x30 }) ((sHold (.release .fence { f := 0x30 })).again r0) ∧
    Ran (opX 0x0B 0x04 { a := 0xA2, f := 0x30 }) (planRel { a := 0xA2, f := 0x30 })
      ((sHold (.release .rel { a := 0xA2, f := 0x30 }) (sObj { plain with kind := 1, owner := ownerWord 0 0 0 })).again r0) ∧
    Ran (opX 0x0B 0x07 { d := 0xA8, a := 0xA2, f := 0x30 }) (planArrive .barrive false { d := 0xA8, a := 0xA2, f := 0x30 })
      ((sHold (.release .barrive { d := 0xA8, a := 0xA2, f := 0x30 }) (sObj { plain with kind := 3, expected := 17 })).again r0) ∧
    Ran (opX 0x0B 0x08 { d := 0xA8, a := 0xA2, f := 0x30 }) (planArrive .bardrop true { d := 0xA8, a := 0xA2, f := 0x30 })
      ((sHold (.release .bardrop { d := 0xA8, a := 0xA2, f := 0x30 }) (sObj { plain with kind := 3, expected := 17 })).again r0) ∧
    Ran (opX 0x12 0x01 { d := 1, a := 4, wmode := 1, mask := 1 }) (planLaunch { d := 1, a := 4, wmode := 1, mask := 1 })
      ((sHold (.release .launch { d := 1, a := 4, wmode := 1, mask := 1 }) (sChild.but (fun g => { g with ks := [{}, { mask := 1 }] }))).again r0) ∧
    AtGroup (sHold (.release .fence {}) sSt) r0 (fun _ g => g.hold = some (.release .fence {}) ∧ g.quiet = false) ∧
    AtGroup ((sHold (.release .fence {})).tm (fun m => { m with rollDue := true })) r0 (fun m g =>
      g.hold = some (.release .fence {}) ∧ g.rope = none ∧ m.camping = true) :=
  ⟨atGroup (by decide +kernel), ran (by decide +kernel), ran (by decide +kernel), ran (by decide +kernel), ran (by decide +kernel), ran (by decide +kernel), atGroup (by decide +kernel), atGroup (by decide +kernel)⟩

/-- The emulated instruction of an operation passes its checks once its result is computed. -/
def Emulated (o : Op) (plan : Ctx → State → Plan) (s : State) : Prop :=
  AtGroup s r0 (fun _ g => g.hold = some (.emulated o.family o.func o.x 3)) ∧ ∃ c, RunsEmulated o plan (s.again r0) c

theorem emulated {o : Op} {plan : Ctx → State → Plan} {s : State}
    (h : s.ready.trip = false ∧ ∃ m ∈ s.team? (teamOf r0), m.saved = false ∧ ∃ g ∈ s.group? r0,
      g.hold = some (.emulated o.family o.func o.x 3))
    (h' : ∃ c ∈ o.issuer (s.again r0), (c.verdict o true (plan c (c.start o (s.again r0))) == .go) = true
      ∧ (c.done (plan c (c.start o (s.again r0))).effect).logFits c.core = true) : Emulated o plan s := by
  obtain ⟨c, hc, hv, hl⟩ := h'
  exact ⟨atGroup h, c, hc, eq_of_beq hv, hl⟩

/-- A narrow format of 7 bits, which is not native (R94). -/
def sOdd : State := s16.but (fun g => { g with fmt := [0x403B7, 0x403B7] })

theorem test_witness_HeldInstructions_svc :
    AtGroup ((sHold (.svc 0xA4 0 7 0x100C))) r0 (fun _ g => g.hold = some (.svc 0xA4 0 7 0x100C) ∧
      (runPath g.paths).isSome ∧ clsOf 0xA4 = .s ∧ (s16.launch? r0.launch).isSome) ∧
    AtGroup ((sHold (.svc 0xA4 2 7 0x100C)).running) r0 (fun _ g => g.hold = some (.svc 0xA4 2 7 0x100C) ∧
      ∃ l ∈ (sHold (.svc 0xA4 2 7 0x100C)).running.launch? r0.launch, l.phase = .running ∧ l.preempt = none) :=
  ⟨atGroup (by decide +kernel), atGroup (by decide +kernel)⟩

def sEmul (family func : Nat) (x : XF) : State := sOdd.but (fun g => { g with hold := some (.emulated family func x 3) })

theorem test_witness_HeldInstructions_emulated :
    Emulated (opX 0x02 0x00 { d := 3, a := 1, b := 2, wmode := 1, type := 6 }) (planFadd { d := 3, a := 1, b := 2, wmode := 1, type := 6 }) (sEmul 0x02 0x00 { d := 3, a := 1, b := 2, wmode := 1, type := 6 }) ∧
    Emulated (opX 0x02 0x01 { d := 3, a := 1, b := 2, wmode := 1, type := 6 }) (planFsub { d := 3, a := 1, b := 2, wmode := 1, type := 6 }) (sEmul 0x02 0x01 { d := 3, a := 1, b := 2, wmode := 1, type := 6 }) ∧
    Emulated (opX 0x02 0x02 { d := 3, a := 1, b := 2, wmode := 1, type := 6 }) (planFmul { d := 3, a := 1, b := 2, wmode := 1, type := 6 }) (sEmul 0x02 0x02 { d := 3, a := 1, b := 2, wmode := 1, type := 6 }) ∧
    Emulated (opX 0x02 0x03 { d := 3, a := 1, b := 2, c := 4, wmode := 1, type := 6 }) (planFfma { d := 3, a := 1, b := 2, c := 4, wmode := 1, type := 6 }) (sEmul 0x02 0x03 { d := 3, a := 1, b := 2, c := 4, wmode := 1, type := 6 }) ∧
    Emulated (opX 0x02 0x04 { d := 3, a := 1, b := 2, wmode := 1, type := 6 }) (planFmin { d := 3, a := 1, b := 2, wmode := 1, type := 6 }) (sEmul 0x02 0x04 { d := 3, a := 1, b := 2, wmode := 1, type := 6 }) ∧
    Emulated (opX 0x02 0x05 { d := 3, a := 1, b := 2, wmode := 1, type := 6 }) (planFmax { d := 3, a := 1, b := 2, wmode := 1, type := 6 }) (sEmul 0x02 0x05 { d := 3, a := 1, b := 2, wmode := 1, type := 6 }) ∧
    Emulated (opX 0x02 0x06 { d := 3, a := 1, wmode := 1, type := 6 }) (planFabs { d := 3, a := 1, wmode := 1, type := 6 }) (sEmul 0x02 0x06 { d := 3, a := 1, wmode := 1, type := 6 }) ∧
    Emulated (opX 0x02 0x07 { d := 3, a := 1, wmode := 1, type := 6 }) (planFneg { d := 3, a := 1, wmode := 1, type := 6 }) (sEmul 0x02 0x07 { d := 3, a := 1, wmode := 1, type := 6 }) ∧
    Emulated (opX 0x02 0x08 { d := 3, a := 1, b := 2, wmode := 1, type := 6 }) (planFcmp { d := 3, a := 1, b := 2, wmode := 1, type := 6 }) (sEmul 0x02 0x08 { d := 3, a := 1, b := 2, wmode := 1, type := 6 }) ∧
    Emulated (opX 0x02 0x09 { d := 3, a := 1, b := 2, c := 4, wmode := 1, type := 6 }) (planFsel { d := 3, a := 1, b := 2, c := 4, wmode := 1, type := 6 }) (sEmul 0x02 0x09 { d := 3, a := 1, b := 2, c := 4, wmode := 1, type := 6 }) ∧
    Emulated (opX 0x03 0x01 { d := 3, a := 1, wmode := 1, f := 0x80 }) (planCvtn { d := 3, a := 1, wmode := 1, f := 0x80 }) (sEmul 0x03 0x01 { d := 3, a := 1, wmode := 1, f := 0x80 }) ∧
    Emulated (opX 0x03 0x02 { d := 3, a := 1, wmode := 1, f := 0x00 }) (planPackn { d := 3, a := 1, wmode := 1, f := 0x00 }) (sEmul 0x03 0x02 { d := 3, a := 1, wmode := 1, f := 0x00 }) ∧
    Emulated (opX 0x03 0x03 { d := 3, a := 1, wmode := 1, f := 0x80 }) (planUnpackn { d := 3, a := 1, wmode := 1, f := 0x80 }) (sEmul 0x03 0x03 { d := 3, a := 1, wmode := 1, f := 0x80 }) :=
  ⟨emulated (by decide +kernel) (by decide +kernel),
    emulated (by decide +kernel) (by decide +kernel),
    emulated (by decide +kernel) (by decide +kernel),
    emulated (by decide +kernel) (by decide +kernel),
    emulated (by decide +kernel) (by decide +kernel),
    emulated (by decide +kernel) (by decide +kernel),
    emulated (by decide +kernel) (by decide +kernel),
    emulated (by decide +kernel) (by decide +kernel),
    emulated (by decide +kernel) (by decide +kernel),
    emulated (by decide +kernel) (by decide +kernel),
    emulated (by decide +kernel) (by decide +kernel),
    emulated (by decide +kernel) (by decide +kernel),
    emulated (by decide +kernel) (by decide +kernel)⟩

/-! A space whose second 2 GiB lie on CXL memory, so that accesses there are remote. -/



def aCopy : Copy :=
  { id := 0, seq := 0, pc := 0x1000, func := 0, f := 0, part := 0, grp := 0, sync := none, dst := 0x5000, src := 0x6000, bytes := 64
    lit := 0, set := 0, idx := [] }
def sCp (k : Copy) : State := s16.tm (fun m => m.modCur (fun c => { c with copies := [k], nextCopy := 1 }))
/-- An entry of the team's own group on its quad's engine, in progress. -/
def anEntry (op : EngOp) : EngEntry := { age := 0, group := r0, core := 0, seq := 0, pc := 0x1000, op := op, tiles := [0], lanes := 1 }
def sEng (e : EngEntry) (busy : Option Nat := some 0) (idle : Nat := 0) : State :=
  { s64 with engines := [(0, { entries := [e], busy := busy, idle := idle, nextAge := 1, lease := some (u0, 2) })] }

def wait0 (b : Bool) : Replay := { clk := 0, va := 0x7000, level := 2, rewalk := b }
def sXlate (b : Bool) : State := s16.but (fun g => { g with hold := some .xlate, replay := some (wait0 b) })
def sLink (clk : Nat) : State := ({ s16 with hostClk := clk } : State).but (fun g => { g with hold := some (.link 0 0x80000000 1 0), ld := [{ seq := 0, pc := 0x1000, delivers := [] }], nextSeq := 1 })

theorem test_witness_TranslationsAndLinks_groups :
    AtGroup (sXlate true) r0 (fun _ g => g.hold = some .xlate ∧ ∃ w ∈ g.replay, w.rewalk = true) ∧
    AtGroup (sXlate false) r0 (fun m g => g.hold = some .xlate ∧ ((sXlate false).ctxAt r0).isSome ∧
      ∃ w ∈ g.replay, w.rewalk = false ∧ (sXlate false).clk (m.coreOf 0) < w.clk + 2 ^ 24) ∧
    AtGroup (sXlate false).later r0 (fun m g => g.hold = some .xlate ∧ ((sXlate false).later.ctxAt r0).isSome ∧
      ∃ w ∈ g.replay, w.clk + 2 ^ 24 ≤ (sXlate false).later.clk (m.coreOf 0)) ∧
    AtGroup (sLink 999999) r0 (fun _ g => g.hold = some (.link 0 0x80000000 1 0) ∧ ((sLink 999999).ctxAt r0).isSome ∧
      (∃ o ∈ g.ld.find? (fun o => o.seq == 0), o.pc = 0x1000) ∧ (sLink 999999).hostClk < 0 + 1000000) ∧
    AtGroup (sLink 1000000) r0 (fun _ g => g.hold = some (.link 0 0x80000000 1 0) ∧ ((sLink 1000000).ctxAt r0).isSome ∧
      (∃ o ∈ g.ld.find? (fun o => o.seq == 0), o.pc = 0x1000) ∧ 0 + 1000000 ≤ (sLink 1000000).hostClk) :=
  ⟨atGroup (by decide +kernel), atGroup (by decide +kernel), atGroup (by decide +kernel), atGroup (by decide +kernel), atGroup (by decide +kernel)⟩

/-- The hypotheses of the clauses on a copy in a team that is in its core. -/
def AtCopy (s : State) (q : Team → Launch → Copy → Prop) : Prop :=
  s.ready.trip = false ∧ ∃ m ∈ s.team? u0, m.saved = false ∧ ∃ l ∈ s.launch? u0.launch, ∃ k ∈ m.copy? 0, q m l k

theorem atCopy {s : State} {q : Team → Launch → Copy → Prop} [∀ m l k, Decidable (q m l k)]
    (h : s.ready.trip = false ∧ ∃ m ∈ s.team? u0, m.saved = false ∧ ∃ l ∈ s.launch? u0.launch, ∃ k ∈ m.copy? 0, q m l k) :
    AtCopy s q := h

/-- The hypotheses of the clauses on an engine's operation in progress. -/
def AtEntry (s : State) (q : Team → Launch → EngEntry → Prop) : Prop :=
  s.ready.trip = false ∧ ∃ e ∈ (s.engine 0).current, ∃ m ∈ s.team? (teamOf e.group), ∃ l ∈ s.launch? e.group.launch, q m l e

theorem atEntry {s : State} {q : Team → Launch → EngEntry → Prop} [∀ m l e, Decidable (q m l e)]
    (h : s.ready.trip = false ∧ ∃ e ∈ (s.engine 0).current, ∃ m ∈ s.team? (teamOf e.group), ∃ l ∈ s.launch? e.group.launch, q m l e) :
    AtEntry s q := h

def farCopy : Copy := { aCopy with src := 0x80000000, started := true }
def farLoad : EngEntry := anEntry (.mld 0 0x80000000 256 (.std 0))
def farStore : EngEntry := anEntry (.mst 0 0x80000000 256 (.std 0) 0 [])

def sFar (e : EngEntry) (clk : Nat) : State := { (sEng e).farPage with hostClk := clk }

theorem test_witness_TranslationsAndLinks_copies :
    AtCopy (sCp { aCopy with replay := some (wait0 true) }) (fun _ _ k => ∃ w ∈ k.replay, w.rewalk = true) ∧
    AtCopy (sCp { aCopy with replay := some (wait0 false) }) (fun m _ k => ∃ w ∈ k.replay, w.rewalk = false ∧
      (sCp { aCopy with replay := some (wait0 false) }).clk (m.copyCore k) < w.clk + 2 ^ 24) ∧
    AtCopy (sCp { aCopy with replay := some (wait0 false) }).later (fun m _ k => ∃ w ∈ k.replay,
      w.clk + 2 ^ 24 ≤ (sCp { aCopy with replay := some (wait0 false) }).later.clk (m.copyCore k)) ∧
    AtCopy ({ (sCp farCopy).farPage with hostClk := 1000000 } : State) (fun m l k => k.started = true ∧ k.fail = none ∧ k.replay = none ∧
      k.delivered < k.total ∧ k.since + 1000000 ≤ 1000000 ∧
      (({ (sCp farCopy).farPage with hostClk := 1000000 } : State).copyFar l m k) = some 0x80000000) ∧
    AtCopy (sCp { aCopy with started := true }) (fun m l k => k.started = true ∧ (sCp { aCopy with started := true }).copyFar l m k = none) :=
  ⟨atCopy (by decide +kernel), atCopy (by decide +kernel), atCopy (by decide +kernel), atCopy (by decide +kernel), atCopy (by decide +kernel)⟩

theorem test_witness_TranslationsAndLinks_engines :
    AtEntry (sEng { farLoad with replay := some (wait0 true) }) (fun _ _ e => ∃ w ∈ e.replay, w.rewalk = true) ∧
    AtEntry (sEng { farLoad with replay := some (wait0 false) }).later (fun _ _ e => ∃ w ∈ e.replay, w.rewalk = false ∧
      w.clk + 2 ^ 24 ≤ (sEng { farLoad with replay := some (wait0 false) }).later.clk e.core) ∧
    AtEntry (sFar farLoad 1000000) (fun _ l e => e.replay = none ∧ ((sFar farLoad 1000000).engine 0).since + 1000000 ≤ 1000000 ∧
      (sFar farLoad 1000000).engineFar l e = some 0x80000000) ∧
    AtEntry (sFar farStore 1000000) (fun _ l e => e.replay = none ∧ (sFar farStore 1000000).engineFar l e = some 0x80000000) ∧
    AtEntry (sFar farLoad 999999) (fun _ _ e => e.replay = none ∧ (sFar farLoad 999999).hostClk < ((sFar farLoad 999999).engine 0).since + 1000000) :=
  ⟨atEntry (by decide +kernel), atEntry (by decide +kernel), atEntry (by decide +kernel), atEntry (by decide +kernel), atEntry (by decide +kernel)⟩

/-- A copy whose bytes count in a sync word. -/
def countedCopy : Copy := { aCopy with sync := some 0x100, f := 8 }

theorem test_witness_Copies :
    AtCopy (sCp countedCopy) (fun m l k => k.fail = none ∧ k.replay = none ∧ k.delivered < k.total ∧ m.mayStart k = true ∧
      ∃ src ∈ ((sCp countedCopy).epLocs l (m.copyCore k) k.src (k.byteAt k.delivered).1 (k.unitLen k.delivered) 1).toOption,
      ∃ dst ∈ ((sCp countedCopy).epLocs l (m.copyCore k) 0x5000 (k.byteAt k.delivered).2 (k.unitLen k.delivered) 2).toOption,
      ∃ word ∈ ((sCp countedCopy).scratchLocs l (m.copyCore k) 0x100 16).toOption,
      k.dests = [0x5000] ∧ k.words = [0x100] ∧ (sCp countedCopy).unitBlocked l m k dst = false ∧
      (∀ p ∈ src ++ dst, (sCp countedCopy).locReady p = true) ∧ (∀ p ∈ src ++ word, (sCp countedCopy).poisonAt p = none) ∧ (dst ++ word).Nodup ∧ (∀ p ∈ dst, p.space = .phys) ∧
      ((sCp countedCopy).putUnit l m k (k.unitLen k.delivered) (src.map (sCp countedCopy).readLoc)).1.logFits (m.copyCore k) = true) ∧
    AtCopy (sCp { aCopy with delivered := 64, started := true }) (fun _ _ k => k.total ≤ k.delivered) ∧
    AtCopy (sCp { aCopy with fail := some { code := 0x32 } }) (fun _ _ k => k.fail.isSome = true) :=
  ⟨atCopy (by decide +kernel), atCopy (by decide +kernel), atCopy (by decide +kernel)⟩

/-- A load of a tile from LPDDR6, and an error of the channel that it reads. -/
def farLow : EngEntry := anEntry (.mld 0 0x8000 256 (.std 0))
def anErr : DataErr := { mech := 8, fatal := true, unit := 0, loc := 0x8000 }

theorem test_witness_EngineSteps :
    ((sEng (anEntry (.mzero 0)) none).ready.trip = false ∧ ∃ e ∈ ((sEng (anEntry (.mzero 0)) none).engine 0).entries,
      ((sEng (anEntry (.mzero 0)) none).engine 0).busy = none ∧
      (sEng (anEntry (.mzero 0)) none).eligible ((sEng (anEntry (.mzero 0)) none).engine 0) e = true ∧ e.op = .mzero 0 ∧
      ∀ x ∈ ((sEng (anEntry (.mzero 0)) none).engine 0).entries, x = e) ∧
    (∃ e ∈ ((sEng (anEntry (.mlease 4)) none).engine 0).entries, e.op = .mlease 4 ∧
      (sEng (anEntry (.mlease 4)) none).eligible ((sEng (anEntry (.mlease 4)) none).engine 0) e = true) ∧
    ((sEng (anEntry (.mzero 0))).engine 0).busy.isSome = true ∧
    64 ≤ ((sEng (anEntry (.mzero 0)) none 64).engine 0).idle ∧
    AtEntry (sEng (anEntry (.mzero 0))) (fun _ _ e => e.replay = none ∧ ((sEng (anEntry (.mzero 0))).performOp e).replay = none) ∧
    AtEntry (sEng (anEntry (.mld 0 0x80000000 256 (.std 0)))) (fun _ l e => e.replay = none ∧ (sEng (anEntry (.mld 0 0x80000000 256 (.std 0)))).moveReady l e = true ∧
      (((sEng (anEntry (.mld 0 0x80000000 256 (.std 0)))).performOp e).replay).isSome = true) ∧
    AtEntry (unready (sEng farLow)) (fun _ l e => e.replay = none ∧ (unready (sEng farLow)).moveReady l e = false) ∧
    AtEntry (sEng farLow) (fun _ l e => e.replay = none ∧ (sEng farLow).moveReady l e = true ∧
      ((((sEng farLow).noteErr (teamOf e.group) e.core anErr).performOp e (some anErr)).fail).isSome = true) := by
  refine ⟨?_, ?_, ?_, ?_, atEntry (by decide +kernel), atEntry (by decide +kernel), atEntry (by decide +kernel), atEntry (by decide +kernel)⟩ <;> decide +kernel

/-- The state of an operation in progress of a team that holds the lease. -/
def opState (op : EngOp) : State := sEng (anEntry op)
def mmaOp (fa : ElemFmt) : EngOp := .mma 0 0 0x4000 fa fa none 0 0
def loadOp : EngOp := .mld 0 0xFF00000000000000 256 (.std 0)
def storeOp : EngOp := .mst 0 0xFF00000000000000 256 (.std 0) 0 []

theorem test_witness_ZeroedTiles :
    AtEntry (opState (.mzero 7)) (fun _ _ e => e.replay = none ∧ e.op = .mzero 7) := atEntry (by decide +kernel)

theorem test_witness_MatrixResults :
    AtEntry (opState (.mput 0 [1, 2] 3)) (fun _ _ e => e.replay = none ∧ e.op = .mput 0 [1, 2] 3) ∧
    AtEntry (opState (.mcol 1 0 2 1)) (fun m _ e => e.replay = none ∧ e.op = .mcol 1 0 2 1 ∧
      ((opState (.mcol 1 0 2 1)).shareOf u0 (e.core - m.core)).tilePoison = []) ∧
    AtEntry (opState (mmaOp (.std 0))) (fun _ l e => e.replay = none ∧ e.op = mmaOp (.std 0) ∧
      (opState (mmaOp (.std 0))).slabErr l e.core 0 = none ∧ (opState (mmaOp (.std 0))).slabErr l e.core 0x4000 = none) ∧
    AtEntry (opState loadOp) (fun _ l e => e.replay = none ∧ e.op = loadOp ∧ ∀ r ∈ List.range 64,
      ∃ ls ∈ ((opState loadOp).epRow l e.core 0xFF00000000000000 (r * 256) (8 * ElemFmt.width (.std 0)) 1).toOption,
        ∀ p ∈ ls, (opState loadOp).locReady p = true ∧ (opState loadOp).poisonAt p = none ∧ p.space = .scratch u0 0) ∧
    AtEntry (opState storeOp) (fun m l e => e.replay = none ∧ e.op = storeOp ∧ isScratchEp 0xFF00000000000000 = true ∧
      ((opState storeOp).shareOf u0 (e.core - m.core)).tilePoison = [] ∧ ∀ r ∈ List.range 64,
      ((opState storeOp).epRow l e.core 0xFF00000000000000 (r * 256) (8 * ElemFmt.width (.std 0)) 2).toOption.isSome = true) ∧
    ElemFmt.int (.std 0) = none ∧ (ElemFmt.int (.std 3)).isSome = true :=
  ⟨atEntry (by decide +kernel), atEntry (by decide +kernel), atEntry (by decide +kernel),
    atEntry (by decide +kernel), atEntry (by decide +kernel), by decide +kernel, by decide +kernel⟩

/-- A slot on tile 0, with tile 1 as its base or without one, its state word set. -/
def sQ (op : EngOp) (tB : Option Nat) (w : Word) : State := (sEng (anEntry op)).tm (fun m => m.modCur (fun c => { c with
  cores := c.cores.map (fun h => { h with qs := [(0, { tA := 0, tB := tB })], tiles := [(0, (List.replicate 4096 0).set stateElem w)] }) }))

/-- An operation in progress on a slot with a valid state word: its count is as given. -/
def OnSlot (s : State) (q : QBind → OrthWord → EngEntry → Prop) : Prop :=
  AtEntry s (fun m _ e => e.replay = none ∧ ∃ b ∈ ((s.shareOf u0 (e.core - m.core)).qs.find? (fun x => x.1 == 0)).map (·.2),
    (s.shareOf u0 (e.core - m.core)).tilePoison = [] ∧ b.tB ≠ some b.tA ∧ q b ((s.shareOf u0 (e.core - m.core)).orth b) e)

theorem test_witness_OrthResults :
    AtEntry (opState (.qinit 0 0 none 32 1)) (fun _ _ e => e.op = .qinit 0 0 none 32 1) ∧
    AtEntry (opState (.hhgen 1 [1, 2] 1 0 0xA4 0)) (fun _ _ e => e.op = .hhgen 1 [1, 2] 1 0 0xA4 0 ∧
      ((opState (.hhgen 1 [1, 2] 1 0 0xA4 0)).group? e.group).isSome ∧ clsOf 1 = .v ∧ clsOf 0xA4 = .s ∧ clsOf (0xA4 + 1) = .s) ∧
    AtEntry (opState (.qstat 0xA4 0)) (fun _ _ e => e.op = .qstat 0xA4 0) ∧
    OnSlot (sQ (.qacc 0 [1] 0 0) none (orthWord 1 false 2 0)) (fun b w e => w.valid b.tB.isSome = true ∧ w.count < w.cap ∧ e.op = .qacc 0 [1] 0 0) ∧
    OnSlot (sQ (.qacc 0 [1] 0 0) none (orthWord 1 false 2 2)) (fun b w _ => w.valid b.tB.isSome = true ∧ w.count = w.cap ∧ w.policy = 1) ∧
    OnSlot (sQ (.qacc 0 [1] 0 0) none (orthWord 2 false 2 2)) (fun b w _ => w.valid b.tB.isSome = true ∧ w.count = w.cap ∧ w.policy = 2) ∧
    OnSlot (sQ (.qacc 0 [1] 0 0) (some 1) (orthWord 0 false 2 2)) (fun b w _ => w.valid b.tB.isSome = true ∧ w.count = w.cap ∧ w.policy = 0) ∧
    OnSlot (sQ (.qacc 0 [1] 0 0) none (orthWord 1 false 0 0)) (fun b w _ => w.valid b.tB.isSome = false) ∧
    OnSlot (sQ (.qfold 0 0) (some 1) (orthWord 0 false 2 1)) (fun b w e => w.valid b.tB.isSome = true ∧ e.op = .qfold 0 0) ∧
    OnSlot (sQ (.qclr 0) none (orthWord 1 false 2 1)) (fun b w e => w.valid b.tB.isSome = true ∧ e.op = .qclr 0) ∧
    OnSlot (sQ (.qapTile true 2 0 false 0) none (orthWord 1 false 2 1)) (fun b w e => w.valid b.tB.isSome = true ∧ e.op = .qapTile true 2 0 false 0) ∧
    OnSlot (sQ (.qapReg true 1 [1] 1 0 false 0) none (orthWord 1 false 2 1)) (fun b w e =>
      w.valid b.tB.isSome = true ∧ e.op = .qapReg true 1 [1] 1 0 false 0 ∧ clsOf 1 = .v) := by
  refine ⟨atEntry ?_, atEntry ?_, atEntry ?_, ?_, ?_, ?_, ?_, ?_, ?_, ?_, ?_, ?_⟩
  all_goals first | decide +kernel | (refine atEntry (q := fun _ _ _ => _) ?_; decide +kernel)

def sDue (f : Group → Group := id) : State := (s16.tm (fun m => { m with campDue := some .periodic })).but f
def ropeOf (pinned : Bool) (n : Nat) : Rope :=
  { n := 1, positions := [16], lenders := [], leaderLane := 0, recruitPc := 0x800, nextPc := 0x814, hregs := [], ks := []
    paths := [{ pc := 0x1000, mask := 1 }], used := [0, 0], pinned := pinned, logBytes := n }
def sLog : State := s16.but (fun g => { g with hold := some .undoLog })
def sRopeLog (pinned : Bool) : State :=
  (s16.tm (fun m => { m with log := [.scratchRow 0 0] })).but (fun g => { g with state := .leaderSuspended, hold := some .undoLog, rope := some (ropeOf pinned 0) })
/-- The same, with the bytes of the rope's own writes all that the core's log holds. -/
def sOwnLog : State := (sRopeLog false).but (fun g => { g with rope := some (ropeOf false ((sRopeLog false).coreLog 0)) })
/-- The same with a load outstanding, so that the team cannot be rolled back yet; and after the load, when the rollback is due. -/
def sLoadLog : State := sOwnLog.but (fun g => { g with ld := [{ seq := 0, pc := 0x1000, delivers := [] }], nextSeq := 1 })
def sAlone : State := (sOwnLog.but (fun g => { g with rope := g.rope.map (fun r => { r with alone := true }) })).tm (fun m => { m with rollDue := true, logRoll := true })
def sOver_ : State := s16.tm (fun m => m.mapGroups (fun g => { g with state := .exited, slot := none }))

theorem test_witness_CampsAndRetirement :
    (s16.ready.trip = false ∧ ∃ m ∈ s16.team? u0, m.saved = false ∧ s16.clk m.core < m.lastCamp + 2 ^ (s16.quota m.district).campInt) ∧
    (∃ m ∈ s16.later.team? u0, m.saved = false ∧ m.lastCamp + 2 ^ (s16.later.quota m.district).campInt ≤ s16.later.clk m.core) ∧
    (∃ m ∈ sDue.team? u0, m.saved = false ∧ m.campDue.isSome = true ∧
      ∀ q ∈ m.cur.parts, ∀ g ∈ q.groups, g.ld = [] ∧ g.st = [] ∧ g.tl = [] ∧ g.rope = none ∧ g.hold ≠ some .xlate) ∧
    (∃ m ∈ (sDue (fun g => { g with ld := [{ seq := 0, pc := 0, delivers := [] }] })).team? u0, ∃ e ∈ m.allGroups, e.2.ld ≠ []) ∧
    ((∃ m ∈ sLog.teamsIn 0, m.logWaits = true) ∧ ∀ m ∈ sLog.teamsIn 0, m.roped = false) ∧
    (∃ m ∈ (sRopeLog true).team? u0, (sRopeLog true).teamsIn 0 = [m] ∧ m.logWaits = true ∧
      ∃ e ∈ m.allGroups, ∃ rope ∈ e.2.rope, rope.pinned = true) ∧
    (∃ m ∈ sOwnLog.team? u0, sOwnLog.teamsIn 0 = [m] ∧ m.logWaits = true ∧ sOwnLog.canRoll m = true ∧ m.logBad = false ∧
      ∃ e ∈ m.allGroups, ∃ rope ∈ e.2.rope, rope.pinned = false ∧ rope.logBytes ≠ 0 ∧ rope.logBytes = sOwnLog.coreLog 0 ∧
        ((m.camp.parts[e.1.part]?).bind (fun q => q.groups[e.1.grp]?)).isSome = true) ∧
    (∃ m ∈ sLoadLog.team? u0, sLoadLog.teamsIn 0 = [m] ∧ m.logWaits = true ∧ sLoadLog.canRoll m = false ∧ m.ropes ≠ [] ∧
      m.rollDue = false ∧ ∀ e ∈ m.ropes, e.2.pinned = false ∧ e.2.logBytes = sLoadLog.coreLog 0) ∧
    (∃ m ∈ sAlone.team? u0, sAlone.team? m.ref = some m ∧ (∃ l ∈ sAlone.launch? m.ref.launch, l.preempt = none ∧ l.stopDue = none) ∧
      m.rollDue = true ∧ m.logRoll = true ∧ sAlone.canRoll m = true ∧ m.logBad = false ∧ ∃ e ∈ m.ropes, e.2.alone = true ∧
        ((m.camp.parts[e.1.part]?).bind (fun q => q.groups[e.1.grp]?)).isSome = true) ∧
    (∃ m ∈ s16.team? u0, ∃ q ∈ m.cur.parts, ∃ g ∈ q.groups, g.state ≠ .exited) ∧
    (∃ m ∈ sOver_.team? u0, sOver_.storesReady m = true ∧ sOver_.freq.getD (clusterOf m.core) 1100 = 1100 ∧ m.saved = false ∧ (∀ q ∈ m.cur.parts, ∀ g ∈ q.groups, g.state = .exited) ∧ m.cur.copies = [] ∧
      sOver_.engineWork m = false ∧ ∀ e ∈ m.allGroups, (∀ o ∈ e.2.st, o.done = true) ∧ e.2.leftFails = []) := by
  refine ⟨?_, ?_, ?_, ?_, ?_, ?_, ?_, ?_, ?_, ?_, ?_⟩ <;> decide +kernel

/-- A debug right of function 0 over launch 1, and the machine whose firmware runs. -/
def sDbg (s : State := s16) : State := { s.running with rights := [{ launch := 1, fn := f0, ring := 0x20000, size := 16 }] }
def sHalted (g : Group → Group := id) : State := (sDbg).but (fun x => g { x with halted := true })

theorem test_witness_Debugging :
    Takes s16.running f0 ∧ Takes (sDbg) f0 ∧ Takes sHalted f0 ∧ (s16.running.right? 1 = none ∧ (s16.running.launch? 1).isSome ∧
      (0x20000 : Dword).toNat % 64 = 0 ∧ 16 = 16 * 2 ^ 0 ∧ (0x20000 : Dword).toNat + 64 + 64 * 16 ≤ Config.lpddrBytes) ∧
    s16.running.launch? 2 = none ∧ (∃ d ∈ sDbg.right? 1, d.fn = f0) ∧ (∃ d ∈ sDbg.right? 1, d.fn ≠ { link := 1, num := 0 }) ∧
    Takes sDbg { link := 1, num := 0 } ∧ (sDbg.team? { launch := 1, team := 0 }).isSome ∧ sDbg.team? { launch := 1, team := 9 } = none ∧
    (∃ g ∈ sDbg.group? r0, g.halted = false) ∧ (∃ g ∈ sHalted.group? r0, g.halted = true ∧ g.over_ = false) ∧
    (∃ g ∈ (sHalted (fun g => { g with state := .faulted, slot := none, faultPc := 0x1000 })).group? r0, g.halted = true ∧ g.over_ = false ∧ g.state = .faulted) ∧
    (∃ l ∈ sDbg.launch? 1, (sDbg.windowLocs l 0 0 0 4).isSome ∧ sDbg.windowLocs l 9 0 0 4 = none ∧
      (sDbg.windowLocs l 0 1 (256 * 0xA2) 4) = some ((List.range 4).map (fun i => { space := .reg r0, addr := 256 * 0xA2 + i })) ∧
      ∃ m ∈ sDbg.teamOnCore 1 0, sDbg.team? m.ref = some m ∧ debugCode l.desc 3 = true ∧ windowCode l.desc 3 = true ∧
        ∃ g ∈ sDbg.group? { launch := 1, team := m.ref.team, part := 4 * (0 - m.core) + 0, grp := 0 }, (g.debugWrite 3 0 [1, 0, 0, 0]).isSome) ∧
    (∃ m ∈ ((sDbg).tm (fun m => { m with haltDue := true })).team? u0, m.saved = false ∧ m.haltDue = true ∧ m.roped = false) := by
  refine ⟨takes ?_, takes ?_, takes ?_, ?_, ?_, ?_, ?_, takes ?_, ?_, ?_, ?_, ?_, ?_, ?_, ?_⟩ <;> decide +kernel

def badQuota : Quota := { Quota.full with slice := 1 }

theorem test_witness_MailboxCommands :
    Takes s16.running f0 ∧ Takes s16.running v0 ∧ s16.fwUp = false ∧ (s16.running.vdevOf f0).isSome ∧ s16.running.vdevOf v0 = none ∧
    s16.running.launch? 2 = none ∧
    (∃ l ∈ s16.running.launch? 1, s16.running.mayStop f0 l = true ∧ l.stopDue = none ∧ l.preempt = none) ∧
    (∃ l ∈ s16.running.launch? 1, s16.running.mayStop v0 l = false) ∧
    (∀ m ∈ ({ s16.running with teams := [] } : State).teams, m.ref.launch ≠ 1) ∧
    quotaOk Quota.full (((List.range 8).filter (· != 0)).map (fun k => ((s16.districts[k]?).bind (·.quotaDue)).getD (s16.quota k))) = true ∧
    quotaOk badQuota [] = false ∧ s16.teams.any (fun m => m.district == 0 && !m.saved) = true ∧
    ({ s16 with teams := [] } : State).teams.any (fun m => m.district == 0 && !m.saved) = false ∧
    (0x10000 : Dword).toNat % 2 ^ 15 = 0 ∧ (s16.vdev? { district := 0, vdev := 0 }).isSome ∧
    (∃ g ∈ (sXlate false).group? r0, ∃ w ∈ g.replay, ((sXlate false).launchSpace r0.launch).asid = 0 ∧ inRange none w.va = true) ∧
    fnExists v0 = true ∧ (∀ v ∈ s16.vdevOf v0, s16.vdevQuiet v.key = true) ∧ (s16.vdev? { district := 0, vdev := 1 }) = none ∧
    (∃ v ∈ s16.vdevOf f0, s16.vdevQuiet v.key = false) ∧
    ((s16.launches.map (·.num)).Nodup ∧ ∀ l ∈ s16.launches, l.stopDue = none) ∧
    (s16.vlocs {} 0x5000 32).length = 32 := by
  refine ⟨takes ?_, takes ?_, ?_, ?_, ?_, ?_, ?_, ?_, ?_, ?_, ?_, ?_, ?_, ?_, ?_, ?_, ?_, ?_, ?_, ?_, ?_, ?_⟩ <;> decide +kernel

/-- A command-complex core is out of service: core `n`, with another core on its districts or not, for a command or a reset. -/
def sReload (n : Nat) (taken : Bool) (job : Bool) : State := { s16.running with
  ready := { s16.running.ready with cc := 0xFF &&& ~~~(1#8 <<< n) }
  reloads := [{ core := n, taken := taken, job := if job then some (f0, mb0, 0x40000) else none }] }
/-- The record of district 0 at an address, with a route book of 16 entries. -/
def sRecord : State :=
  let s := s16.running
  { s with mem := cellWrites (cellWrites s.mem 0x70000 (leBytes 0x71000 8)) 0x70008 (leBytes 16 4)
           districts := modAt s.districts 0 (fun d => { d with record := some 0x70000 }) }

theorem test_witness_CommandsThatEndLater :
    s16.running.fwUp = true ∧ (∀ i ∈ s16.running.invals, i.fn ≠ f0) ∧
    (∃ i ∈ (([{ fn := f0, mb := mb0, asid := 0, range := none }] : List Inval).find? (fun x => x.fn = f0)), s16.storesOut i.asid = true ∧
      sSt.storesOut i.asid = false) ∧
    (∀ l ∈ ({ s16.running with drains := [(0, f0, mb0)], launches := [] } : State).launches, l.phase ≠ .running) ∧
    (∃ l ∈ s16.running.launches, l.phase = .running) ∧
    s16.running.ccRuns 7 = true ∧ (∀ r ∈ s16.running.reloads, r.core ≠ 7) ∧ (sReload 7 false false).ccRuns 7 = false ∧
    (∃ r ∈ (sReload 0 true false).reloads.find? (fun x => x.core == 0), r.taken = true ∧ r.job = none ∧ (sReload 0 true false).ready.trip = false) ∧
    (∃ r ∈ (sReload 7 true true).reloads.find? (fun x => x.core == 7), r.taken = true ∧ r.job = some (f0, mb0, 0x40000)) ∧
    ((sReload 3 false true).ccRuns 4 = true ∧ (∀ r ∈ (sReload 3 false true).reloads, r.core ≠ 4) ∧ ∃ r ∈ (sReload 3 false true).reloads, r.taken = false) ∧
    (sRecord.districtsOf 0 = [0] ∧ (sRecord.districts[0]?).bind (·.record) = some 0x70000 ∧
      0x70000 + 256 ≤ cellLe sRecord.mem 0x70000 8 + 32 * (cellLe sRecord.mem 0x70010 8 % cellLe sRecord.mem 0x70008 4)) := by
  refine ⟨?_, ?_, ?_, ?_, ?_, ?_, ?_, ?_, ?_, ?_, ?_, ?_⟩ <;> decide +kernel

/-- A running core takes the districts of core 3 over at a clock of its own, and core 3 comes back at one of its (R348, R393). -/
theorem test_reload :
    ((sReload 3 false false).tickCommand 4).ccOf 3 = 4 ∧ ((sReload 3 false false).tickCommand 4).ccOf 5 = 5 ∧
    (sReload 3 false false).served 3 = false ∧ ((sReload 3 false false).tickCommand 4).served 3 = true ∧
    (((sReload 3 false false).tickCommand 4).tickCommand 3).ccOf 3 = 3 ∧
    (((sReload 3 false false).tickCommand 4).tickCommand 3).ready.cc = 0xFF := by
  refine ⟨?_, ?_, ?_, ?_, ?_, ?_⟩ <;> decide +kernel

/-- Fields of a packet or descriptor: offset, bytes, value. -/
def put (mem : List Host.Cell) (at_ : Nat) (fs : List (Nat × Nat × Nat)) : List Host.Cell :=
  fs.foldl (fun m e => cellWrites m (at_ + e.1) (leBytes e.2.2 e.2.1)) mem
/-- A mapped queue with four packets. -/
def q0 : Queue := { key := k0, ringBase := 0x20000, ringSize := 16, wrIdx := 4, state := 3, slot := some 0 }
def sQu (q : Queue) (fs : List (Nat × Nat × Nat)) : State :=
  { s16.running with queues := [q], mem := put s16.mem 0x20000 fs, vdevs := s16.vdevs.map (fun v => { v with qcbTable := 0x30000 }) }
/-- A queue that is not mapped: its state is in its control block. -/
def sIdle (n : Nat) : State := { sQu q0 [] with queues := [], mem := put (sQu q0 []).mem 0x30000 [(0x17, 1, n)] }

theorem test_witness_Kicks :
    (s16.vdevOf v0 = none) ∧ (∃ v ∈ (sQu q0 []).vdevOf f0, (sQu q0 []).fwUp = true ∧ v.scheduled = true) ∧
    (∃ v ∈ (sQu q0 []).vdev? (vkeyOfQ k0), v.scheduled = true ∧ ((sQu q0 []).queue k0).state = 3 ∧
      ((BitVec.ofNat 32 ((sQu q0 []).vle ((sQu q0 []).qcbAt k0).1 (((sQu q0 []).qcbAt k0).2 + 0x10) 4) : Word) -
        ((sQu q0 []).queue k0).rdIdx).toNat ≤ ((sQu q0 []).queue k0).ringSize) ∧
    (((sQu { q0 with rdIdx := 1 } []).queue k0).ringSize <
      ((BitVec.ofNat 32 ((sQu { q0 with rdIdx := 1 } []).vle ((sQu { q0 with rdIdx := 1 } []).qcbAt k0).1
        (((sQu { q0 with rdIdx := 1 } []).qcbAt k0).2 + 0x10) 4) : Word) - ((sQu { q0 with rdIdx := 1 } []).queue k0).rdIdx).toNat) ∧
    ((sIdle 4).queue k0).state = 4 ∧
    (((sIdle 1).queue k0).state = 1 ∧ (sIdle 1).freeSlot 0 = some 0) ∧
    (sIdle 1).freeSlot 1 = none ∧
    (((sIdle 2).queue k0).state = 2 ∧ ({ sIdle 2 with districts := [] } : State).freeSlot 0 = none) ∧
    ((sQu q0 []).answers = true ∧ (sQu q0 []).served 0 = true ∧ ({ sQu q0 [] with reloads := [{ core := 0 }] } : State).served 0 = false) ∧
    (∃ v ∈ ({ sQu q0 [] with vdevs := [{ key := { district := 0, vdev := 0 }, fn := f0, scheduled := false }] } : State).vdev? { district := 0, vdev := 0 },
      v.scheduled = false) := by
  refine ⟨?_, ?_, ?_, ?_, ?_, ?_, ?_, ?_, ?_, ?_⟩ <;> decide +kernel

/-- A packet at the head of a queue, all of whose fields are in order. -/
def Head (s : State) (type : Nat) (q : Queue → List Byte → Prop) : Prop :=
  ∃ e ∈ s.head k0, fieldOf e.2 0 1 = type ∧ lowest (s.offences e.1 e.2) = none ∧ q e.1 e.2

theorem atHead {s : State} {type : Nat} {q : Queue → List Byte → Prop} [∀ a b, Decidable (q a b)]
    (h : ∃ e ∈ s.head k0, fieldOf e.2 0 1 = type ∧ lowest (s.offences e.1 e.2) = none ∧ q e.1 e.2) : Head s type q := h

def launchFields : List (Nat × Nat × Nat) := [(0, 1, 1), (3, 1, 0xFF), (4, 4, 1), (8, 2, 1), (10, 2, 1), (12, 4, 1), (0x18, 8, 0x7000)]
def sLaunch : State := let s := sQu q0 launchFields
  { s with mem := put s.mem 0x7000 [(0, 2, 1), (2, 1, 1), (3, 1, 1), (4, 1, 16), (0xC, 1, 0x80), (0x18, 8, 0x1000)], launches := [], teams := [] }
def sFence (v : Nat) : State := sQu q0 [(0, 1, 2), (1, 1, 1), (0x40, 7, 0x9000), (0x47, 1, 1), (0x48, 8, v)]
def sPred (v : Nat) : State := sQu q0 [(0, 1, 3), (1, 1, 1), (2, 1, 1), (3, 1, 1), (8, 8, 0x9000), (16, 8, v)]

/-- A queue with one packet read, whose control block has WRIDX at `w`; and one that copies. -/
def sRe (w : Nat) : State := let s := sQu { q0 with wrIdx := 1 } []
  { s with mem := put s.mem 0x30000 [(0x10, 4, w)] }
def sHub : State := { sQu q0 [] with hubCopies := [{ queue := k0, dst := 0x9000, src := 0x9100, bytes := 16 }] }

theorem test_witness_QueuePackets :
    Head (sQu q0 []) 0 (fun _ p => waitPrev p = false) ∧
    Head sLaunch 1 (fun _ p => waitPrev p = false ∧ sLaunch.drains = [] ∧ sLaunch.launchCount + 1 ≠ 0 ∧ sLaunch.launches = [] ∧
      descOk (sLaunch.vread {} (fieldOf p 0x18 8) 256) = true ∧ fieldOf p 0x10 4 ≤ (descOf (sLaunch.vread {} (fieldOf p 0x18 8) 256)).scratch ∧
      quotaHolds (sLaunch.quota 0) (descOf (sLaunch.vread {} (fieldOf p 0x18 8) 256)).use = true) ∧
    Head (sQu q0 launchFields) 1 (fun _ p => descOk ((sQu q0 launchFields).vread {} (fieldOf p 0x18 8) 256) = false) ∧
    Head (sFence 0) 2 (fun q _ => 2 ≤ q.backlog ∧ (sFence 0).condOffences q ((sFence 0).packetBytes q (q.rdIdx + 1)) 1 = [] ∧
      condHolds 1 ((sFence 0).vle {} 0x9000 8) 0 = true) ∧
    Head (sFence 9) 2 (fun _ _ => condHolds 1 ((sFence 9).vle {} 0x9000 8) 9 = false) ∧
    Head (sPred 0) 3 (fun q _ => 3 ≤ q.backlog ∧ condHolds 1 ((sPred 0).vle {} 0x9000 8) 0 = true) ∧
    Head (sPred 9) 3 (fun q _ => 3 ≤ q.backlog ∧ condHolds 1 ((sPred 9).vle {} 0x9000 8) 9 = false) ∧
    Head (sQu q0 [(0, 1, 4), (1, 1, 0xC), (8, 8, 0x9000), (16, 8, 5)]) 4 (fun _ p => waitPrev p = false) ∧
    Head (sQu q0 [(0, 1, 5), (8, 8, 0x9000), (16, 8, 0x9100), (24, 8, 16)]) 5 (fun _ p => waitPrev p = false) ∧
    Head (sQu q0 [(0, 1, 6)]) 6 (fun _ p => waitPrev p = false) ∧
    (∃ e ∈ (sQu q0 [(2, 1, 1)]).head k0, (lowest ((sQu q0 [(2, 1, 1)]).offences e.1 e.2)).isSome) ∧
    Head (sQu { q0 with earlier := [1] } [(1, 1, 1)]) 0 (fun q p => waitPrev p = true ∧ q.earlier ≠ []) ∧
    (∃ e ∈ (sQu q0 [(0, 1, 7)]).head k0, 7 ≤ fieldOf e.2 0 1) ∧
    Head (sQu { q0 with ringSize := 64, wrIdx := 18 } []) 0 (fun q _ => 16 < (q.past 1).backlog) ∧
    Head (sRe 16) 0 (fun q _ => (q.past 1).backlog ≤ 16 ∧ ((16 : Word) - (q.past 1).rdIdx).toNat ≤ (q.past 1).ringSize) ∧
    Head (sRe 18) 0 (fun q _ => (q.past 1).backlog ≤ 16 ∧ (q.past 1).ringSize < ((18 : Word) - (q.past 1).rdIdx).toNat) ∧
    (BitVec.ofNat 32 ((sRe 18).vle ((sRe 18).qcbAt k0).1 (((sRe 18).qcbAt k0).2 + 0x10) 4) = (18 : Word)) ∧
    (∃ c ∈ sHub.hubCopies.find? (fun x => x.queue = k0), (sHub.vlocs (sHub.spaceOfVdev (vkeyOfQ k0)) c.dst.toNat c.bytes).length = c.bytes ∧
      (sHub.ownQueue k0).state = 3 ∧ sHub.served 0 = true) ∧
    ((sQu { q0 with pkind := 2 } []).fwUp = true ∧ ((sQu { q0 with pkind := 2 } []).ownQueue k0).pkind = 2) ∧
    (((sQu { q0 with waiting := true } []).ownQueue k0).waiting = true ∧ ((sQu { q0 with waiting := true } []).ownQueue k0).earlier = [] ∧
      ((sQu { q0 with waiting := true } []).ownQueue k0).backlog ≠ 0 ∧ (sQu { q0 with waiting := true } []).copying k0 = false) ∧
    ((sQu q0 []).vlocs {} 0x9000 16).length = 16 := by
  refine ⟨atHead ?_, atHead ?_, atHead ?_, atHead ?_, atHead ?_, atHead ?_, atHead ?_, atHead ?_, atHead ?_, atHead ?_, ?_, atHead ?_,
    ?_, atHead ?_, atHead ?_, atHead ?_, ?_, ?_, ?_, ?_, ?_⟩ <;> decide +kernel

def sPhase (p : LaunchPhase) (keep : Bool) : State :=
  let s := s16.running
  { s with ready := { s.ready with clu := 1 }, launches := [{ fetched 1 1 with phase := p, clu := 1 }]
           teams := if keep then s.teams.map (fun m => { m with saved := true }) else [] }

theorem test_witness_LaunchLifecycle :
    (sPhase .admitted false).fwUp = true ∧ (sPhase .admitted false).rechoose.unsettled = false ∧ (sPhase .admitted false).rechoose.noRopes = true ∧
    (∃ l ∈ (sPhase .admitted false).rechoose.choose.find? (fun x => x.num == 1), l.phase = .admitted ∧
      ((sPhase .admitted false).rechoose.launch? 1).isSome ∧ ∀ m ∈ (sPhase .admitted false).rechoose.teams, m.ref.launch ≠ 1) ∧
    (∃ l ∈ (sPhase .saved true).rechoose.choose.find? (fun x => x.num == 1), l.phase = .saved ∧
      (sPhase .saved true).rechoose.unsettled = false ∧ (sPhase .saved true).rechoose.noRopes = true) ∧
    ({ sPhase .admitted false with drains := [(0, f0, mb0)] } : State).rechoose.unsettled = true ∧
    (∃ l ∈ (sPhase .running false).launch? 1, l.phase ≠ .admitted ∧ l.stopDue = none ∧ ∀ m ∈ (sPhase .running false).teams, m.ref.launch ≠ 1) ∧
    (∃ x ∈ s16.running.districts[0]?, s16.running.hostClk < x.lastSlice + 1000 * x.quota.slice) ∧
    (∃ x ∈ ({ sQu q0 [] with hostClk := 1000000 } : State).districts[0]?,
      x.lastSlice + 1000 * x.quota.slice ≤ ({ sQu q0 [] with hostClk := 1000000 } : State).hostClk ∧
      (({ sQu q0 [] with hostClk := 1000000 } : State).ownQueue k0).hasWork = true) := by
  refine ⟨?_, ?_, ?_, ?_, ?_, ?_, ?_, ?_, ?_⟩ <;> decide +kernel

def aVector : Vector := { pending := 1, due := 4096, last := some k0 }
def sVec (clk : Nat) : State := { s16 with hostClk := clk, fns := [{ fn := f0, vectors := [(3, aVector)] }] }

/-- A row of channel 7 has been activated 1,023 times. -/
def sRow (n : Nat) (acts : List Act) : State := { s16 with rowAct := [(7, { counts := [((5, 9), n)] })], agenda := acts }

theorem test_witness_DeviceEvents :
    s16.running.answers = true ∧ s16.answers = false ∧
    (0x01020304 : Dword).extractLsb' 16 8 ≠ 0 ∧ (0x01020304 : Dword).extractLsb' 0 16 ≠ 0 ∧
    ((((sVec 4096).fnState f0).vector 3).pending ≠ 0 ∧ (((sVec 4096).fnState f0).vector 3).due ≤ (sVec 4096).hostClk) ∧
    (sVec 4095).hostClk < (((sVec 4095).fnState f0).vector 3).due ∧
    ((((sVec 5).fnState f0).vector 3).pending + 1 < (((sVec 5).fnState f0).vector 3).t.toNat ∧
      ((({ s16 with fns := [{ fn := f0, vectors := [(3, { aVector with t := 2 })] }] } : State).fnState f0).vector 3).t.toNat ≤ 1 + 1) ∧
    (∃ k ∈ (((sVec 5).fnState f0).vector 3).last, ({ sVec 5 with launches := [] } : State).queueIdle k = true) ∧
    s16.freq.length = 8 ∧ (s16.launches.map (·.num)).Nodup ∧ (∃ l ∈ s16.launch? 1, l.phase = .running ∧ s16.runsOn l 0 = true) ∧
    [0, 3].Nodup ∧
    (s16.ready.trip = false ∧ 5 ∉ (s16.rows 7).backoff ∧ ((sRow 1023 []).rows 7).count 5 9 = 1023 ∧ ((sRow 1022 []).rows 7).count 5 9 ≠ 1023) ∧
    (∃ e ∈ [({ mech := 8, fatal := true, unit := 4, loc := 0x2000 } : DataErr)], e.loc.toNat < Config.lpddrBytes ∧ e.loc.toNat / 2048 % 192 = 4 ∧
      e.fatal = true) := by
  refine ⟨?_, ?_, ?_, ?_, ?_, ?_, ?_, ?_, ?_, ?_, ?_, ?_, ?_, ?_⟩ <;> decide +kernel

/-- Activations are counted, and that which brings a row to 1,024 is the alert (R383). -/
theorem test_activation :
    (match step (sRow 1022 [.activate 7 5 9]) with
      | .next t => some ((t.rows 7).count 5 9, (t.rows 7).alerts)
      | _ => none) = some (1023, 0) ∧
    (match step (sRow 1023 [.activate 7 5 9]) with
      | .next t => some ((t.rows 7).count 5 9, (t.rows 7).alerts, (t.rows 7).rfms, (t.rows 7).backoff)
      | _ => none) = some (0, 1, 4, [5]) := by
  refine ⟨?_, ?_⟩ <;> decide +kernel

theorem test_witness_AccessesFromOutside :
    (∃ w ∈ ({ s16 with peerWin := some (0x1000, 0x1000) } : State).peerWin, 0x10 + busSize (.atomic 0 true 1 2) ≤ w.2 ∧
      w.2 < 0xFFF + busSize (.read 8)) ∧ s16.peerWin = none ∧ s16.running.answers = true ∧
    0x40 + busSize (.write [1, 2]) ≤ 2 ^ 36 ∧
    (lookupD s16.apertures f0.link 0).toNat + 0x40 + busSize (.write [1, 2]) ≤ Config.lpddrBytes ∧
    (∀ p ∈ physSpan (physKey 0 0x1010) 8, s16.locReady p = true) ∧ (∃ p ∈ physSpan (physKey 0 0x1010) 8, (unready s16).locReady p = false) ∧
    s16.answers = false ∧ ({ s16 with ready := { s16.ready with trip := true } } : State).answers = false ∧ (s16.running.vdevOf f0).isSome = true := by
  decide +kernel

/-- Reads of BAR0: KICK gives zero; DONE is bit 63 of READY0; before the firmware runs only READY answers (R5, R346, R347, R352). -/
theorem test_register_read :
    s16.running.registerRead f0 0 = some (List.replicate 8 0) ∧ s16.registerRead f0 0 = none ∧
    ({ s16 with ready := { clu := 3, link := 2, done := true } } : State).registerRead f0 0x3000 = some [3, 0, 0, 0, 0x20, 0, 0, 0x80] := by
  refine ⟨?_, ?_, ?_⟩ <;> decide +kernel

/-- An IADD of the group is next. -/
def sStep : State := { s16 with mem := cellWrites s16.mem 0x1000 (leBytes 0x01030102 4), agenda := [.issue r0] }

theorem test_witness_StepRunsDecodedInstruction :
    sStep.issues r0 = true ∧ sStep.inTurn r0 = true ∧
    (∃ c ∈ ctxOf { sStep with cur := r0 }, instrLen 0x01030102 = 1 ∧
      (({ sStep with cur := r0 } : State).fetchWord c.launch c.pc.toNat).toOption = some 0x01030102 ∧
      ({ sStep with cur := r0 } : State).wordReady c.launch c.pc.toNat = true ∧
      ({ unready sStep with cur := r0 } : State).wordReady c.launch c.pc.toNat = false) ∧
    decodeWords 0x01030102 0 0 0 0 = .instr (.iadd 3 1 2) 1 ∧ decodeWords 0 0 0 0 0 = .illegal 0 24 ∧
    (s16.agenda = [] ∧ s16.ready.trip = false ∧ s16.nextCamp = none ∧ s16.nextIssue = some r0) ∧
    (∃ g ∈ s16.group? r0, g.stepDue = none) ∧
    (isWindow 0x1000 = false ∧ ∃ l ∈ s16.launch? 1, (s16.vaLoc l 0x1000 4 4).toOption.isSome = true) := by
  refine ⟨?_, ?_, ?_, ?_, ?_, ?_, ?_, ?_⟩ <;> decide +kernel

theorem test_witness_RoundTrip :
    (Instr.iadd 3 1 2).wf = true ∧ encode (.iadd 3 1 2) ≠ [] ∧
    decode ((leBytes 0x01030102 4) ++ List.replicate 16 0) = .instr (.iadd 3 1 2) 1 ∧ 20 ≤ ((leBytes 0x01030102 4) ++ List.replicate 16 0).length ∧
    (Instr.pfx 2 0 1 0x09 0x17080203).wf = true ∧ pfxNextOk 0x17080203 = true := by decide +kernel

theorem test_witness_StepKeepsMemoryForm : s16.Safe ∧ (match step s16 with | .next _ => true | _ => false) = true := by
  refine ⟨?_, ?_⟩
  · show Memory.wf s16.mem = true
    decide +kernel
  · decide +kernel

theorem test_reset_is_safe : State.reset.Safe := by show Memory.wf State.reset.mem = true; decide

theorem test_witness_WorkFetches_chunks :
    0 < fetchLaunch.iters ∧ 0 < fetchLaunch.n ∧ fetchLaunch.split = false ∧ 0 + 0 * fetchLaunch.n < fetchLaunch.x * fetchLaunch.y * fetchLaunch.z ∧
    fetchLaunch.x * fetchLaunch.y * fetchLaunch.z ≤ 0 + 1 * fetchLaunch.n ∧
    (({ fetchLaunch with split := true, n := 2, x := 3, iters := 4 } : Launch).chunk 1 0).isSome ∧
    (3 * 3 * 4 / 5 < 4 * 3 * 4 / 5 ∧ 4 * 3 * 4 / 5 = 9 ∧ 1 * 4 + 4 < 9 ∧ 2 * 4 + 1 = 9) ∧ 2 * 1 * 1 / 3 ≤ 1 * 1 * 1 / 3 := by decide +kernel

theorem test_witness_SpillAndFill_packing :
    ({ tag := .g, lanes := List.replicate 16 3 } : Reg).lanes.length = 16 ∧
    ({ tag := .u, base := 3, lanes := List.replicate 16 3 } : Reg).tag = .u ∧
    (∀ l ∈ List.range 16, ({ tag := .u, base := 3, lanes := List.replicate 16 3 } : Reg).lanes.getD l 0 = 3) ∧
    (∀ l ∈ List.range 16, ({ tag := .a, base := 3, stride := 2, lanes := (List.range 16).map (fun l => BitVec.ofNat 32 (3 + 2 * l)) } : Reg).lanes.getD l 0
      = 3 + 2 * BitVec.ofNat 32 l) := by decide +kernel

/-! ### Hypotheses of single clauses: translations that a store does not change, channels, turns of a clock -/

theorem pteReady_mem (s : State) (mem : List Host.Cell) (a i : Nat) :
    ({ s with mem := mem } : State).pteReady a i = s.pteReady a i := rfl
theorem spaceOf_mem (s : State) (mem : List Host.Cell) (link t pa rights : Nat) :
    ({ s with mem := mem } : State).spaceOf link t pa rights = s.spaceOf link t pa rights := rfl

/-- Addresses below 2 GiB of the small machine's space are translated by two entries, so what lies elsewhere changes nothing. -/
theorem fixed_low {s : State} {sp : VSpace} {vas : List Nat} {ls : List Loc} (root : s.rootOf sp.asid = some 0x10000)
    (e0 : s.pte 0x10000 0 = 0x18003) (e1 : s.pte 0x18000 0 = 0x39) (low : ∀ va ∈ vas, va < 2 ^ 31)
    (out : ∀ p ∈ ls, p.space = .phys → ¬(0x10000 ≤ p.addr ∧ p.addr < 0x18008)) : s.Fixed sp vas ls := by
  intro mem h va hva
  have hv := low va hva
  have read : ∀ a, 0x10000 ≤ a → a < 0x18008 → cellRead mem a = cellRead s.mem a := fun a ha hb =>
    h a (fun hin => out _ hin rfl ⟨ha, hb⟩)
  have le8 : ∀ a, 0x10000 ≤ a → a + 8 ≤ 0x18008 → cellLe mem a 8 = cellLe s.mem a 8 := fun a ha hb => by
    refine congrArg leNat (List.map_congr_left (fun i hi => ?_))
    have := List.mem_range.mp hi
    exact read _ (by omega) (by omega)
  have p0 : ({ s with mem := mem } : State).pte 0x10000 0 = 0x18003 := (le8 0x10000 (by omega) (by omega)).trans e0
  have p1 : ({ s with mem := mem } : State).pte 0x18000 0 = 0x39 := (le8 0x18000 (by omega) (by omega)).trans e1
  have b0 : bits va 43 12 = 0 := by simp only [bits]; omega
  have b1 : bits va 31 12 = 0 := by simp only [bits]; omega
  have a0 : pteAddr 0x18003 = 0x18000 := by decide
  have root' : ({ s with mem := mem } : State).rootOf sp.asid = some 0x10000 := root
  have l1 : bit 0x39 1 = false := by decide
  unfold State.xlate State.walk
  rw [root, root']
  simp only [b0, b1, p0, e0, a0, p1, e1, l1, pteReady_mem, spaceOf_mem, Bool.false_eq_true, if_false]

def memStore : EngOp := .mst 0 0x8000 256 (.std 5) 0 []
/-- Row r lies 256 bytes after row r - 1, at address 0x8000 of memory on. -/
def memRow (r : Nat) : List Loc := (List.range (8 * ElemFmt.width (.std 5))).map (fun i => { space := .phys, addr := 0x8000 + r * 256 + i })

/-- An MST to memory, none of whose rows lies in a page table; and one to scratchpad (R271, R273). -/
theorem test_witness_MatrixResults_store :
    AtEntry (opState memStore) (fun m l e => e.replay = none ∧ e.op = memStore ∧ e.row = 0 ∧ l.queue = (fetched 4 1).queue ∧
      ((opState memStore).shareOf u0 (e.core - m.core)).tilePoison = [] ∧ (opState memStore).moveReady l e = true ∧
      (∀ r ∈ List.range 64, ((opState memStore).epRow l e.core 0x8000 (r * 256) (8 * ElemFmt.width (.std 5)) 2).toOption = some (memRow r)) ∧
      ∀ p ∈ ((List.range 64).map memRow).flatten, p.space = .phys) ∧
    (opState memStore).Fixed ((opState memStore).spaceOfVdev (vkeyOfQ (fetched 4 1).queue))
      ((List.range 64).flatMap (fun r => (List.range (8 * ElemFmt.width (.std 5))).map (fun i => ((0x8000 : Dword).toNat + r * 256 + i) % 2 ^ 64)))
      ((List.range 64).map memRow).flatten ∧
    AtEntry (opState storeOp) (fun m l e => e.replay = none ∧ e.op = storeOp ∧ e.row = 0 ∧ isScratchEp 0xFF00000000000000 = true ∧
      ((opState storeOp).shareOf u0 (e.core - m.core)).tilePoison = [] ∧ (opState storeOp).moveReady l e = true ∧
      ∀ r ∈ List.range 64, ((opState storeOp).epRow l e.core 0xFF00000000000000 (r * 256) (8 * ElemFmt.width (.std 0)) 2).toOption.isSome = true) :=
  ⟨atEntry (by decide +kernel), fixed_low (by decide +kernel) (by decide +kernel) (by decide +kernel) (by decide +kernel) (by decide +kernel),
    atEntry (by decide +kernel)⟩

/-- The launch's child queue is mapped with `w` packets in its ring of 64. -/
def sRing (w : Nat) (k : Mask) : State := { sChild.but (fun g => { g with ks := [{}, { mask := k }] }) with
  queues := [{ key := { k0 with idx := 1 }, ringBase := 0x20000, ringSize := 64, state := 3, slot := some 0 }]
  vdevs := sChild.vdevs.map (fun v => { v with qcbTable := 0x30000 }), mem := cellWrites sChild.mem 0x30110 (leBytes w 4) }
def launchX : XF := { d := 1, a := 4, wmode := 1, mask := 1 }
/-- One packet at ring index 1, and WRIDX. -/
def ringVas : List Nat := (List.range 64).map (0x20040 + ·) ++ (List.range 4).map (0x30110 + ·)

def launchO : Op := opX 0x12 0x01 launchX

/-- Room for the packet of one lane; no room for those of three; and no lane (R225). -/
theorem test_witness_SystemInstructions_launch :
    Ran launchO (planLaunch launchX) (sRing 1 1) ∧ Ran launchO (planLaunch launchX) (sRing 62 7) ∧
    Ran launchO (planLaunch launchX) (sRing 1 0) ∧ (launchO.issuer (sRing 1 0)).map (fun c => lanesOf c.n (c.exec 1)) = some [] :=
  ⟨ran (by decide +kernel), ran (by decide +kernel), ran (by decide +kernel), by decide +kernel⟩

theorem test_witness_SystemInstructions_room :
    (launchO.issuer (sRing 1 1)).map (fun c =>
      let s0 := c.start launchO (sRing 1 1)
      let k : QueueKey := { c.launch.queue with idx := c.launch.childQ }
      let n := (lanesOf c.n (c.exec launchX.mask.toNat)).length
      let sp := (s0.qcbAt k).1
      let index := (s0.qcbAt k).2 + 0x10
      let w : Word := BitVec.ofNat 32 (s0.vle sp index 4)
      let slot := fun (i : Nat) => (s0.queue k).slotAddr (w + BitVec.ofNat 32 i)
      (n, decide (n + (w - (s0.queue k).rdIdx).toNat ≤ (s0.queue k).ringSize),
        (List.range n).flatMap (fun i => (List.range 64).map (slot i + ·)) ++ (List.range 4).map (index + ·),
        (List.range n).flatMap (fun i => s0.vlocs sp (slot i) 64) ++ s0.vlocs sp index 4))
      = some (1, true, ringVas, ringVas.map (fun a => { space := .phys, addr := a })) := by decide +kernel

theorem test_witness_SystemInstructions_tables :
    ∀ c ∈ launchO.issuer (sRing 1 1), (c.start launchO (sRing 1 1)).rootOf 0 = some 0x10000 ∧
      (c.start launchO (sRing 1 1)).pte 0x10000 0 = 0x18003 ∧ (c.start launchO (sRing 1 1)).pte 0x18000 0 = 0x39 := by decide +kernel

theorem test_witness_SystemInstructions_fixed (c : Ctx) (hc : c ∈ launchO.issuer (sRing 1 1)) :
    (c.start launchO (sRing 1 1)).Fixed {} ringVas (ringVas.map (fun a => { space := .phys, addr := a })) := by
  obtain ⟨h1, h2, h3⟩ := test_witness_SystemInstructions_tables c hc
  exact fixed_low h1 h2 h3 (by decide +kernel) (by decide +kernel)

/-- With every channel ready nothing waits (R347). -/
theorem keyReady_all {s : State} (h : s.ready.chan = BitVec.allOnes 192) (key : Nat) : s.keyReady key = true := by
  have : chanOf key < 192 := Nat.mod_lt _ (by decide)
  rw [State.keyReady, h, BitVec.getLsbD_allOnes]
  simp [this]
theorem spaceOf_ne_wait (s : State) (link t pa rights : Nat) : s.spaceOf link t pa rights ≠ .error .wait := by
  intro e
  unfold State.spaceOf State.cxlOf at e
  repeat' split at e
  all_goals first | cases e | (simp at e; repeat' split at e) <;> simp at e
theorem xlate_ne_wait {s : State} (h : s.ready.chan = BitVec.allOnes 192) (sp : VSpace) (va : Nat) : s.xlate sp va ≠ .error .wait := by
  have k : ∀ t i, s.pteReady t i = true := fun t i => keyReady_all h _
  intro e
  unfold State.xlate at e
  split at e
  · cases e
  split at e
  · cases e
  unfold State.walk at e
  simp only [k, Bool.not_true, Bool.false_eq_true, if_false] at e
  repeat' split at e
  all_goals first | cases e | exact spaceOf_ne_wait _ _ _ _ _ e
theorem vready_all {s : State} (h : s.ready.chan = BitVec.allOnes 192) (sp : VSpace) (va n : Nat) : s.vready sp va n = true := by
  refine List.all_eq_true.mpr (fun i _ => ?_)
  have w := xlate_ne_wait h sp (va + i)
  split
  · exact keyReady_all h _
  · next e => exact absurd e w
  · rfl

theorem test_witness_MailboxCommands_channels (n : Nat) :
    s16.running.vready {} 0x5000 (max 32 n) = true ∧ (unready s16.running).vready {} 0x5000 (max 32 n) = false ∧ Takes (unready s16.running) f0 := by
  refine ⟨vready_all (by decide +kernel) _ _ _, ?_, takes (by decide +kernel)⟩
  refine List.all_eq_false.mpr ⟨0, List.mem_range.mpr (by omega), ?_⟩
  decide +kernel

theorem test_witness_CommandsThatEndLater_images (image : Dword) :
    (sReload 7 true true).imageReady image = true ∧ (unready (sReload 7 true true)).imageReady 0x40000 = false := by
  refine ⟨List.all_eq_true.mpr (fun i _ => keyReady_all (by decide +kernel) _), ?_⟩
  refine List.all_eq_false.mpr ⟨0, List.mem_range.mpr (by omega), ?_⟩
  decide +kernel

/-- A walk waits for the channel of an entry. -/
def isWait (x : Except XErr Xlat) : Bool := match x with
  | .error .wait => true
  | _ => false

/-- The same starved partition, in a district with a record. -/
def sStarveRec : State := { sStarve false with districts := modAt (sStarve false).districts 0 (fun d => { d with record := some 0x70000 }) }

theorem test_witness_SquaresAndStarvation_record :
    sStarveRec.ready.trip = false ∧ (∃ m ∈ sStarveRec.team? u0, m.saved = false ∧ ∃ q ∈ m.cur.parts[0]?, 2 ^ 16 ≤ q.starve ∧ q.starved = false ∧
      (sStarveRec.districts[m.district]?).bind (·.record) = some 0x70000) ∧
    sStarveRec.pready ((0x70000 : Dword).toNat + 0x18) 8 = true := by decide +kernel

/-- A held release of a leader whose team is to be rolled back, and one in a team that is camping. -/
theorem test_witness_HeldInstructions_ropes :
    AtGroup (((sRope 3).but (fun g => { g with hold := some (.release .fence {}) })).tm (fun m => { m with rollDue := true })) r0 (fun m g =>
      g.hold = some (.release .fence {}) ∧ (if g.rope.isSome then m.rollsBack else m.camping) = true ∧ g.quiet = true) ∧
    AtGroup (((sRope 3).but (fun g => { g with hold := some (.release .fence {}) })).tm (fun m => { m with campDue := some .received })) r0 (fun m g =>
      g.hold = some (.release .fence {}) ∧ (if g.rope.isSome then m.rollsBack else m.camping) = false ∧ g.quiet = true) :=
  ⟨atGroup (by decide +kernel), atGroup (by decide +kernel)⟩

/-- A second group waits for a translation while the first must still issue in its clock. -/
def r1 : GroupRef := { r0 with grp := 1 }
def sSecond (h : Hold) : State := sTwo.modGroup r1 (fun g => { g with
  state := .holding, slot := some 1, prompt := false, hold := some h, replay := some (wait0 false), ld := [{ seq := 0, pc := 0x1000, delivers := [] }], nextSeq := 1 })

theorem test_witness_TranslationsAndLinks_turns :
    AtGroup (sXlate false).later r0 (fun _ _ => (sXlate false).later.faultTurn r0 = true) ∧
    AtGroup (sSecond .xlate) r1 (fun _ g => g.hold = some .xlate ∧ ((sSecond .xlate).ctxAt r1).isSome ∧ g.replay = some (wait0 false) ∧
      (sSecond .xlate).faultTurn r1 = false ∧ g.state ≠ .faulted) ∧
    AtGroup (sLink 1000000) r0 (fun _ _ => (sLink 1000000).faultTurn r0 = true) ∧
    AtGroup (sSecond (.link 0 0x80000000 1 0)) r1 (fun _ g => g.hold = some (.link 0 0x80000000 1 0) ∧ ((sSecond (.link 0 0x80000000 1 0)).ctxAt r1).isSome ∧
      (sSecond (.link 0 0x80000000 1 0)).faultTurn r1 = false ∧ g.state ≠ .faulted) ∧
    AtCopy (unready (sCp { aCopy with replay := some (wait0 true) })) (fun _ _ k => ∃ w ∈ k.replay, w.rewalk = true ∧
      ((unready (sCp { aCopy with replay := some (wait0 true) })).xlate ((unready (sCp aCopy)).launchSpace u0.launch) w.va.toNat |> isWait) = true) ∧
    AtCopy (sCp { aCopy with replay := some (wait0 true) }) (fun _ _ k => ∃ w ∈ k.replay, w.rewalk = true ∧
      ((sCp { aCopy with replay := some (wait0 true) }).xlate ((sCp aCopy).launchSpace u0.launch) w.va.toNat |> isWait) = false) ∧
    AtCopy ({ (sCp farCopy).farPage with hostClk := 1000000 } : State) (fun m l k =>
      (({ (sCp farCopy).farPage with hostClk := 1000000 } : State).unitReady l (m.copyCore k) k) = true) ∧
    AtCopy (unready (sCp { aCopy with started := true })) (fun m l k => k.started = true ∧
      (unready (sCp { aCopy with started := true })).unitReady l (m.copyCore k) k = false) ∧
    AtEntry (sFar farLoad 1000000) (fun _ l e => e.replay = none ∧ e.op = .mld 0 0x80000000 256 (.std 0) ∧ e.row = 0 ∧
      (sFar farLoad 1000000).moveReady l e = true ∧ ((sFar farLoad 1000000).engineFar l e).isSome = true ∧
      ∃ ls ∈ ((sFar farLoad 1000000).epRow l e.core 0x80000000 (e.row * 256) 32 1).toOption, (ls[0]?).any Loc.remote = true) :=
  ⟨atGroup (by decide +kernel), atGroup (by decide +kernel), atGroup (by decide +kernel), atGroup (by decide +kernel), atCopy (by decide +kernel),
    atCopy (by decide +kernel), atCopy (by decide +kernel), atCopy (by decide +kernel), atEntry (by decide +kernel)⟩

/-- A camp is due of a team that is to be rolled back; one that must come first; and one that a rope's full log holds up. -/
def sRoll (c : CampReason) : State := s16.tm (fun m => { m with campDue := some c, rollDue := true })
def sRopeDue : State := (sRopeLog false).tm (fun m => { m with campDue := some .periodic })

theorem test_witness_CampsAndRetirement_order :
    (∃ m ∈ (sRoll .periodic).team? u0, m.saved = false ∧ m.rollDue = true ∧ m.campBlocks = false) ∧
    (∃ m ∈ (sRoll .received).team? u0, m.saved = false ∧ m.campDue.isSome = true ∧ m.campBlocks = true ∧
      (∀ v ∈ (sRoll .received).teams, ¬(v.core / 2 = m.core / 2 ∧ (sRoll .received).ropeLogDue v = true)) ∧
      ∀ q ∈ m.cur.parts, ∀ g ∈ q.groups, g.ld = [] ∧ g.st = [] ∧ g.tl = [] ∧ g.rope = none ∧ g.hold ≠ some .xlate) ∧
    (∃ m ∈ sRopeDue.team? u0, m.saved = false ∧ ∃ v ∈ sRopeDue.teams, v.core / 2 = m.core / 2 ∧ sRopeDue.ropeLogDue v = true) ∧
    (∃ m ∈ sDue.team? u0, m.rollDue = false ∧ ∀ v ∈ sDue.teams, ¬(v.core / 2 = m.core / 2 ∧ sDue.ropeLogDue v = true)) ∧
    (∃ m ∈ (sRopeLog true).team? u0, m.logWaits = true ∧ ∀ e ∈ m.ropes, e.2.pinned = true → (sRopeLog true).faultTurn e.1 = true) := by
  refine ⟨?_, ?_, ?_, ?_, ?_⟩ <;> decide +kernel

/-- A multicast to core 1 of no bytes, from a team on core 0 (R135, R252). -/
def zeroCopy : XF := { a := 0xA2, b := 0xA4, c := 0xA8, f := 0x04, mask := 5 }
def zeroOp : Op := { opX 0x0C 0x00 zeroCopy with x := { zeroCopy with mask := 0 } }
def sZero : State := s16.but (fun g => { g with regs := [(0xA3, uni 0xFF000000), (0xA4, uni 0x4000), (0xAA, uni 2)] })

theorem test_witness_CopiesAtIssue_none :
    Ran zeroOp (planBcopy zeroCopy { zeroCopy with mask := 0 }) sZero ∧
    (zeroOp.issuer sZero).map (fun c =>
      let k := ({ id := 0, seq := 0, pc := c.pc, func := 0, f := zeroCopy.f, part := c.ref.part, grp := c.ref.grp, sync := none
                  dst := c.read64 0xA2 0 0 0, src := c.read64 0xA4 0 0 0, bytes := (c.opC { zeroCopy with mask := 0 } 0).toNat, lit := 0
                  set := c.read64 0xAA 0 0 0, idx := [] } : Copy)
      (k.total, (c.start zeroOp sZero).copyOutbound c.launch c.team k)) = some (0, true) :=
  ⟨ran (by decide +kernel), by decide +kernel⟩

/-- A halt that takes effect, and one that waits for a held instruction; the ring of the debug right. -/
def sHaltDue (h : Option Hold) : State := (sDbg (s16.but (fun g => { g with hold := h }))).tm (fun m => { m with haltDue := true })

theorem test_witness_Debugging_halt :
    (∃ m ∈ (sHaltDue none).team? u0, m.saved = false ∧ m.haltDue = true ∧ m.haltReady = true ∧ ((sHaltDue none).group? m.haltGroup).isSome = true) ∧
    (∃ m ∈ (sHaltDue (some (.release .fence {}))).team? u0, m.saved = false ∧ m.haltDue = true ∧ m.haltReady = false) ∧
    s16.running.pready (0x20000 : Dword).toNat 64 = true ∧
    (∃ d ∈ (sHaltDue none).right? 1, cellLe (sHaltDue none).mem d.ring.toNat 8 - cellLe (sHaltDue none).mem (d.ring.toNat + 8) 8 < d.size ∧
      (sHaltDue none).pready d.ring.toNat 24 = true ∧
      (sHaltDue none).pready (d.ring.toNat + 64 + 64 * (cellLe (sHaltDue none).mem d.ring.toNat 8 % d.size)) 64 = true) := by
  refine ⟨?_, ?_, ?_, ?_⟩ <;> decide +kernel

/-- A quota of a district with a placed team, and one that the quotas in force leave room for. -/
theorem test_witness_MailboxCommands_quotas :
    Takes s16.running f0 ∧ (s16.running.teams.any (fun m => m.district == 0 && !m.saved)) = true ∧ 0 < s16.running.districts.length ∧
    Takes { s16.running with teams := [] } f0 ∧ ({ s16.running with teams := [] } : State).teams.any (fun m => m.district == 0 && !m.saved) = false ∧
    quotaOk Quota.full (((List.range 8).filter (· != 0)).map ({ s16.running with teams := [] } : State).quota) = true := by
  refine ⟨takes ?_, ?_, ?_, takes ?_, ?_, ?_⟩ <;> decide +kernel

/-- The control block's channel is ready or not; a FENCE in progress that WRIDX covers, and one that it does not. -/
theorem test_witness_Kicks_channels :
    (sQu q0 []).qcbReady k0 = true ∧ (unready (sQu q0 [])).qcbReady k0 = false ∧ ((unready (sQu q0 [])).vdev? (vkeyOfQ k0)).isSome = true ∧
    (({ q0 with pkind := 2, wrIdx := 1 } : Queue).pkind = 2 ∧ ({ q0 with pkind := 2, wrIdx := 1 } : Queue).backlog < 1 + condPackets 1) ∧
    1 + condPackets 1 ≤ ({ q0 with pkind := 2 } : Queue).backlog := by
  refine ⟨?_, ?_, ?_, ?_, ?_⟩ <;> decide +kernel

/-- Every channel but that of an address. -/
def without (s : State) (pa : Nat) : State := { s with ready := { s.ready with chan := s.ready.chan &&& ~~~(1#192 <<< chanOf pa) } }
def sMark : State := let s := sQu q0 [(0, 1, 6)]
  { s with mem := put s.mem 0x70000 [(0, 8, 0x71000), (8, 4, 16)], districts := modAt s.districts 0 (fun d => { d with record := some 0x70000 }) }

theorem test_witness_QueuePackets_channels :
    Head (without (sQu q0 []) 0x30000) 0 (fun q _ => (q.past 1).backlog ≤ 16 ∧ (without (sQu q0 []) 0x30000).qcbReady k0 = false) ∧
    Head (sQu q0 []) 0 (fun q _ => (q.past 1).backlog ≤ 16 ∧ (sQu q0 []).qcbReady k0 = true) ∧
    Head (without (sFence 0) 0x9000) 2 (fun q _ => 2 ≤ q.backlog ∧ (without (sFence 0) 0x9000).fenceReady { q with pkIdx := q.rdIdx, condMask := 0, pkind := 2 } = false) ∧
    Head (sFence 0) 2 (fun q _ => (sFence 0).fenceReady { q with pkIdx := q.rdIdx, condMask := 0, pkind := 2 } = true) ∧
    Head sMark 6 (fun _ p => waitPrev p = false ∧ (sMark.ownQueue k0).state = 3 ∧ (sMark.districts[0]?).bind (·.record) = some 0x70000 ∧
      sMark.pready (0x70000 : Dword).toNat 24 = true ∧
      sMark.pready (cellLe sMark.mem 0x70000 8 + 32 * (cellLe sMark.mem (0x70000 + 16) 8 % cellLe sMark.mem (0x70000 + 8) 4)) 32 = true) ∧
    Head (sQu q0 [(0, 1, 4), (1, 1, 0xC), (8, 8, 0x9000), (16, 8, 5)]) 4 (fun _ _ =>
      ((sQu q0 [(0, 1, 4), (1, 1, 0xC), (8, 8, 0x9000), (16, 8, 5)]).ownQueue k0).state = 3) ∧
    (∃ c ∈ sHub.hubCopies.find? (fun x => x.queue = k0), sHub.copyReady c = true ∧ (unready sHub).copyReady c = false) ∧
    ((sQu { q0 with waiting := true } []).headReady { q0 with waiting := true } = true ∧
      (unready (sQu { q0 with waiting := true } [])).headReady { q0 with waiting := true } = false) ∧
    (let s := { sFence 0 with queues := [{ q0 with pkind := 2 }] }
     s.fwUp = true ∧ s.served 0 = true ∧ (s.ownQueue k0).pkind = 2 ∧ s.fenceReady (s.ownQueue k0) = true ∧ (without s 0x9000).fenceReady (s.ownQueue k0) = false) :=
  ⟨atHead (by decide +kernel), atHead (by decide +kernel), atHead (by decide +kernel), atHead (by decide +kernel), atHead (by decide +kernel),
    atHead (by decide +kernel), by decide +kernel, by decide +kernel, by decide +kernel⟩

/-- An arm that has ended with packets of the other to skip; a PRED whose word does not hold and that has no ELSE packet. -/
theorem test_witness_QueuePackets_arms :
    (({ q0 with pkind := 3, skipLeft := 2 } : Queue).skip.rdIdx = 2 ∧ ({ q0 with pkind := 3, skipLeft := 2 } : Queue).skip.pkind = 0) ∧
    (({ q0 with pkind := 3, skipLeft := 9 } : Queue).skip.rdIdx = 4 ∧ ({ q0 with pkind := 3, skipLeft := 9 } : Queue).skip.skipLeft = 5) ∧
    ({ q0 with pkind := 3, armLeft := 2, skipNow := 1 } : Queue).skip.rdIdx = 1 ∧ ({ q0 with pkind := 3, armLeft := 2 } : Queue).past 1 =
      { q0 with rdIdx := 1, pkind := 3, armLeft := 1 } := by
  refine ⟨?_, ?_, ?_, ?_⟩ <;> decide +kernel

def sStart : State := let s := sPhase .admitted false
  { s with launches := s.launches.map (fun l => { l with args := 0x9000, argLen := 8 }) }

/-- A start, a resumption and the end of a slice whose channels are ready; and without those channels. -/
theorem test_witness_LaunchLifecycle_channels :
    (∃ l ∈ sStart.rechoose.choose.find? (fun x => x.num == 1), sStart.rechoose.startReady l = true ∧ (sStart.rechoose.launch? 1).isSome = true) ∧
    (∃ l ∈ (without sStart 0x9000).rechoose.choose.find? (fun x => x.num == 1), (without sStart 0x9000).rechoose.startReady l = false) ∧
    (∀ l, (sPhase .saved true).rechoose.startReady l = true) ∧
    ({ sQu q0 [] with hostClk := 1000000 } : State).sliceReady 0 = true ∧ (unready (sQu q0 [])).sliceReady 0 = false := by
  refine ⟨?_, ?_, fun l => ?_, ?_, ?_⟩
  · decide +kernel
  · decide +kernel
  · have h : (sPhase .saved true).rechoose.ready.chan = BitVec.allOnes 192 := by decide +kernel
    unfold State.startReady
    split
    · exact vready_all h _ _ _
    · exact List.all_eq_true.mpr (fun _ _ => vready_all h _ _ _)
  · decide +kernel
  · decide +kernel

theorem test_witness_DeviceEvents_power : s16.running.fwUp = true ∧ s16.fwUp = false ∧ s16.running.freq.length = 8 ∧ [0, 3].Nodup := by decide +kernel

/-- The group's XFER is next, and that of the other group of its partition is a TRAP in the same clock. -/
def sBoth : State :=
  let s := { sTwo with mem := cellWrites (cellWrites sTwo.mem 0x1000 (leBytes 0x29010500 4)) 0x1100 (leBytes 0 4), agenda := [.issue r0] }
  s.modGroup r1 (fun g => { g with state := .holding, slot := some 1, prompt := true, readyAt := 0, paths := [{ pc := 0x1100, mask := 0xFFFF }] })

theorem test_witness_StepRunsDecodedInstruction_found :
    sBoth.issues r0 = true ∧ (sBoth.found r0).map (·.1) = [r1] ∧ ((sBoth.begins r0).group? r1).map (·.state) = some .faulted ∧
    (∃ c ∈ ctxOf (sStep.begins r0), instrLen 0x01030102 = 1 ∧ ((sStep.begins r0).fetchWord c.launch c.pc.toNat).toOption = some 0x01030102 ∧
      (sStep.begins r0).wordReady c.launch c.pc.toNat = true ∧ ((unready sStep).begins r0).wordReady c.launch c.pc.toNat = false) := by
  refine ⟨?_, ?_, ?_, ?_⟩ <;> decide +kernel

/-! ## Single steps, with results from the spec's tables and worked examples or worked out by hand from its rules -/

/-- The small machine with a word in every lane of some v registers, and in some s registers. -/
def sV (rs : List (Nat × Word)) (f : Group → Group := id) : State := s16.but (fun g => f { g with
  regs := rs.map (fun e => (e.1, if e.1 < 0x80 then { tag := .g, base := 0, lanes := List.replicate 16 e.2 } else uni e.2)) })

/-- The group after an instruction, and a word of one of its registers. -/
def after (i : Instr) (s : State) : Option Group := match exec i s with
  | .next t => t.group? r0
  | _ => none
def outAt (i : Instr) (s : State) (code : Byte) (l : Nat := 0) : Option Word :=
  (after i s).map (fun g => (g.regAt code).at_ (clsOf code) l)
def state1 (i : Instr) (s : State) : Option State := match exec i s with
  | .next t => some t
  | _ => none
/-- An instruction takes a fault: the group is FAULTED (R361). -/
def faults (i : Instr) (s : State) : Bool := (after i s).map (·.state) == some .faulted

/-- What a group's outstanding loads will deliver to a lane. -/
def loaded (l : Nat) (g : Group) : List Word := (g.ld.flatMap (·.delivers)).map (fun d => match d with
  | .lanes _ vals => ((vals.map (·.2.1))[l]?).getD 0
  | .whole _ r => r.base
  | .helper _ _ => 0)

/-- Integer functions of Table 8.2: wrapping, signed and unsigned order, saturation, shifts past the width, carries. -/
theorem test_int_functions :
    outAt (.iadd 3 1 2) (sV [(1, 0xFFFFFFFF), (2, 2)]) 3 = some 1 ∧
    outAt (.isub 3 1 2) (sV [(1, 1), (2, 2)]) 3 = some 0xFFFFFFFF ∧
    outAt (.iaddX { d := 3, a := 1, b := 2, wmode := 1, f := 0x10 }) (sV [(1, 0x7FFFFFFF), (2, 1)]) 3 = some 0x7FFFFFFF ∧
    outAt (.iaddX { d := 3, a := 1, b := 2, wmode := 1, type := 3 }) (sV [(1, 0x00FF00FF), (2, 0x00010001)]) 3 = some 0 ∧
    outAt (.iaddc { d := 3, a := 1, b := 2, c := 4, wmode := 1 }) (sV [(1, 0xFFFFFFFF), (2, 0), (4, 1)]) 3 = some 1 ∧
    outAt (.isubb { d := 3, a := 1, b := 2, c := 4, wmode := 1 }) (sV [(1, 1), (2, 1), (4, 1)]) 3 = some 1 ∧
    outAt (.imulhS { d := 3, a := 1, b := 2, wmode := 1 }) (sV [(1, 0xFFFFFFFF), (2, 2)]) 3 = some 0xFFFFFFFF ∧
    outAt (.imulhU { d := 3, a := 1, b := 2, wmode := 1 }) (sV [(1, 0xFFFFFFFF), (2, 2)]) 3 = some 1 ∧
    outAt (.imad 3 1 2) (sV [(1, 3), (2, 4), (3, 5)]) 3 = some 17 ∧
    outAt (.imin 3 1 2) (sV [(1, 0xFFFFFFFF), (2, 2)]) 3 = some 0xFFFFFFFF ∧
    outAt (.imax 3 1 2) (sV [(1, 0xFFFFFFFF), (2, 2)]) 3 = some 2 ∧
    outAt (.iabs { d := 3, a := 1, wmode := 1 }) (sV [(1, 0x80000000)]) 3 = some 0x80000000 ∧
    outAt (.shl 3 1 2) (sV [(1, 1), (2, 32)]) 3 = some 0 ∧
    outAt (.sar 3 1 2) (sV [(1, 0x80000000), (2, 40)]) 3 = some 0xFFFFFFFF ∧
    outAt (.sari 3 1 4) (sV [(1, 0x80000000)]) 3 = some 0xF8000000 ∧
    outAt (.iaddi 3 1 0xFC) (sV [(1, 1)]) 3 = some 0xFFFFFFFD := by
  refine ⟨?_, ?_, ?_, ?_, ?_, ?_, ?_, ?_, ?_, ?_, ?_, ?_, ?_, ?_, ?_, ?_⟩ <;> decide +kernel

/-- Whole-word functions of Table 8.2. -/
theorem test_word_functions :
    outAt (.andn { d := 3, a := 1, b := 2, wmode := 1 }) (sV [(1, 0xFF), (2, 0x0F)]) 3 = some 0xF0 ∧
    outAt (.rotl { d := 3, a := 1, b := 2, wmode := 1 }) (sV [(1, 0x80000001), (2, 33)]) 3 = some 3 ∧
    outAt (.popc { d := 3, a := 1, wmode := 1 }) (sV [(1, 0xF00F)]) 3 = some 8 ∧
    outAt (.clz { d := 3, a := 1, wmode := 1 }) (sV [(1, 0)]) 3 = some 32 ∧
    outAt (.ctz { d := 3, a := 1, wmode := 1 }) (sV [(1, 8)]) 3 = some 3 ∧
    outAt (.brev { d := 3, a := 1, wmode := 1 }) (sV [(1, 1)]) 3 = some 0x80000000 ∧
    outAt (.isel { d := 3, a := 1, b := 2, c := 4, wmode := 1 }) (sV [(1, 5), (2, 6), (4, 0)]) 3 = some 6 ∧
    outAt (.lea { d := 3, a := 1, b := 2, c := 4, wmode := 1 }) (sV [(1, 100), (2, 3), (4, 2)]) 3 = some 112 ∧
    outAt (.movi 0xA2 1000) s16 0xA2 = some 1000 ∧
    outAt (.movi 0xA2 0x8000) s16 0xA2 = some 0xFFFF8000 ∧
    outAt (.movBl 0x06 0x12345678) s16 6 = some 0x12345678 ∧
    outAt (.mov 3 1) (sV [(1, 9)]) 3 = some 9 ∧ outAt (.mov 0xFF 1) (sV [(1, 9)]) 0xFF = some 0 := by
  refine ⟨?_, ?_, ?_, ?_, ?_, ?_, ?_, ?_, ?_, ?_, ?_, ?_, ?_⟩ <;> decide +kernel

/-- A 64-bit IADD carries from the low register of a pair into the high one (R65). -/
theorem test_iadd_wide :
    outAt (.iaddX { d := 4, a := 0xA2, b := 0xA4, wmode := 1, type := 5 }) (sV [(0xA2, 0xFFFFFFFF), (0xA3, 0), (0xA4, 1), (0xA5, 0)]) 5 = some 1 := by
  decide +kernel

/-- Zero mode clears the path's lanes that do not execute, merge keeps them (R162); lanes 1 and up are masked out by k1. -/
theorem test_write_modes :
    let s := sV [(1, 7), (2, 1), (3, 9)] (fun g => { g with ks := [{}, { mask := 1 }] })
    outAt (.iaddX { d := 3, a := 1, b := 2, wmode := 1, mask := 1 }) s 3 0 = some 8 ∧
    outAt (.iaddX { d := 3, a := 1, b := 2, wmode := 1, mask := 1 }) s 3 1 = some 9 ∧
    outAt (.iaddX { d := 3, a := 1, b := 2, wmode := 2, mask := 1 }) s 3 1 = some 0 := by
  refine ⟨?_, ?_, ?_⟩ <;> decide +kernel

/-- Floating point in FP32: 1 + 2^-24 is a tie to even and inexact; rounding upward and toward zero differ; -0, infinities
and NaN follow R99; the sticky flags of R86 are set. -/
theorem test_flt_functions :
    outAt (.fadd 3 1 2) (sV [(1, 0x3F800000), (2, 0x33800000)]) 3 = some 0x3F800000 ∧
    outAt (.faddX { d := 3, a := 1, b := 2, wmode := 1, round := 2 }) (sV [(1, 0x3F800000), (2, 0x33800000)]) 3 = some 0x3F800000 ∧
    outAt (.faddX { d := 3, a := 1, b := 2, wmode := 1, round := 3 }) (sV [(1, 0x3F800000), (2, 0x33800000)]) 3 = some 0x3F800001 ∧
    outAt (.fsub 3 1 2) (sV [(1, 0x7F800000), (2, 0x7F800000)]) 3 = some 0x7FC00000 ∧
    outAt (.fmul 3 1 2) (sV [(1, 0x40400000), (2, 0xC0000000)]) 3 = some 0xC0C00000 ∧
    outAt (.ffma 3 1 2) (sV [(1, 0x40400000), (2, 0x40000000), (3, 0x3F800000)]) 3 = some 0x40E00000 ∧
    outAt (.hadd2 3 1 2) (sV [(1, 0x3C003C00), (2, 0x3C004000)]) 3 = some 0x40004200 ∧
    outAt (.fdiv { d := 3, a := 1, b := 2, wmode := 1 }) (sV [(1, 0x3F800000), (2, 0)]) 3 = some 0x7F800000 ∧
    outAt (.fsqrt { d := 3, a := 1, wmode := 1 }) (sV [(1, 0x40800000)]) 3 = some 0x40000000 ∧
    outAt (.sfu 3 1 3) (sV [(1, 0x40400000)]) 3 = some 0x41000000 ∧
    outAt (.flog2 { d := 3, a := 1, wmode := 1 }) (sV [(1, 0x41000000)]) 3 = some 0x40400000 ∧
    outAt (.fcmp { d := 3, a := 1, b := 2, wmode := 1, f := 0 }) (sV [(1, 0), (2, 0x80000000)]) 3 = some 0xFFFFFFFF := by
  refine ⟨?_, ?_, ?_, ?_, ?_, ?_, ?_, ?_, ?_, ?_, ?_, ?_⟩ <;> decide +kernel

/-- CVTN of the example after R191: 2.5 and -0.5 in f2 = 0x000C01A8 give 0x00009048. CVT.UNIT of R106. -/
theorem test_conversions :
    outAt (.cvtn { d := 3, a := 1, b := 2, wmode := 1, f := 0x02 }) (sV [(1, 0x40200000), (2, 0xBF000000)]
      (fun g => { g with fmt := [0, 0, 0x000C01A8] })) 3 = some 0x00009048 ∧
    outAt (.cvt { d := 10, a := 9, wmode := 1, f := 0xB0 }) (sV [(9, 0x9F8598CE)]) 10 = some 0x3F1F8598 := by
  refine ⟨?_, ?_⟩ <;> decide +kernel

/-- Stochastic rounding as in Table 4.10: lane 0 rounds down, lane 1 up. -/
theorem test_stochastic_rounding :
    let i := Instr.cvt { d := 2, a := 1, b := 3, c := 0xA4, wmode := 1, round := 4, f := 0x02 }
    let s := sV [(1, 0x3F804000), (3, 0), (0xA4, 7), (0xA5, 0), (0xA6, 0), (0xA7, 0)]
    (outAt i s 2 0).map (fun w => w.extractLsb' 0 16) = some 0x3F80 ∧ (outAt i s 2 1).map (fun w => w.extractLsb' 0 16) = some 0x3F81 := by
  refine ⟨?_, ?_⟩ <;> decide +kernel

/-- RAND gives the outputs of R105. -/
theorem test_rand_vector :
    let i := Instr.rand { d := 8, a := 0xA2, b := 4, wmode := 1 }
    let s := sV [(0xA2, 7), (0xA3, 0), (4, 0), (5, 0)]
    outAt i s 8 = some 0x0EF00512 ∧ outAt i s 9 = some 0x9F8598CE ∧ outAt i s 10 = some 0xD22B86EA ∧ outAt i s 11 3 = some 0x1C9251A5 := by
  refine ⟨?_, ?_, ?_, ?_⟩ <;> decide +kernel

/-- Lanes 0 to 3 hold 1, 2^-24, 2^-24 and -1; k1 names them (Table 8.9). -/
def sScan : State := s16.but (fun g => { g with ks := [{}, { mask := 0xF }], regs := [(6, { tag := .g, lanes := [0x3F800000, 0x33800000, 0x33800000, 0xBF800000] })] })

/-- SCAN and REDUX of Table 8.9; a lane that the mask leaves out keeps its word. -/
theorem test_scan_table :
    let scan := Instr.scan { d := 7, a := 6, wmode := 1, mask := 1, f := 1 }
    outAt scan sScan 7 0 = some 0x3F800000 ∧ outAt scan sScan 7 1 = some 0x3F800000 ∧ outAt scan sScan 7 2 = some 0x3F800001 ∧
    outAt scan sScan 7 3 = some 0x34000000 ∧ outAt scan sScan 7 4 = some 0 ∧
    outAt (.redux { d := 7, a := 6, wmode := 1, mask := 1, f := 1 }) sScan 7 0 = some 0x34000000 := by
  refine ⟨?_, ?_, ?_, ?_, ?_, ?_⟩ <;> decide +kernel

/-- Other lanes' words: PERM takes lane b mod n, VOTE and MATCH look at all executing lanes. -/
theorem test_cross_lane :
    outAt (.perm { d := 7, a := 6, b := 0xA2, wmode := 1 }) (sScan.but (fun g => { g with regs := g.regs ++ [(0xA2, uni 19)] })) 7 0 = some 0xBF800000 ∧
    outAt (.matchLanes { d := 7, a := 6, wmode := 1 }) sScan 7 2 = some 1 ∧
    outAt (.vote { d := 8, a := 6, wmode := 1, f := 2 }) sScan 8 = some 0xF ∧
    outAt (.idp4 3 1 2) (sV [(1, 0x01FF0203), (2, 0x01010101), (3, 10)]) 3 = some 15 := by
  refine ⟨?_, ?_, ?_, ?_⟩ <;> decide +kernel

/-- The steps of Table 9.3: %lane < 4 in v1, then k1, k2, the two paths of BRD, and the joined path. -/
def sSplit : State := s16.but (fun g => { g with regs := [(1, { tag := .g, lanes := [0xFFFFFFFF, 0xFFFFFFFF, 0xFFFFFFFF, 0xFFFFFFFF] })] })
def sBrd : State := s16.but (fun g => { g with ks := [{}, { mask := 0xF }], paths := [{ pc := 0x24, mask := 0xFFFF }] })
def sJoin2 : State := s16.but (fun g => { g with
  ks := [{}, {}, { mask := 0xFFFF, depth := some 0 }]
  paths := [{ pc := 0x44, mask := 0xFFF0 }, { pc := 0x44, mask := 0xF, join := some { k := 2, succ := 0x21, next := 0x48 } }] })

theorem test_split4_trace :
    outAt (.shli 3 0xC8 2) s16 3 5 = some 20 ∧
    outAt (.icmp { d := 1, a := 0xC8, b := 2, wmode := 1, f := 2 }) (sV [(2, 4)]) 1 3 = some 0xFFFFFFFF ∧
    (after (.kmov { d := 0xE1, a := 1 }) sSplit).map (fun g => kMask g.ks g.width 1) = some 0xF ∧
    (after (.split 2) s16).map (fun g => kMask g.ks g.width 2) = some 0xFFFF ∧
    (after (.brd { a := 0xE1, lit := some 7 }) sBrd).map (fun g => g.paths.map (fun p => (p.pc, p.mask))) = some [(0x40, 0xF), (0x38, 0xFFF0)] ∧
    (after (.join 2 0x21) sJoin2).map (fun g => g.paths) = some [{ pc := 0x48, mask := 0xFFFF }] ∧
    (after .exit s16).map (fun g => (g.state, g.slot)) = some (.exited, none) := by
  refine ⟨?_, ?_, ?_, ?_, ?_, ?_, ?_⟩ <;> decide +kernel

/-- Control: BRA counts words from its own PC; CALL keeps the PC after it and RET goes back; TRAP faults, and
RET with nothing to go back to (R206, R209, R212, R361). -/
theorem test_control :
    (after (.bra 0xFFFFFD) s16).map (fun g => g.paths.map (·.pc)) = some [0xFF4] ∧
    (after (.call 4) s16).map (fun g => (g.paths.map (·.pc), g.stack, g.depth)) = some ([0x1010], [0x1004], 1) ∧
    (after .ret (sDeep 1)).map (fun g => (g.paths.map (·.pc), g.depth)) = some ([0x1000], 0) ∧
    (after (.jmpi { a := 0xA2 }) (sV [(0xA2, 0x2000), (0xA3, 1)])).map (fun g => g.paths.map (·.pc)) = some [0x100002000] ∧
    faults (.trap { f := 5 }) s16 = true ∧ faults .ret s16 = true ∧ faults (.iadd 0xB0 1 2) s16 = false ∧
    (after (.nop {}) s16).map (fun g => g.paths.map (·.pc)) = some [0x100C] := by
  refine ⟨?_, ?_, ?_, ?_, ?_, ?_, ?_, ?_⟩ <;> decide +kernel

/-- The worked example of R38: g0 sends to g3, which HOLDS; its chain leads to g4, which waits, and if g4 were PARKED to g5. -/
def six (g4 : GState) : Part := { groups := [{ state := .ready }, { state := .ready }, { state := .ready },
  { state := .holding, slot := some 1, belay := 4 }, { state := g4, belay := 5 }, { state := .ready }] }

theorem test_belay_chain :
    ((deliver (six .waiting) 3 true 0 100 0).groups[4]?).map (fun g => (g.state, g.slot)) = some (.heldWaiting, some 0) ∧
    ((deliver (six .parked) 3 true 0 100 0).groups[5]?).map (fun g => (g.state, g.slot)) = some (.holding, some 0) := by
  decide +kernel

/-- XFER fills the receiver's first mailbox lane by lane and hands on the baton (R68, R214). -/
theorem test_xfer :
    let s := (small 1 2).but (fun g => { g with regs := [(5, { tag := .g, lanes := [3, 4] })], slot := some 0, state := .holding })
    let t := (s.modGroup { r0 with grp := 1 } (fun g => { g with state := .ready, slot := none }))
    ((state1 (.xfer 1 5 0xFF) t).bind (fun t => t.group? { r0 with grp := 1 })).map (fun g =>
      ((g.reg 0xC0).at_ .m 1, g.m0.full, g.m1.full, g.state, g.slot)) = some (4, true, false, .holding, some 0) := by
  decide +kernel

/-- A load delivers little-endian words, and bytes with their sign (R4, R231); a store waits in the group and is then
performed. -/
theorem test_load_and_store :
    let m := fun (s : State) => { s with mem := cellWrites s.mem 64 [0x80, 1, 2, 3] }
    (after (.ld32 1 4 0x10) (m s16)).map (loaded 0) = some [0x03020180] ∧
    (after (.ld { d := 2, a := 4, wmode := 1, c := 0xFF, b := 0xFF, f := 0x08 }) (m (sV [(4, 64), (5, 0)]))).map (loaded 0) = some [0xFFFFFF80] ∧
    (after (.st32 1 4 0x10) (sV [(1, 0x04030201)])).map (fun g => g.st.length) = some 1 ∧
    (state1 (.storePerformed r0 0) sSt).map (fun t => cellRead t.mem 64) = some 7 := by
  refine ⟨?_, ?_, ?_, ?_⟩ <;> decide +kernel

/-- ATOM.add in sixteen lanes on one word, in lane order (R241, R242): lane 15 finds the fifteen earlier additions. -/
theorem test_atom_add :
    let t := state1 (.atom { d := 1, a := 4, b := 6, wmode := 1, f := 0x30 }) (sV [(4, 64), (5, 0), (6, 3)])
    t.map (fun t => cellLe t.mem 64 4) = some 48 ∧
    (t.bind (fun t => t.group? r0)).map (loaded 15) = some [45] := by
  refine ⟨?_, ?_⟩ <;> decide +kernel

/-- An exact cell holds 1.0 in units of 2^-149, in each of 16 lanes (R101, R243). -/
theorem test_xadd :
    (state1 (.xadd { a := 4, b := 6, f := 0x30 }) (sV [(4, 64), (5, 0), (6, 0x3F800000)])).map (fun t => cellLe t.mem 64 31)
      = some (16 * 2 ^ 149) ∧ Cell.read (Cell.ofNat (16 * 2 ^ 149)) 0 = (0x41800000, 0) := by
  refine ⟨?_, ?_⟩ <;> decide +kernel

/-- A free lock is taken with status 0 and its owner's word (R245); a barrier counts sixteen arrivals of seventeen (R247). -/
theorem test_sync_objects :
    (state1 (.acq { d := 0x21, a := 0xA2, b := 0xFF, c := 0xA8, f := 0x30 }) (sObj { plain with kind := 1 })).map (fun t =>
      (t.objAt 0).owner) = some 0x80000000 ∧
    (state1 (.barrive { d := 0xA8, a := 0xA2, f := 0x30 }) (sObj { plain with kind := 3, expected := 17 })).map (fun t =>
      ((t.objAt 0).arrived, (t.objAt 0).gen)) = some (16, 0) ∧
    (state1 (.barrive { d := 0xA8, a := 0xA2, f := 0x30 }) (sObj { plain with kind := 3, expected := 16 })).map (fun t =>
      ((t.objAt 0).arrived, (t.objAt 0).gen)) = some (0, 1) := by
  refine ⟨?_, ?_, ?_⟩ <;> decide +kernel

/-- The walk of Table 17.3. -/
def sWalk : State := { State.reset with
  ready := { State.reset.ready with chan := BitVec.allOnes 192 }, asids := [(1, 0x100000)], mem := cellWrites (cellWrites [] 0x100000 (leBytes 0x108003 8)) 0x108200 (leBytes 0x180000019 8) }

theorem test_walk_table : (sWalk.xlate { asid := 1 } 0x2001000040).toOption = some { key := physKey 0 0x181000040, rights := 3 } := by decide +kernel

/-- Core 301 lies in quad 75, and its scratchpad window begins at 0x0070012D00000000 (chapter 1). -/
theorem test_core_301 : quadOf 301 = 75 ∧ Config.windowBase + 301 * 2 ^ 32 = 0x0070012D00000000 := by decide

/-- The reflector of (3, 4, 0, ...): beta -5, tau 1.6 rounded, v = (1, 0.5, 0, ...) (the example after R284). -/
theorem test_hhgen_example :
    let r := hhgen 0 ([0x40400000, 0x40800000] ++ List.replicate 62 0) 0
    (r.1.getD 0 0, r.1.getD 1 0, r.1.getD 2 0) = (0x3F800000, 0x3F000000, 0) ∧ (r.2.1 = 0x3FCCCCCD ∧ r.2.2.1 = 0xC0A00000) := by
  refine ⟨?_, ?_⟩ <;> decide +kernel

/-- MZERO's effect on a tile, and MPUT's (R270, R273). -/
theorem test_tiles :
    (state1 (.engineOpComplete 0 none) (opState (.mput 0 [1, 2] 3))).map (fun t => ((t.shareOf u0 0).tile 0).getD (64 + 3) 0) = some 2 := by
  decide +kernel

/-- TFETCH of the only tile gives its number, its iterations and both flags (R58, R224). -/
theorem test_tfetch :
    (after (.tfetch 0xA4) s16).map (loaded 0) = some [0, 0, 1, 0x00010003] := by
  decide +kernel

/-- The split of Table 2.6: T = 3, I = 4, N = 5, teams 0 and 3. -/
theorem test_split_dispenser :
    let l : Launch := { fetchLaunch with split := true, x := 3, iters := 4, n := 5 }
    l.chunk 0 0 = some { tile := 0, first := 0, last := 2, flags := 0x00020005 } ∧ l.chunk 0 1 = none ∧
    l.chunk 3 0 = some { tile := 1, first := 3, last := 4, flags := 0x00020006 } ∧
    l.chunk 3 1 = some { tile := 2, first := 0, last := 1, flags := 0x00020005 } ∧ l.chunk 3 2 = none := by
  decide

/-- SVC holds the group until the service answers; an unassigned one gives 0xFFFFFFFF (Table 9.4). LAUNCH faults without a child queue. -/
theorem test_svc_and_launch :
    (after (.svc { d := 0xA4, a := 0xA2, f := 3 }) s16).map (·.hold) = some (some (.svc 0xA4 3 0 0x100C)) ∧
    (after (.svcComplete r0) (sHold (.svc 0xA4 3 7 0x100C))).map (fun g => ((g.reg 0xA4).base, g.hold)) = some (0xFFFFFFFF, none) ∧
    faults (.launch { d := 1, a := 4, wmode := 1 }) s16 = true := by
  refine ⟨?_, ?_, ?_⟩ <;> decide +kernel

/-- The device: a kick maps a waiting queue to the lowest slot of its district, a packet of type 7 is error 1 at offset 0
with an interrupt on vector 63, and a reset leaves 2,200 W and no launch (R298, R303, R314, R346). -/
theorem test_device :
    (state1 (.kick f0 0) (sIdle 1)).map (fun t => ((t.ownQueue k0).state, (t.ownQueue k0).slot)) = some (3, some 0) ∧
    (state1 (.reservedPacketType k0) (sQu q0 [(0, 1, 7)])).map (fun t => ((t.ownQueue k0).errCode, t.irqs)) = some (1, [{ fn := f0, vector := 63 }]) ∧
    (state1 (.nopPacket k0) (sQu q0 [])).map (fun t => (t.ownQueue k0).rdIdx) = some 1 ∧
    (state1 .deviceReset s16).map (fun t => (t.power, t.launches.length, t.mem == s16.mem)) = some (2200, 0, true) ∧
    (state1 (.setpower f0 mb0 1225) s16.running).map (fun t => (t.power, t.irqs)) = some (1225, [{ fn := f0, vector := 0 }]) ∧
    (state1 (.setpower f0 mb0 1230) s16.running).map (fun t => (t.power, (t.fnState f0).mailbox.result)) = some (2200, 3) ∧
    (state1 (.thermalStep 0 false) s16).map (fun t => t.freq.getD 0 0) = some 1050 := by
  refine ⟨?_, ?_, ?_, ?_, ?_, ?_, ?_⟩ <;> decide +kernel

/-- A step fetches at the PC, runs what it finds, and moves past it. -/
theorem test_step :
    (match step (State.reset.withFetchWord 32 0x12A203E8) with
      | .next t => (t.group? r0).map (fun g => ((g.reg 0xA2).base, g.paths.map (·.pc)))
      | _ => none) = some (1000, [0x1004]) ∧ decodeTableWord 32 0x12A203E8 = some (.movi 0xA2 1000) := by
  refine ⟨?_, ?_⟩ <;> decide +kernel

end Sys2Proof.Tests
end

/-! The scope of the machine (chapter 00): integer results, loads, the events of the device, and accesses from outside. -/

namespace Sys2Proof.Machine

/-! ## Elements of a lane word (R4, R178) -/

theorem bits_eq_self {x n : Nat} (h : x < 2 ^ n) : bits x 0 n = x := by
  simp [bits, Nat.mod_eq_of_lt h]

@[simp] theorem bits_word (a : Word) : bits a.toNat 0 32 = a.toNat := bits_eq_self a.isLt

/-- The number that elements of `w` bits make, the first in the least significant bits. -/
def elemSum (w : Nat) : List Nat → Nat
  | [] => 0
  | e :: es => e % 2 ^ w + 2 ^ w * elemSum w es

/-- The sum of elements at places of `w` bits, from place `k` on. -/
theorem foldl_elems (w : Nat) (es : List Nat) (k acc : Nat) :
    (es.zipIdx k).foldl (fun acc e => acc + e.1 % 2 ^ w * 2 ^ (e.2 * w)) acc = acc + 2 ^ (k * w) * elemSum w es := by
  induction es generalizing k acc with
  | nil => rfl
  | cons e es ih =>
    have hp : 2 ^ ((k + 1) * w) = 2 ^ (k * w) * 2 ^ w := by rw [Nat.succ_mul, Nat.pow_add]
    rw [List.zipIdx_cons, List.foldl_cons, ih, elemSum, hp, Nat.mul_add, Nat.mul_assoc, Nat.add_assoc, Nat.mul_comm (e % 2 ^ w)]

theorem packElems_eq (w : Nat) (es : List Nat) : packElems w es = BitVec.ofNat 32 (elemSum w es) := by
  unfold packElems
  rw [foldl_elems, Nat.zero_mul, Nat.pow_zero, Nat.one_mul, Nat.zero_add]

theorem elemSum_lt (w : Nat) (es : List Nat) : elemSum w es < 2 ^ (w * es.length) := by
  induction es with
  | nil => exact Nat.one_pos
  | cons e es ih =>
    have he : e % 2 ^ w < 2 ^ w := Nat.mod_lt _ (Nat.two_pow_pos w)
    calc elemSum w (e :: es) < 2 ^ w + 2 ^ w * elemSum w es := Nat.add_lt_add_right he _
      _ = 2 ^ w * (elemSum w es + 1) := by rw [Nat.mul_add, Nat.mul_one, Nat.add_comm]
      _ ≤ 2 ^ w * 2 ^ (w * es.length) := Nat.mul_le_mul_left _ ih
      _ = 2 ^ (w * (e :: es).length) := by rw [← Nat.pow_add, List.length_cons, Nat.mul_succ, Nat.add_comm]

theorem elemSum_get (w : Nat) {es : List Nat} {i : Nat} (hi : i < es.length) :
    elemSum w es / 2 ^ (i * w) % 2 ^ w = es[i] % 2 ^ w := by
  induction es generalizing i with
  | nil => exact absurd hi (Nat.not_lt_zero i)
  | cons e es ih =>
    rw [elemSum]
    cases i with
    | zero =>
      rw [Nat.zero_mul, Nat.pow_zero, Nat.div_one, Nat.add_mul_mod_self_left, Nat.mod_mod]
      rfl
    | succ i =>
      have hd : (e % 2 ^ w + 2 ^ w * elemSum w es) / 2 ^ w = elemSum w es := by
        rw [Nat.add_mul_div_left _ _ (Nat.two_pow_pos w), Nat.div_eq_of_lt (Nat.mod_lt _ (Nat.two_pow_pos w)), Nat.zero_add]
      rw [Nat.succ_mul, Nat.add_comm (i * w), Nat.pow_add, ← Nat.div_div_eq_div_mul, hd]
      exact ih (Nat.lt_of_succ_lt_succ hi)

/-- An element of a packed word is the element that was packed at its place, cut to its width. -/
theorem bits_packElems {w e : Nat} {es : List Nat} (hl : w * es.length ≤ 32) (he : e < es.length) :
    bits (packElems w es).toNat (e * w) w = es[e] % 2 ^ w := by
  have hlt : elemSum w es < 2 ^ 32 := Nat.lt_of_lt_of_le (elemSum_lt w es) (Nat.pow_le_pow_right (by decide) hl)
  unfold bits
  rw [packElems_eq, BitVec.toNat_ofNat, Nat.mod_eq_of_lt hlt]
  exact elemSum_get w he

/-- An element of a result is the function of the operands' elements at its place. -/
theorem bits_elemOp {w e : Nat} (f : Nat → Nat → Nat → Nat) (a b c : Word) (he : e < 32 / w) :
    bits (elemOp w f a b c).toNat (e * w) w
      = f (bits a.toNat (e * w) w) (bits b.toNat (e * w) w) (bits c.toNat (e * w) w) % 2 ^ w := by
  unfold elemOp
  rw [bits_packElems (by simpa using Nat.mul_div_le 32 w) (by simpa using he)]
  simp

/-- A 32-bit element is the whole word. -/
theorem elemOp_32 (f : Nat → Nat → Nat → Nat) (a b c : Word) :
    elemOp 32 f a b c = BitVec.ofNat 32 (f a.toNat b.toNat c.toNat) := by
  have h := bits_elemOp (e := 0) f a b c (by decide : 0 < 32 / 32)
  simp only [Nat.zero_mul, bits_word] at h
  exact BitVec.eq_of_toNat_eq (by rw [h, BitVec.toNat_ofNat])

/-- A function of 32-bit elements is one of machine words. -/
theorem intOp_word {x : XF} (ht : x.type = 0) (f : Nat → Nat → Nat → Nat → Nat) (a b c d : Word) (l : Nat) :
    (intOp x f a b c d l).1 = BitVec.ofNat 32 (f 32 a.toNat b.toNat c.toNat) := by
  simp only [intOp, ht]
  exact elemOp_32 _ a b c

/-! ## Signed and unsigned readings (R84) -/

@[simp] theorem sx_toNat {w : Nat} (a : BitVec w) : sx w a.toNat = a.toInt := by
  unfold sx
  rw [BitVec.toInt_eq_toNat_cond]
  cases w with
  | zero => simp [BitVec.of_length_zero]
  | succ m =>
    have hp : 2 ^ (m + 1) = 2 ^ m * 2 := by rw [Nat.pow_succ]
    have hc : (2 : Int) ^ (m + 1) = ((2 ^ (m + 1) : Nat) : Int) := by norm_cast
    rw [Nat.add_sub_cancel, hc, hp]
    split <;> split <;> omega

@[simp] theorem rd_signed (w n : Nat) : rd false w n = sx w n := rfl
@[simp] theorem rd_unsigned (w n : Nat) : rd true w n = (n : Int) := rfl

@[simp] theorem ofInt_rd (uns : Bool) (a : Word) : BitVec.ofInt 32 (rd uns 32 a.toNat) = a := by
  cases uns with
  | true => simp
  | false => simp [sx_toNat]

theorem ofNat_wrap (i : Int) : BitVec.ofNat 32 (wrap 32 i) = BitVec.ofInt 32 i := by
  apply BitVec.eq_of_toNat_eq
  have : i % 2 ^ 32 < 2 ^ 32 := Int.emod_lt_of_pos i (by decide)
  simp only [wrap, BitVec.toNat_ofNat, BitVec.toNat_ofInt]
  omega

/-- Without SAT an exact result is kept modulo 2^32 (R84). -/
theorem ofNat_intRes {x : XF} (hs : satBit x = false) (i : Int) : BitVec.ofNat 32 (intRes x 32 i) = BitVec.ofInt 32 i := by
  simp [intRes, hs, ofNat_wrap]

/-- Reading as signed gives back an integer in the signed range. -/
theorem sx_wrap {w : Nat} {i : Int} (hw : 0 < w) (hl : -(2 ^ (w - 1)) ≤ i) (hu : i < 2 ^ (w - 1)) : sx w (wrap w i) = i := by
  obtain ⟨m, rfl⟩ : ∃ m, w = m + 1 := ⟨w - 1, by omega⟩
  have hp : (2 : Int) ^ (m + 1) = 2 * 2 ^ m := by rw [Int.pow_succ, Int.mul_comm]
  have hc : ((2 ^ m : Nat) : Int) = 2 ^ m := by norm_cast
  simp only [Nat.add_sub_cancel] at hl hu
  unfold sx wrap
  rw [Nat.add_sub_cancel, hp]
  generalize (2 : Int) ^ m = P at *
  by_cases h : 0 ≤ i
  · rw [Int.emod_eq_of_lt h (by omega)]
    split <;> omega
  · rw [← Int.add_emod_right, Int.emod_eq_of_lt (by omega) (by omega)]
    split <;> omega

theorem wrap_of_range {w : Nat} {i : Int} (hl : 0 ≤ i) (hu : i < 2 ^ w) : (wrap w i : Int) = i := by
  unfold wrap
  rw [Int.emod_eq_of_lt hl hu, Int.toNat_of_nonneg hl]

/-- SAT clamps to the unsigned range (R84). -/
theorem intRes_sat_unsigned {x : XF} (hs : satBit x = true) (hu : unsBit x = true) (w : Nat) (i : Int) :
    (intRes x w i : Int) = max 0 (min i (2 ^ w - 1)) := by
  have hp : (0 : Int) < 2 ^ w := Int.pow_pos (by decide)
  simp only [intRes, hs, clampW, hu, if_true]
  exact wrap_of_range (by omega) (by omega)

/-- SAT clamps to the signed range (R84). -/
theorem intRes_sat_signed {x : XF} (hs : satBit x = true) (hu : unsBit x = false) {w : Nat} (hw : 0 < w) (i : Int) :
    sx w (intRes x w i) = max (-(2 ^ (w - 1))) (min i (2 ^ (w - 1) - 1)) := by
  have hp : (0 : Int) < 2 ^ (w - 1) := Int.pow_pos (by decide)
  simp only [intRes, hs, clampW, hu, if_true]
  rw [if_neg Bool.false_ne_true]
  exact sx_wrap hw (by omega) (by omega)

/-! ## Shifts (R181) -/

theorem ofNat_elShl (a b : Word) (c : Nat) : BitVec.ofNat 32 (elShl 32 a.toNat b.toNat c) = a <<< b.toNat := by
  apply BitVec.eq_of_toNat_eq
  unfold elShl
  rw [BitVec.toNat_shiftLeft, Nat.shiftLeft_eq]
  split
  · next h =>
    have : 2 ^ 32 ∣ a.toNat * 2 ^ b.toNat := Nat.dvd_mul_left_of_dvd (Nat.pow_dvd_pow 2 h) _
    simpa using (Nat.mod_eq_zero_of_dvd this).symm
  · simp

theorem ofNat_elShr (a b : Word) (c : Nat) : BitVec.ofNat 32 (elShr 32 a.toNat b.toNat c) = a >>> b.toNat := by
  apply BitVec.eq_of_toNat_eq
  unfold elShr
  rw [BitVec.toNat_ushiftRight, Nat.shiftRight_eq_div_pow]
  split
  · next h =>
    have : a.toNat < 2 ^ b.toNat := Nat.lt_of_lt_of_le a.isLt (Nat.pow_le_pow_right (by decide) h)
    simp [Nat.div_eq_of_lt this]
  · have : a.toNat / 2 ^ b.toNat ≤ a.toNat := Nat.div_le_self _ _
    simp only [BitVec.toNat_ofNat]
    exact Nat.mod_eq_of_lt (by omega)

/-- An arithmetic shift by 31 or more leaves the sign. -/
theorem toInt_div_pow_of_le (a : Word) {n : Nat} (h : 31 ≤ n) : a.toInt / 2 ^ n = a.toInt / 2 ^ 31 := by
  have hl : -(2 ^ 31) ≤ a.toInt := by have := BitVec.le_toInt a; simpa using this
  have hu : a.toInt < 2 ^ 31 := by have := BitVec.toInt_lt (x := a); simpa using this
  have hp : (2 : Int) ^ 31 ≤ 2 ^ n := by exact_mod_cast Nat.pow_le_pow_right (by decide : 0 < 2) h
  by_cases h0 : 0 ≤ a.toInt
  · rw [Int.ediv_eq_zero_of_lt h0 (by omega), Int.ediv_eq_zero_of_lt h0 hu]
  · have key : ∀ k : Int, 2 ^ 31 ≤ k → a.toInt / k = -1 := fun k hk => by
      rw [Int.ediv_eq_iff_of_pos (by omega)]
      omega
    rw [key _ hp, key _ (Int.le_refl _)]

theorem ofNat_elSar (a b : Word) (c : Nat) : BitVec.ofNat 32 (elSar 32 a.toNat b.toNat c) = a.sshiftRight b.toNat := by
  unfold elSar
  rw [ofNat_wrap, sx_toNat, BitVec.sshiftRight_eq, Int.shiftRight_eq_div_pow]
  congr 1
  by_cases h : b.toNat ≤ 31
  · rw [Nat.min_eq_left (by omega)]
    norm_cast
  · have hb : ((2 ^ b.toNat : Nat) : Int) = 2 ^ b.toNat := by norm_cast
    rw [Nat.min_eq_right (by omega), hb, toInt_div_pow_of_le a (n := b.toNat) (by omega)]

/-! ## What the integer results are (08 R177, R178, R181) -/

theorem rd_lt_unsigned (a b : Word) : rd true 32 a.toNat < rd true 32 b.toNat ↔ a.ult b = true := by
  simp [BitVec.ult]

theorem rd_lt_signed (a b : Word) : rd false 32 a.toNat < rd false 32 b.toNat ↔ a.slt b = true := by
  simp [BitVec.slt]

/-- The carry of a sum of three terms of which the last is a bit. -/
theorem carry_eq (a b c : Word) :
    (a.toNat + b.toNat + c.toNat % 2) / 2 ^ 32 = if 2 ^ 32 ≤ a.toNat + b.toNat + c.toNat % 2 then 1 else 0 := by
  have := a.isLt
  have := b.isLt
  split <;> omega

/-- Settles O4: a 32-bit element is the whole word, a packed element is read back where it was packed, and a clamped integer
survives wrapping. -/
theorem integerArithmetic : Obligations.IntegerArithmetic := by
  refine ⟨fun x a b c d l ht hs => ?_, fun x f a b c d l e he => ⟨bits_elemOp _ a b c he, rfl⟩,
    fun x w i hw hs => ⟨fun hu => intRes_sat_unsigned hs hu w i, fun hu => intRes_sat_signed hs hu hw i⟩⟩
  have word := fun f => intOp_word ht f a b c d l
  refine ⟨?add, ?sub, ?mul, ?mad, ?neg, ?carry, ?shl, ?shr, ?sar, ?minU, ?minS, ?maxU, ?maxS⟩
  case add => simp [opIadd, word, elAdd, ofNat_intRes hs, BitVec.ofInt_add]
  case sub =>
    simp [opIsub, word, elSub, ofNat_intRes hs, Int.sub_eq_add_neg, BitVec.ofInt_add, BitVec.ofInt_neg, BitVec.sub_eq_add_neg]
  case mul => simp [opImul, word, elMul, ofNat_intRes hs, BitVec.ofInt_mul]
  case mad => simp [opImad, word, elMad, ofNat_intRes hs, BitVec.ofInt_mul, BitVec.ofInt_add]
  case neg => simp [opIneg, word, elNeg, ofNat_intRes hs, BitVec.ofInt_neg]
  case carry =>
    simp only [opIaddc, word, elAddc, carry_eq]
    split <;> rfl
  case shl => exact (word _).trans (ofNat_elShl a b _)
  case shr => exact (word _).trans (ofNat_elShr a b _)
  case sar => exact (word _).trans (ofNat_elSar a b _)
  case minU =>
    intro hu
    simp only [opImin, word, elMin, hu, rd_lt_unsigned]
    split <;> simp
  case minS =>
    intro hu
    simp only [opImin, word, elMin, hu, rd_lt_signed]
    split <;> simp
  case maxU =>
    intro hu
    simp only [opImax, word, elMax, hu, rd_lt_unsigned]
    split <;> simp
  case maxS =>
    intro hu
    simp only [opImax, word, elMax, hu, rd_lt_signed]
    split <;> simp

/-! ## Loads at issue (03 R73; 10 R233, R235, R237) -/

/-- What an instruction does to its group may be said by any function that agrees with it up to what every instruction changes. -/
theorem Wrote.congr_group {o : Op} {e : Eff} {c : Ctx} {s t : State} (h : Wrote o e c s t) {f : Group → Group}
    (hf : ∀ g, (e.group g).rest = (f g).rest) : Wrote o { e with group := f } c s t :=
  { h with same := { h.same with own := by simpa only [hf] using h.same.own } }

/-- An LD-class operation joins the group's and the path goes on; a link's response may hold the group (R74). -/
theorem addLd_wrote {o : Op} {c : Ctx} {s : State} (hi : o.issuer s = some c) (ds : List Deliver) (link : Option (Dword × Mask))
    (srcs : List (Byte × Nat × Loc)) (lds : Bool) :
    Wrote o { group := c.withLdFrom ds srcs lds, next := c.next } c s
      (c.done (c.advance (c.addLd ds (c.start o s) link (srcs := srcs) (lds := lds)))) := by
  have h := ((sofar_start c.next hi).modGroup (fun g => { c.withLdFrom ds srcs lds g with
    hold := (linkHold g.nextSeq (c.start o s).hostClk link).orElse (fun _ => g.hold) }) rfl
    (fun _ => ⟨rfl, rfl, rfl, rfl, rfl, rfl, rfl⟩) (fun g h e => ?_)).goto hi
  · exact h.congr_group (fun _ => rfl)
  · exact congrArg (c.withLdFrom ds srcs lds) e

/-- The access of a lane of a load: the address that a fault names, and its places. -/
def Ctx.loadAcc (c : Ctx) (s : State) (scratch : Bool) (x : XF) (l : Nat) : LaneAcc :=
  { lane := l, addr := c.named_ scratch x l
    locs := if scratch then c.scratchPlace s x l (sizeBytes x.f) else c.place s (c.ea x l) (sizeBytes x.f) 1 }

/-- The lanes that execute a load, ascending. -/
def Ctx.loadLanes (c : Ctx) (x : XF) : List Nat := lanesOf c.n (c.exec x.mask.toNat)

/-- The lanes that zero mode clears. -/
def Ctx.zeroLanes (c : Ctx) (x : XF) : List Nat :=
  if x.wmode == 2 then lanesOf c.n (c.path.mask &&& ~~~(c.exec x.mask.toNat)) else []

/-- The registers that a load names. -/
def loadCodes (x : XF) : List Byte := sizeCodes x.d (bits x.f.toNat 0 3)

theorem planLoad_lanes (c : Ctx) (s : State) (scratch : Bool) {x : XF} (hd : clsOf x.d ≠ .s) :
    (planLoad scratch x c s).effect =
      c.advance (c.addLd (c.loadDelivers s x ((c.loadLanes x).map (c.loadAcc s scratch x)) (c.zeroLanes x)) s
        (anyRemote ((c.loadLanes x).map (c.loadAcc s scratch x)))
        (srcs := wordSrcs (loadCodes x) ((c.loadLanes x).map (c.loadAcc s scratch x))) (lds := scratch)) := by
  have hd' : (clsOf x.d == Cls.s) = false := by simpa using hd
  simp only [planLoad, hd']
  rfl

theorem planLoad_uniform (c : Ctx) (s : State) (scratch : Bool) {x : XF} (hd : clsOf x.d = .s) {l : Nat}
    (hl : (c.loadLanes x).head? = some l) :
    (planLoad scratch x c s).effect =
      c.advance (c.addLd (c.uniformDelivers s x (c.loadAcc s scratch x l)) s (anyRemote [c.loadAcc s scratch x l])
        (srcs := wordSrcs (loadCodes x) ((c.loadLanes x).map (fun k => { c.loadAcc s scratch x l with lane := k })))
        (lds := scratch)) := by
  obtain ⟨rest, hr⟩ := List.head?_eq_some_iff.1 hl
  have ht : (c.loadLanes x).take 1 = [l] := by rw [hr]; rfl
  unfold Ctx.loadLanes at ht
  simp only [planLoad, hd, ht, beq_self_eq_true, if_true, List.map_cons, List.map_nil, List.flatMap_cons, List.flatMap_nil,
    List.append_nil]
  rfl

theorem planLoad_no_lane (c : Ctx) (s : State) (scratch : Bool) {x : XF} (hd : clsOf x.d = .s) (hl : c.loadLanes x = []) :
    (planLoad scratch x c s).effect = c.advance s := by
  unfold Ctx.loadLanes at hl
  simp [planLoad, hd, hl]

/-- What a load of an operation `o` does to its group, by the class of D (R73, R233, R235, R237). -/
def LoadJoins (i : Instr) (o : Op) (scratch : Bool) : Prop := Completes i o (planLoad scratch o.x) (fun c s t =>
  let s0 := c.start o s
  let acc := c.loadAcc s0 scratch o.x
  let lanes := c.loadLanes o.x
  (clsOf o.x.d ≠ .s →
    Wrote o { group := c.withLdFrom (c.loadDelivers s0 o.x (lanes.map acc) (c.zeroLanes o.x))
                (wordSrcs (loadCodes o.x) (lanes.map acc)) scratch, next := c.next } c s t) ∧
  (clsOf o.x.d = .s → ∀ l, lanes.head? = some l →
    Wrote o { group := c.withLdFrom (c.uniformDelivers s0 o.x (acc l))
                (wordSrcs (loadCodes o.x) (lanes.map (fun k => { acc l with lane := k }))) scratch, next := c.next } c s t) ∧
  (clsOf o.x.d = .s → lanes = [] → Wrote o { next := c.next } c s t))

theorem loadJoins_of {i : Instr} {o : Op} {scratch : Bool} (hx : ∀ s, exec i s = runOp o (planLoad scratch o.x) s) :
    LoadJoins i o scratch := by
  intro s c h
  refine ⟨_, (hx s).trans (runOp_runs h), fun hd => ?_, fun hd l hl => ?_, fun hd hl => ?_⟩
  · rw [planLoad_lanes c _ scratch hd]
    exact addLd_wrote h.issuer _ _ _ _
  · rw [planLoad_uniform c _ scratch hd hl]
    exact addLd_wrote h.issuer _ _ _ _
  · rw [planLoad_no_lane c _ scratch hd hl]
    exact (sofar_start c.next h.issuer).goto h.issuer

/-! ## The word that a load delivers (00 R4, Table 10.3) -/

theorem leNat_cons_toNat {n : Nat} (b : Byte) (bs : List Byte) (h : BitVec n) (hb : leNat bs = h.toNat) :
    leNat (b :: bs) = (h ++ b : BitVec (n + 8)).toNat := by
  rw [leNat, hb, BitVec.toNat_append, ← Nat.shiftLeft_add_eq_or_of_lt b.isLt, Nat.shiftLeft_eq]
  omega

theorem leNat_single (b : Byte) : leNat [b] = b.toNat := by simp [leNat]

/-- A value shorter than a word is extended by its sign or by zeros. -/
theorem loadWord_narrow {k : Nat} (bs : List Byte) (v : BitVec (8 * k)) (hk : k < 4) (hl : bs.length = k)
    (hv : leNat bs = v.toNat) :
    loadWord bs k 0 true = v.signExtend 32 ∧ loadWord bs k 0 false = v.zeroExtend 32 := by
  unfold loadWord
  rw [if_pos hk, if_pos hk, List.take_of_length_le (Nat.le_of_eq hl), hv]
  refine ⟨by rw [Bool.not_true, rd_signed, sx_toNat]; rfl, ?_⟩
  apply BitVec.eq_of_toNat_eq
  simp

/-- A longer value goes to its registers word by word. -/
theorem loadWord_wide (bs : List Byte) (b0 b1 b2 b3 : Byte) (rest : List Byte) (j : Nat) (sg : Bool) (hl : bs.length = 4 * j) :
    loadWord (bs ++ b0 :: b1 :: b2 :: b3 :: rest) (4 * (j + 1)) j sg = (b3 ++ b2 ++ b1 ++ b0 : BitVec 32) := by
  have h : leNat [b0, b1, b2, b3] = (b3 ++ b2 ++ b1 ++ b0 : BitVec 32).toNat :=
    leNat_cons_toNat _ _ _ (leNat_cons_toNat _ _ _ (leNat_cons_toNat _ _ _ (leNat_single b3)))
  unfold loadWord
  rw [if_neg (by omega), ← hl, List.drop_left]
  simp only [List.take_succ_cons, List.take_zero, h, BitVec.ofNat_toNat, BitVec.setWidth_eq]

/-- Settles O20: every load runs one plan, which adds one LD-class operation to the group; what it delivers is put together
byte by byte. -/
theorem loads : Obligations.Loads := by
  refine ⟨⟨fun x => ⟨?ld, ?lds⟩, fun d a i => ⟨?ld32, ?lds32⟩, fun d a lit => ⟨?ld32Bl, ?lds32Bl⟩⟩, fun b => ?byte, fun b0 b1 => ?half,
    fun bs b0 b1 b2 b3 rest j sg hl => loadWord_wide bs b0 b1 b2 b3 rest j sg hl⟩
  case ld => exact loadJoins_of (i := .ld x) (o := opX 0x09 0x00 x) (fun _ => rfl)
  case lds => exact loadJoins_of (i := .lds x) (o := opX 0x09 0x02 x) (fun _ => rfl)
  case ld32 => exact loadJoins_of (i := .ld32 d a i) (fun _ => rfl)
  case lds32 => exact loadJoins_of (i := .lds32 d a i) (fun _ => rfl)
  case ld32Bl => exact loadJoins_of (i := .ld32Bl d a lit) (fun _ => rfl)
  case lds32Bl => exact loadJoins_of (i := .lds32Bl d a lit) (fun _ => rfl)
  case byte => exact loadWord_narrow (k := 1) [b] b (by decide) rfl (leNat_single b)
  case half => exact loadWord_narrow (k := 2) [b0, b1] (b1 ++ b0) (by decide) rfl (leNat_cons_toNat _ _ _ (leNat_single b1))

/-! ## Bytes written to memory by an agent that is no team (05 R112; 10 R236) -/

@[simp] theorem leBytes_length (v n : Nat) : (leBytes v n).length = n := by
  induction n generalizing v with
  | zero => rfl
  | succ n ih => simp [leBytes, ih]

theorem physSpan_succ (key n : Nat) : physSpan key (n + 1) = { space := .phys, addr := key } :: physSpan (key + 1) n := by
  simp [physSpan, Loc.span, List.range_succ_eq_map, Nat.add_assoc, Nat.add_comm 1]

theorem mem_physSpan {key n : Nat} {p : Loc} : p ∈ physSpan key n ↔ p.space = .phys ∧ key ≤ p.addr ∧ p.addr < key + n := by
  simp only [physSpan, Loc.span, List.mem_map, List.mem_range]
  constructor
  · rintro ⟨i, hi, rfl⟩
    exact ⟨rfl, by simp, by simpa using hi⟩
  · rintro ⟨hs, hl, hu⟩
    exact ⟨p.addr - key, by omega, by cases p; simp_all⟩

theorem bytesAt_space {key n : Nat} {vs : List Byte} : ∀ b ∈ bytesAt (physSpan key n) vs, b.space = .phys := by
  intro b hb
  obtain ⟨⟨p, v⟩, hp, rfl⟩ := List.mem_map.1 hb
  exact (mem_physSpan.1 (List.of_mem_zip hp).1).1

theorem foldl_writeLoc_physSpan (s : State) (key : Nat) (vs : List Byte) :
    (bytesAt (physSpan key vs.length) vs).foldl (fun s b => s.writeLoc b) s = { s with mem := cellWrites s.mem key vs } := by
  induction vs generalizing s key with
  | nil => rfl
  | cons v vs ih =>
    have hb : bytesAt (physSpan key (v :: vs).length) (v :: vs)
        = { space := .phys, addr := key, val := v } :: bytesAt (physSpan (key + 1) vs.length) vs := by
      rw [List.length_cons, physSpan_succ]
      rfl
    rw [hb, List.foldl_cons, ih]
    rfl

/-- Bytes of memory are no team's own, so that no team receives them. -/
theorem receivers_phys {bs : List StoreByte} (h : ∀ b ∈ bs, b.space = .phys) : receivers none bs = [] := by
  unfold receivers
  rw [List.filterMap_eq_nil_iff.2 (fun b hb => by rw [h b hb]; rfl)]
  rfl

theorem filterMap_mailOf_phys {bs : List StoreByte} (h : ∀ b ∈ bs, b.space = .phys) : bs.filterMap mailOf = [] :=
  List.filterMap_eq_nil_iff.2 (fun b hb => by unfold mailOf; rw [h b hb])

/-- Clearing marks of memory changes only the marks. -/
theorem foldl_markUnit_phys {bs : List StoreByte} (h : ∀ b ∈ bs, b.space = .phys) (s : State) :
    ∃ m, bs.foldl (fun s b => s.markUnit b.space b.addr none) s = { s with memPoison := m } := by
  induction bs generalizing s with
  | nil => exact ⟨s.memPoison, rfl⟩
  | cons b bs ih =>
    obtain ⟨m, hm⟩ := ih (fun c hc => h c (List.mem_cons_of_mem _ hc)) (s.markUnit b.space b.addr none)
    refine ⟨m, ?_⟩
    rw [List.foldl_cons, hm, h b (List.mem_cons_self ..)]
    rfl

/-- A change of teams that leaves their references and cores leaves every share. -/
theorem State.shareOf_map_teams {s : State} {f : Team → Team} (hf : ∀ t, (f t).ref = t.ref ∧ (f t).cur.cores = t.cur.cores)
    (r : TeamRef) (c : Nat) : ({ s with teams := s.teams.map f } : State).shareOf r c = s.shareOf r c := by
  have hr : ((fun m : Team => m.ref == r) ∘ f) = fun m => m.ref == r := by
    funext m
    simp [(hf m).1]
  unfold State.shareOf State.team?
  dsimp only
  rw [List.find?_map, hr, Option.map_map]
  congr 2
  funext m
  simp [Team.share?, (hf m).2]

theorem State.retest_shareOf (s : State) (sectors : List Nat) (r : TeamRef) (c : Nat) :
    (s.retest sectors).shareOf r c = s.shareOf r c := by
  refine State.shareOf_map_teams (fun t => ?_) r c
  split
  · exact ⟨rfl, rfl⟩
  · split <;> exact ⟨rfl, rfl⟩

/-- What an agent that is no team writes to memory changes memory there and nothing that a place on chip shows. -/
theorem performBytes_phys (s : State) (key : Nat) (vs : List Byte) :
    (s.performBytes none (bytesAt (physSpan key vs.length) vs)).mem = cellWrites s.mem key vs ∧
    (s.performBytes none (bytesAt (physSpan key vs.length) vs)).replies = s.replies ∧
    ∀ r c, (s.performBytes none (bytesAt (physSpan key vs.length) vs)).shareOf r c = s.shareOf r c := by
  have hp : ∀ b ∈ bytesAt (physSpan key vs.length) vs, b.space = .phys := bytesAt_space
  obtain ⟨m, hm⟩ := foldl_markUnit_phys (bs := wholeUnits (bytesAt (physSpan key vs.length) vs))
    (fun b hb => hp b (List.mem_filter.1 hb).1) { s with mem := cellWrites s.mem key vs }
  unfold State.performBytes State.applyBytes
  rw [receivers_phys hp]
  dsimp only
  rw [foldl_writeLoc_physSpan, hm, filterMap_mailOf_phys hp]
  dsimp only [dedup, List.foldl_nil]
  split
  · next h =>
    obtain ⟨b, hb, hs⟩ := List.any_eq_true.1 h
    rw [hp b hb] at hs
    cases hs
  · split
    · exact ⟨rfl, rfl, fun r c => State.retest_shareOf _ _ r c⟩
    · exact ⟨rfl, rfl, fun _ _ => rfl⟩

/-- Bytes written to memory are read back, and no others but those of registers change. -/
theorem stores_of_cellWrites {s t : State} {key : Nat} {vs : List Byte} (hm : t.mem = cellWrites s.mem key vs)
    (hs : ∀ r c, t.shareOf r c = s.shareOf r c) : Stores (physSpan key vs.length) vs s t := by
  refine ⟨fun _ i p hi => ?_, fun p hp hr => ?_⟩
  · obtain ⟨hlt, rfl⟩ := List.getElem?_eq_some_iff.1 hi
    have hlt' : i < vs.length := by simpa [physSpan, Loc.span] using hlt
    simp only [physSpan, Loc.span, List.getElem_map, List.getElem_range, State.readLoc, hm]
    rw [cellRead_cellWrites, if_pos (by omega), Nat.add_sub_cancel_left]
  · by_cases h : p.space = .phys
    · simp only [State.readLoc, h, hm]
      rw [cellRead_cellWrites, if_neg (fun hk => hp (mem_physSpan.2 ⟨h, hk⟩))]
    · unfold State.readLoc
      cases hc : p.space with
      | phys => exact absurd hc h
      | reg g => exact absurd hc (hr g)
      | _ => simp only [hs]

/-- Bytes that an agent outside the teams writes to memory (R236). -/
theorem performBytes_stores (s : State) (key : Nat) (vs : List Byte) :
    Stores (physSpan key vs.length) vs s (s.performBytes none (bytesAt (physSpan key vs.length) vs)) :=
  stores_of_cellWrites (performBytes_phys s key vs).1 (performBytes_phys s key vs).2.2

/-! ## Accesses of peers and of the host (17 R332, R334, R347) -/

theorem busReady_iff (s : State) (pa : Nat) (acc : BusAccess) :
    s.busReady pa acc = true ↔ ¬ ∃ p ∈ physSpan (physKey 0 pa) (busSize acc), s.locReady p = false := by
  simp [State.busReady, physSpan, List.all_eq_true]

theorem busAccess_write (s : State) (pa : Nat) (bs : List Byte) :
    Stores (physSpan (physKey 0 pa) bs.length) bs s (s.busAccess pa (.write bs)).1 ∧
    (s.busAccess pa (.write bs)).1.replies = s.replies :=
  ⟨performBytes_stores s _ bs, (performBytes_phys s _ bs).2.1⟩

theorem busAccess_atomic (s : State) (pa : Nat) (op : BitVec 4) (wide : Bool) (b c : Dword) :
    let n := if wide then 8 else 4
    let old := (physSpan (physKey 0 pa) n).map s.readLoc
    Stores (physSpan (physKey 0 pa) n) (leBytes (atomOp op.toNat (8 * n) (leNat old) (b.toNat % 2 ^ (8 * n))
      (c.toNat % 2 ^ (8 * n))) n) s (s.busAccess pa (.atomic op wide b c)).1 ∧
    (s.busAccess pa (.atomic op wide b c)).1.replies = s.replies ∧ (s.busAccess pa (.atomic op wide b c)).2 = old := by
  intro n old
  generalize hv : leBytes (atomOp op.toNat (8 * n) (leNat old) (b.toNat % 2 ^ (8 * n)) (c.toNat % 2 ^ (8 * n))) n = vs
  have hl : vs.length = n := by rw [← hv, leBytes_length]
  have hb : s.busAccess pa (.atomic op wide b c) = (s.performBytes none (bytesAt (physSpan (physKey 0 pa) vs.length) vs), old) := by
    rw [hl, ← hv]
    rfl
  rw [hb]
  exact ⟨hl ▸ performBytes_stores s _ vs, (performBytes_phys s _ vs).2.1, rfl⟩

theorem peerAccess_ignored {s : State} {port : Nat} (h : s.answers = false ∨ 16 ≤ port) (off : Nat) (acc : BusAccess) :
    s.peerAccess port off acc = s := by
  unfold State.peerAccess
  rw [if_pos (by simpa [or_comm] using h)]

theorem peerAccess_outside {s : State} {port off : Nat} {acc : BusAccess} (ha : s.answers = true) (hp : port < 16)
    (h : s.peerWin = none ∨ ∃ w, s.peerWin = some w ∧ w.2 < off + busSize acc) :
    s.peerAccess port off acc = s.respond (16 + port) [] := by
  unfold State.peerAccess
  rw [if_neg (by simp [ha]; omega)]
  rcases h with hw | ⟨⟨base, size⟩, hw, hlt⟩
  · simp only [hw]
  · simp only [hw]
    rw [if_pos hlt]

/-- Within the exported window an access waits for its channels, and is then performed. -/
theorem peerAccess_inside {s : State} {port off size : Nat} {acc : BusAccess} {base : Dword} (ha : s.answers = true) (hp : port < 16)
    (hw : s.peerWin = some (base, size)) (hs : off + busSize acc ≤ size) :
    s.peerAccess port off acc = if s.busReady (base.toNat + off) acc then (match acc with
      | .write bs => (s.busAccess (base.toNat + off) (.write bs)).1
      | acc => (s.busAccess (base.toNat + off) acc).1.respond (16 + port) (s.busAccess (base.toNat + off) acc).2) else s := by
  unfold State.peerAccess
  rw [if_neg (by simp [ha]; omega)]
  simp only [hw]
  rw [if_neg (by omega)]
  cases s.busReady (base.toNat + off) acc <;> cases acc <;> rfl

/-- The conditions under which an access of the host through BAR2 is performed. -/
structure HostReaches (s : State) (f : Fn) (off : Nat) (acc : BusAccess) : Prop where
  answers : s.answers = true
  pf : f.num = 0
  link : f.link < 2
  aperture : off + busSize acc ≤ 2 ^ 36
  memory : (lookupD s.apertures f.link 0).toNat + off + busSize acc ≤ Config.lpddrBytes
  ready : s.busReady ((lookupD s.apertures f.link 0).toNat + off) acc = true

theorem hostReaches_iff (s : State) (f : Fn) (off : Nat) (acc : BusAccess) : HostReaches s f off acc ↔
    (f.num != 0 || 2 ≤ f.link || !s.answers || 2 ^ 36 < off + busSize acc
      || Config.lpddrBytes < (lookupD s.apertures f.link 0).toNat + off + busSize acc
      || !s.busReady ((lookupD s.apertures f.link 0).toNat + off) acc) = false := by
  simp only [Bool.or_eq_false_iff, bne_eq_false_iff_eq, decide_eq_false_iff_not, Bool.not_eq_false', Nat.not_le, Nat.not_lt]
  constructor
  · rintro ⟨ha, hf, hl, ho, hm, hr⟩
    exact ⟨⟨⟨⟨⟨hf, hl⟩, ha⟩, ho⟩, hm⟩, hr⟩
  · rintro ⟨⟨⟨⟨⟨hf, hl⟩, ha⟩, ho⟩, hm⟩, hr⟩
    exact ⟨ha, hf, hl, ho, hm, hr⟩

theorem hostAccess_refused {s : State} {f : Fn} {off : Nat} {acc : BusAccess} (h : ¬ HostReaches s f off acc) :
    s.hostAccess f off acc = s := by
  rw [hostReaches_iff, Bool.not_eq_false] at h
  exact if_pos h

theorem hostAccess_reaches {s : State} {f : Fn} {off : Nat} {acc : BusAccess} (h : HostReaches s f off acc) :
    s.hostAccess f off acc = match acc with
      | .atomic _ _ _ _ => s
      | .write bs => (s.busAccess ((lookupD s.apertures f.link 0).toNat + off) (.write bs)).1
      | .read n => s.respond f.link ((physSpan (physKey 0 ((lookupD s.apertures f.link 0).toNat + off)) n).map s.readLoc) := by
  rw [hostReaches_iff, ← Bool.not_eq_true] at h
  refine (if_neg h).trans ?_
  cases acc <;> rfl

/-! ## A read of BAR0 (00 R5, R6; 17 R344, R346, R347, R351, R352) -/

theorem answersAt_iff (s : State) (off : Nat) : s.answersAt off = true ↔
    s.answers = true ∨ (0x3000 ≤ off ∧ off < 0x3020) ∨ (s.ready.trip = true ∧ 0x1000 ≤ off ∧ off < 0x1080) := by
  simp [State.answersAt, or_assoc, and_assoc]

/-- Offsets without a register that can be read: reserved and write-only ones, and of a virtual function those from READY on. -/
def Unreadable (f : Fn) (i : Nat) : Prop :=
  i < 8 ∨ (16 ≤ i ∧ i < 0x1000) ∨ (0x1080 ≤ i ∧ i < 0x2000) ∨ (0x2400 ≤ i ∧ i < 0x2800) ∨ (0x2A00 ≤ i ∧ i < 0x3000) ∨
    (0x3020 ≤ i ∧ i < 0x4000) ∨ (f.num ≠ 0 ∧ 0x3000 ≤ i)

theorem registerByte_unreadable (s : State) {f : Fn} {i : Nat} (h : Unreadable f i) : s.registerByte f i = 0 := by
  unfold Unreadable at h
  unfold State.registerByte
  dsimp only
  by_cases hi : i < 0x1000
  · rw [if_pos hi, if_neg (by simp; omega)]
  · rw [if_neg hi, if_neg (by omega), if_neg (by simp; omega), if_neg (by simp; omega)]
    by_cases hf : f.num = 0
    · rw [if_neg (by simp [hf]), if_neg (by simp; omega), if_neg (by simp; omega), if_neg (by omega)]
    · rw [if_pos (by simpa using hf)]

/-- The PENDING word of a bound function (R298). -/
theorem registerByte_pending {s : State} {f : Fn} {v : Vdev} {i : Nat} (hi : i < 8) (hv : s.vdevOf f = some v) :
    s.registerByte f (8 + i) = byteAt v.pending.toNat i := by
  unfold State.registerByte
  rw [if_pos (by omega), if_pos (by simp; omega), hv, Nat.add_sub_cancel_left]
  rfl

theorem registerByte_mailbox (s : State) (f : Fn) {i : Nat} (hi : i < 0x80) :
    s.registerByte f (0x1000 + i) = (s.fnState f).mailbox.byte i := by
  unfold State.registerByte
  rw [if_neg (by omega), if_pos (by omega), Nat.add_sub_cancel_left]

theorem MailboxRegs.byte_status (m : MailboxRegs) {i : Nat} (hi : i < 4) :
    m.byte (0x40 + i) = byteAt (m.busy.toNat + 2 * m.done.toNat + 256 * m.result) i := by
  unfold MailboxRegs.byte
  rw [if_neg (by omega), if_neg (by simp), if_pos (by simp; omega), Nat.add_sub_cancel_left]

theorem MailboxRegs.byte_args (m : MailboxRegs) {i : Nat} (hi : i < 56) : m.byte (8 + i) = cellRead m.args i := by
  unfold MailboxRegs.byte
  rw [if_neg (by omega), if_pos (by simp; omega), Nat.add_sub_cancel_left]

theorem MailboxRegs.byte_result (m : MailboxRegs) {i : Nat} (hi : i < 56) : m.byte (0x48 + i) = m.out.getD i 0 := by
  unfold MailboxRegs.byte
  rw [if_neg (by omega), if_neg (by simp; omega), if_neg (by simp; omega), if_pos (by simp; omega), Nat.add_sub_cancel_left]

/-- A vector's D and T (Table 16.12). -/
theorem registerByte_vector (s : State) (f : Fn) {v i : Nat} (hv : v < 64) (hi : i < 8) :
    s.registerByte f (0x2800 + 8 * v + i)
      = byteAt (((s.fnState f).vector v).d.toNat + 2 ^ 16 * ((s.fnState f).vector v).t.toNat) i := by
  have hidx : (0x2800 + 8 * v + i - 0x2800) / 8 = v := by omega
  have hoff : (0x2800 + 8 * v + i) % 8 = i := by omega
  unfold State.registerByte
  rw [if_neg (by omega), if_neg (by omega), if_neg (by simp; omega), if_pos (by simp; omega), hidx, hoff]

/-- READY0 of a PF (Table 17.6). -/
theorem registerByte_ready0 (s : State) {f : Fn} (hf : f.num = 0) {i : Nat} (hi : i < 8) :
    s.registerByte f (0x3000 + i) = byteAt s.ready.word0 i := by
  unfold State.registerByte
  rw [if_neg (by omega), if_neg (by omega), if_neg (by simp; omega), if_neg (by simp; omega), if_neg (by simp [hf]),
    if_pos (by simp; omega), Nat.add_sub_cancel_left]

/-- The bits of the channels (Table 17.7). -/
theorem registerByte_chan (s : State) {f : Fn} (hf : f.num = 0) {i : Nat} (hi : i < 24) :
    s.registerByte f (0x3008 + i) = byteAt s.ready.chan.toNat i := by
  unfold State.registerByte
  rw [if_neg (by omega), if_neg (by omega), if_neg (by simp; omega), if_neg (by simp; omega), if_neg (by simp [hf]),
    if_neg (by simp), if_pos (by simp; omega), Nat.add_sub_cancel_left]

/-! ## The fields of a word by bytes (00 R4) -/

theorem byteAt_eq {a b i : Nat} (h : a / 256 ^ i % 256 = b % 256) : byteAt a i = BitVec.ofNat 8 b :=
  BitVec.eq_of_toNat_eq (by rw [byteAt, BitVec.toNat_ofNat, BitVec.toNat_ofNat]; exact h)

theorem byteAt_vector_d (d : BitVec 16) (t : Nat) :
    leNat [byteAt (d.toNat + 2 ^ 16 * t) 0, byteAt (d.toNat + 2 ^ 16 * t) 1] = d.toNat := by
  have := d.isLt
  simp only [leNat, byteAt, BitVec.toNat_ofNat]
  omega

theorem byteAt_vector_t (d : BitVec 16) (t : BitVec 8) : byteAt (d.toNat + 2 ^ 16 * t.toNat) 2 = t := by
  have := d.isLt
  rw [byteAt_eq (b := t.toNat) (by omega), BitVec.ofNat_toNat, BitVec.setWidth_eq]

/-- READY0 by bytes (Table 17.6). -/
theorem word0_bytes (r : ReadyRegs) :
    byteAt r.word0 0 = r.clu ∧ byteAt r.word0 1 = r.cc ∧
    byteAt r.word0 2 = BitVec.ofNat 8 (r.cxl.toNat + 16 * (r.peer.toNat % 16)) ∧
    byteAt r.word0 3 = BitVec.ofNat 8 (r.peer.toNat / 16) ∧
    byteAt r.word0 4 = BitVec.ofNat 8 (r.peer.toNat / 4096 + 16 * r.link.toNat) ∧
    byteAt r.word0 7 = BitVec.ofNat 8 (64 * r.trip.toNat + 128 * r.done.toNat) := by
  have hclu := r.clu.isLt
  have hcc := r.cc.isLt
  have hcxl := r.cxl.isLt
  have hpeer := r.peer.isLt
  have hlink := r.link.isLt
  have htrip := Bool.toNat_le r.trip
  have hdone := Bool.toNat_le r.done
  have hw : r.word0 = r.clu.toNat + 2 ^ 8 * r.cc.toNat + 2 ^ 16 * r.cxl.toNat + 2 ^ 20 * r.peer.toNat + 2 ^ 36 * r.link.toNat
    + 2 ^ 62 * r.trip.toNat + 2 ^ 63 * r.done.toNat := rfl
  refine ⟨?_, ?_, byteAt_eq (by omega), byteAt_eq (by omega), byteAt_eq (by omega), byteAt_eq (by omega)⟩
  · rw [byteAt_eq (b := r.clu.toNat) (by omega), BitVec.ofNat_toNat, BitVec.setWidth_eq]
  · rw [byteAt_eq (b := r.cc.toNat) (by omega), BitVec.ofNat_toNat, BitVec.setWidth_eq]

/-! ## Accesses from outside -/

theorem locReady_lpddr (s : State) {pa : Nat} (h : pa < Config.lpddrBytes) :
    s.locReady { space := .phys, addr := physKey 0 pa } = s.ready.chan.getLsbD (pa / 2048 % 192) := by
  have hb : Config.lpddrBytes < 2 ^ 52 := by decide
  have hk : keyType pa = 0 := Nat.div_eq_of_lt (by omega)
  have hp : physKey 0 pa = pa := by simp [physKey]
  simp [State.locReady, State.keyReady, chanOf, hp, hk]

/-- Settles O55: an access is ignored, answered outside the window, or performed by one write of memory; a read of BAR0 goes
register by register. -/
theorem accessesFromOutside : Obligations.AccessesFromOutside := by
  intro s off acc at_ waits
  refine ⟨fun pa h => locReady_lpddr s h, fun port => ⟨?peerIgnored, fun ha hp => ⟨?peerOutside, ?peerWaits, ?peerInside⟩⟩,
    fun f => ⟨?hostRefused, ?hostReaches⟩, rfl, fun f => ⟨?readAnswered, ?readRefused, ?unreadable, ?pending, ?status0, ?status1,
      ?mailbox, ?vectors, ?ready⟩⟩
  case peerIgnored => exact fun h => congrArg Host.Outcome.next (peerAccess_ignored h off acc)
  case peerOutside => exact fun h => ⟨_, rfl, peerAccess_outside ha hp h⟩
  case peerWaits =>
    intro base size hw hs h
    have hr : s.busReady (base.toNat + off) acc = false := Bool.eq_false_iff.2 (fun hr => (busReady_iff s _ acc).1 hr h)
    exact congrArg Host.Outcome.next ((peerAccess_inside ha hp hw hs).trans (by rw [hr]; rfl))
  case peerInside =>
    intro base size hw hs h
    have hr : s.busReady (base.toNat + off) acc = true := (busReady_iff s _ acc).2 h
    refine ⟨_, congrArg Host.Outcome.next ((peerAccess_inside ha hp hw hs).trans (if_pos hr)), ?_, ?_, ?_⟩
    · rintro n rfl
      rfl
    · rintro bs rfl
      exact busAccess_write s _ bs
    · rintro op wide b c rfl n old
      obtain ⟨hst, hrep, hold⟩ := busAccess_atomic s (base.toNat + off) op wide b c
      refine ⟨hst, ?_⟩
      simp only [State.respond, hrep, hold]
      rfl
  case hostRefused =>
    intro h
    refine congrArg Host.Outcome.next (hostAccess_refused (fun hh => ?_))
    obtain ⟨ha, hf, hl, ho, hm, hr⟩ := hh
    rcases h with h | h | h | h | h | h
    · rw [ha] at h; cases h
    · exact h hf
    · omega
    · omega
    · omega
    · exact (busReady_iff s _ acc).1 hr h
  case hostReaches =>
    intro ha hf hl ho hm h
    refine ⟨_, congrArg Host.Outcome.next (hostAccess_reaches ⟨ha, hf, hl, ho, hm, (busReady_iff s _ acc).2 h⟩), ?_, ?_, ?_⟩
    · rintro n rfl
      rfl
    · rintro bs rfl
      exact busAccess_write s _ bs
    · rintro op wide b c rfl
      rfl
  case readAnswered => exact fun h => if_pos ((answersAt_iff s off).2 h)
  case readRefused =>
    intro ha hr hm
    refine if_neg (fun h => ?_)
    rcases (answersAt_iff s off).1 h with h | h | h
    · rw [ha] at h; cases h
    · exact hr h
    · exact hm h
  case unreadable => exact fun i h => registerByte_unreadable s h
  case pending => exact fun i v hi hv => registerByte_pending hi hv
  case status0 =>
    rw [registerByte_mailbox s f (i := 0x40) (by decide), MailboxRegs.byte_status _ (i := 0) (by decide)]
    simp [byteAt]
  case status1 =>
    rw [registerByte_mailbox s f (i := 0x41) (by decide), MailboxRegs.byte_status _ (i := 1) (by decide)]
    simp [byteAt]
  case mailbox =>
    intro i hi
    rw [show 0x1008 + i = 0x1000 + (8 + i) by omega, show 0x1048 + i = 0x1000 + (0x48 + i) by omega,
      registerByte_mailbox s f (by omega), registerByte_mailbox s f (by omega)]
    exact ⟨MailboxRegs.byte_args _ hi, MailboxRegs.byte_result _ hi⟩
  case vectors =>
    intro v hv
    have h0 : s.registerByte f (0x2800 + 8 * v) = _ := registerByte_vector s f hv (i := 0) (by decide)
    rw [registerByte_vector s f hv (i := 2) (by decide), h0,
      show 0x2801 + 8 * v = 0x2800 + 8 * v + 1 by omega, registerByte_vector s f hv (i := 1) (by decide)]
    exact ⟨byteAt_vector_t _ _, byteAt_vector_d _ _⟩
  case ready =>
    intro hf
    have h0 := fun i hi => registerByte_ready0 s hf (i := i) hi
    obtain ⟨b0, b1, b2, b3, b4, b7⟩ := word0_bytes s.ready
    exact ⟨(h0 0 (by decide)).trans b0, (h0 1 (by decide)).trans b1, (h0 2 (by decide)).trans b2, (h0 3 (by decide)).trans b3,
      (h0 4 (by decide)).trans b4, (h0 7 (by decide)).trans b7, fun i hi => registerByte_chan s hf hi⟩

/-! ## What the records of queues, districts and launches leave (16 R297, R303, R304, R314 to R316, R347) -/

/-- Teams, launches, READY bits and clock settings are as they were. -/
structure Unmoved (s t : State) : Prop where
  teams : t.teams = s.teams
  launches : t.launches = s.launches
  ready : t.ready = s.ready
  hostClk : t.hostClk = s.hostClk
  freq : t.freq = s.freq

theorem Unmoved.refl (s : State) : Unmoved s s := ⟨rfl, rfl, rfl, rfl, rfl⟩

theorem Unmoved.trans {s t u : State} (h : Unmoved s t) (k : Unmoved t u) : Unmoved s u :=
  ⟨k.teams.trans h.teams, k.launches.trans h.launches, k.ready.trans h.ready, k.hostClk.trans h.hostClk, k.freq.trans h.freq⟩

/-- A later part of a change, after one of other fields. -/
theorem Unmoved.after {s t u : State} (k : Unmoved t u) (h : Unmoved s t) : Unmoved s u := h.trans k

theorem Unmoved.ite {s t u : State} {p : Prop} [Decidable p] (h : Unmoved s t) (k : Unmoved s u) : Unmoved s (if p then t else u) := by
  split
  · exact h
  · exact k

theorem Unmoved.foldl {α : Type} {f : State → α → State} (hf : ∀ s a, Unmoved s (f s a)) (l : List α) (s : State) :
    Unmoved s (l.foldl f s) := by
  induction l generalizing s with
  | nil => exact .refl s
  | cons a l ih => exact (hf s a).trans (ih (f s a))

theorem Unmoved.defer (s : State) (x : Late) : Unmoved s (s.defer x) := ⟨rfl, rfl, rfl, rfl, rfl⟩
theorem Unmoved.pstore (s : State) (pa : Nat) (bs : List Byte) : Unmoved s (s.pstore pa bs) := ⟨rfl, rfl, rfl, rfl, rfl⟩
theorem Unmoved.setPending (s : State) (k : QueueKey) (on : Bool) : Unmoved s (s.setPending k on) := ⟨rfl, rfl, rfl, rfl, rfl⟩
theorem Unmoved.sendIrq (s : State) (f : Fn) (v : Nat) : Unmoved s (s.sendIrq f v) := ⟨rfl, rfl, rfl, rfl, rfl⟩

theorem Unmoved.vstore (s : State) (sp : VSpace) (va : Nat) (bs : List Byte) : Unmoved s (s.vstore sp va bs) := by
  induction bs generalizing s va with
  | nil => exact .refl s
  | cons b bs ih =>
    unfold State.vstore
    split
    · exact (ih _ _).after ⟨rfl, rfl, rfl, rfl, rfl⟩
    · exact ih _ _

theorem Unmoved.vwrite (s : State) (sp : VSpace) (va : Nat) (bs : List Byte) : Unmoved s (s.vwrite sp va bs) :=
  .ite (.vstore s sp va bs) (.defer s _)

theorem Unmoved.pwrite (s : State) (pa : Nat) (bs : List Byte) : Unmoved s (s.pwrite pa bs) :=
  .ite (.pstore s pa bs) (.defer s _)

theorem Unmoved.bumpDistrict (s : State) (d off n : Nat) : Unmoved s (s.bumpDistrict d off n) := by
  unfold State.bumpDistrict
  split
  · exact .refl s
  · exact .ite (.pstore s _ _) (.defer s _)

theorem Unmoved.appendRoute (s : State) (d : Nat) (bs : List Byte) : Unmoved s (s.appendRoute d bs) := by
  unfold State.appendRoute
  split
  · exact .refl s
  · exact .ite ((Unmoved.pstore s _ _).trans (.pstore _ _ _)) (.defer s _)

theorem Unmoved.route (s : State) (e : RbEntry) : Unmoved s (s.route e) := by
  unfold State.route State.putRoute
  split
  · exact .refl s
  · exact (Unmoved.appendRoute { s with ccSeq := _ } e.district _).after ⟨rfl, rfl, rfl, rfl, rfl⟩

theorem Unmoved.putQueue (s : State) (q : Queue) : Unmoved s (s.putQueue q) :=
  .ite ⟨rfl, rfl, rfl, rfl, rfl⟩ ⟨rfl, rfl, rfl, rfl, rfl⟩

theorem Unmoved.noteQueue (s : State) (q : Queue) : Unmoved s (s.noteQueue q) := .vwrite s _ _ _

theorem Unmoved.saveQueue (s : State) (q : Queue) : Unmoved s (s.saveQueue q) :=
  (((Unmoved.vwrite s _ _ _).trans (.noteQueue _ q)).trans (.vwrite _ _ _ _)).trans (.vwrite _ _ _ _)

theorem Unmoved.setQueue (s : State) (q : Queue) : Unmoved s (s.setQueue q) :=
  (Unmoved.putQueue s q).trans (.ite (.refl _) (.saveQueue _ q))

theorem Unmoved.queueError (s : State) (q : Queue) (code field : Nat) : Unmoved s (s.queueError q code field) :=
  ((Unmoved.setQueue s _).trans (.route _ _)).trans (.sendIrq _ _ _)

theorem Unmoved.readWridx (s : State) (k : QueueKey) : Unmoved s (s.readWridx k) := by
  unfold State.readWridx
  exact .ite (.defer s _) (.ite (.putQueue s _) (.queueError s _ _ _))

theorem Unmoved.refill (s : State) (k : QueueKey) : Unmoved s (s.refill k) := .ite (.readWridx s k) (.refl s)

theorem Unmoved.testFence (s : State) (k : QueueKey) : Unmoved s (s.testFence k) :=
  .ite (.refl s) (.ite ((Unmoved.setQueue s _).trans (.refill _ k)) (.setQueue s _))

theorem Unmoved.testFences (s : State) : Unmoved s s.testFences := by
  unfold State.testFences
  refine Unmoved.foldl (fun s q => ?_) s.queues s
  exact .testFence s q.key

theorem Unmoved.mapQueue (s : State) (k : QueueKey) (slot reason : Nat) : Unmoved s (s.mapQueue k slot reason) := by
  unfold State.mapQueue
  exact ((((Unmoved.putQueue s _).trans (.noteQueue _ _)).trans (.setPending _ k false)).trans (.route _ _)).trans (.readWridx _ k)

theorem Unmoved.kickQueue (s : State) (k : QueueKey) : Unmoved s (s.kickQueue k) := by
  unfold State.kickQueue
  split
  · exact .refl s
  · refine .ite (.defer s _) (.ite (.refl s) (.ite (.setPending s k true) (.ite (.readWridx s k) ?_)))
    dsimp only
    split
    · exact (Unmoved.setPending s k true).trans (.mapQueue _ k _ _)
    · exact ((Unmoved.setPending s k true).trans (.setQueue _ _)).trans (.route _ _)

theorem Unmoved.appendRecord (s : State) (sp : VSpace) (fq : Nat) (bs : List Byte) : Unmoved s (s.appendRecord sp fq bs) :=
  .ite (.defer s _) (.ite ((Unmoved.vstore s sp _ _).trans (.vstore _ sp _ _)) (.vstore s sp _ _))

theorem Unmoved.appendEvent (s : State) (base size : Nat) (bs : List Byte) : Unmoved s (s.appendEvent base size bs) :=
  .ite (.defer s _) (.ite ((Unmoved.pstore s _ _).trans (.pstore _ _ _)) (.pstore s _ _))

theorem Unmoved.redo (s : State) (x : Late) : Unmoved s (s.redo x) := by
  cases x with
  | bytes asid link va bs => exact .vwrite s _ va bs
  | phys pa bs => exact .pwrite s pa bs
  | count d off n => exact .bumpDistrict s d off n
  | route d bs => exact .appendRoute s d bs
  | record asid link fq bs => exact .appendRecord s _ fq bs
  | event ring size bs => exact .appendEvent s ring size bs
  | kick k => exact .kickQueue s k

/-- What has waited for a channel moves no team and no clock (R347). -/
theorem Unmoved.catchUp (s : State) : Unmoved s s.catchUp := by
  have h : Unmoved s { s with late := [] } := ⟨rfl, rfl, rfl, rfl, rfl⟩
  exact (h.trans (.foldl Unmoved.redo s.late _)).trans (.testFences _)

/-! ## Registers of a function (00 R5; 16 R326, R327; 17 R344) -/

/-- A function's registers after a change of one function's. -/
theorem State.fnState_modFn (s : State) (f : Fn) {g : FnState → FnState} (hg : ∀ x, (g x).fn = x.fn) (h : Fn) :
    (s.modFn f g).fnState h = if h = f then g (s.fnState f) else s.fnState h := by
  unfold State.modFn State.fnState
  split
  · next hf =>
    have hp : ((fun x : FnState => x.fn == h) ∘ fun x => if x.fn = f then g x else x) = fun x => x.fn == h := by
      funext x
      simp only [Function.comp]
      split <;> simp [hg]
    dsimp only
    rw [List.find?_map, hp]
    obtain ⟨x, hx, hxf⟩ := List.any_eq_true.1 hf
    cases hh : s.fns.find? (fun x => x.fn == h) with
    | none =>
      have : h ≠ f := fun e => by
        have := List.find?_eq_none.1 hh x hx
        simp_all
      simp [this]
    | some y =>
      have hy : y.fn = h := by simpa using List.find?_some hh
      by_cases e : h = f
      · subst e
        simp [hh, hy]
      · simp [hy, e]
  · next hf =>
    have hnone : s.fns.find? (fun x => x.fn == f) = none := by
      rw [List.find?_eq_none]
      exact fun x hx hxf => hf (List.any_eq_true.2 ⟨x, hx, hxf⟩)
    dsimp only
    rw [List.find?_append]
    by_cases e : h = f
    · subst e
      simp [hnone, hg]
    · have he : f ≠ h := Ne.symm e
      cases s.fns.find? (fun x => x.fn == h) <;> simp [e, hg, he]

theorem State.fnState_modFn_self (s : State) (f : Fn) {g : FnState → FnState} (hg : ∀ x, (g x).fn = x.fn) :
    (s.modFn f g).fnState f = g (s.fnState f) := by
  rw [State.fnState_modFn s f hg, if_pos rfl]

theorem State.fnState_modFn_ne (s : State) {f h : Fn} {g : FnState → FnState} (hg : ∀ x, (g x).fn = x.fn) (hh : h ≠ f) :
    (s.modFn f g).fnState h = s.fnState h := by
  rw [State.fnState_modFn s f hg, if_neg hh]

theorem State.modFn_frame (s : State) (f : Fn) (g : FnState → FnState) :
    ({ s.modFn f g with fns := [] } : State) = { s with fns := [] } := by
  unfold State.modFn
  split <;> rfl

theorem leBytes_getD {n i : Nat} (v : Nat) (hi : i < n) : (leBytes v n).getD i 0 = byteAt v i := by
  induction n generalizing v i with
  | zero => omega
  | succ n ih =>
    cases i with
    | zero => simp [leBytes, byteAt]
    | succ i =>
      rw [leBytes, List.getD_cons_succ, ih (v / 256) (by omega), byteAt, byteAt, Nat.div_div_eq_div_mul, Nat.pow_succ, Nat.mul_comm]

/-- A byte of a 64-bit value, taken from its place on. -/
theorem wordByte_extract (val : Dword) (i : Nat) : wordByte (val.extractLsb' (8 * i) 32) 0 = byteAt val.toNat i := by
  apply BitVec.eq_of_toNat_eq
  have hp : 2 ^ (8 * i) = 256 ^ i := by rw [Nat.pow_mul]
  simp only [wordByte, bits, byteAt, BitVec.toNat_ofNat, BitVec.extractLsb'_toNat, Nat.shiftRight_eq_div_pow, hp]
  omega

/-- The bytes of a register window after a write of eight bytes at an offset, cut at the window's end. -/
theorem cellRead_window {base top off : Nat} (l : List Host.Cell) (val : Dword) (hb : base ≤ off) (ht : off < top) (a : Nat) :
    cellRead (cellWrites l (off - base) (leBytes val.toNat (min 8 (top - off)))) a
      = if off ≤ a + base ∧ a + base < min (off + 8) top then wordByte (val.extractLsb' (8 * (a + base - off)) 32) 0
        else cellRead l a := by
  rw [cellRead_cellWrites, leBytes_length]
  by_cases h : off ≤ a + base ∧ a + base < min (off + 8) top
  · rw [if_pos h, if_pos (by omega), leBytes_getD _ (by omega), wordByte_extract, show a - (off - base) = a + base - off by omega]
  · rw [if_neg h, if_neg (by omega)]

theorem registerWrite_ignored {s : State} {off : Nat}
    (h : s.answers = false ∨ off < 0x1008 ∨ (0x1040 ≤ off ∧ off < 0x2000) ∨ 0x2400 ≤ off) (f : Fn) (val : Dword) :
    s.registerWrite f off val = s := by
  unfold State.registerWrite
  dsimp only
  rcases h with h | h
  · rw [if_pos (by simp [h])]
  · split
    · rfl
    · rw [if_neg (by simp; omega), if_neg (by simp; omega)]

theorem registerWrite_args {s : State} {off : Nat} (ha : s.answers = true) (hl : 0x1008 ≤ off) (hu : off < 0x1040) (f : Fn)
    (val : Dword) :
    s.registerWrite f off val = s.modFn f (fun x => { x with mailbox := { x.mailbox with
      args := cellWrites x.mailbox.args (off - 0x1008) (leBytes val.toNat (min 8 (0x1040 - off))) } }) := by
  unfold State.registerWrite
  dsimp only
  rw [if_neg (by simp [ha]), if_pos (by simp [hl, hu])]

theorem registerWrite_msix {s : State} {off : Nat} (ha : s.answers = true) (hl : 0x2000 ≤ off) (hu : off < 0x2400) (f : Fn)
    (val : Dword) :
    s.registerWrite f off val = s.modFn f (fun x => { x with
      msix := cellWrites x.msix (off - 0x2000) (leBytes val.toNat (min 8 (0x2400 - off))) }) := by
  unfold State.registerWrite
  dsimp only
  rw [if_neg (by simp [ha]), if_neg (by simp; omega), if_pos (by simp [hl, hu])]

/-! ## Vectors (16 R326, R327) -/

theorem State.vector_modFn_self (s : State) (f : Fn) (v : Nat) (u : FnState → Vector) :
    ((s.modFn f (fun y => { y with vectors := insertKey y.vectors v (u y) })).fnState f).vector v = u (s.fnState f) := by
  rw [State.fnState_modFn_self]
  · exact lookupD_insertKey_self _ _ _ _
  · exact fun _ => rfl

theorem State.vector_modFn_ne (s : State) (f : Fn) {v w : Nat} (u : FnState → Vector) (h : w ≠ v) :
    ((s.modFn f (fun y => { y with vectors := insertKey y.vectors v (u y) })).fnState f).vector w = (s.fnState f).vector w := by
  rw [State.fnState_modFn_self]
  · exact lookupD_insertKey_ne _ _ _ (Ne.symm h)
  · exact fun _ => rfl

theorem coalesce_ignored {s : State} {v : Nat} {val : Dword}
    (h : s.answers = false ∨ 64 ≤ v ∨ val.extractLsb' 16 8 = 0 ∨ val.extractLsb' 0 16 = 0) (f : Fn) : s.coalesce f v val = s := by
  unfold State.coalesce
  dsimp only
  rw [if_pos]
  simpa [or_assoc] using h

theorem coalesce_sets {s : State} {v : Nat} {val : Dword} (ha : s.answers = true) (hv : v < 64) (ht : val.extractLsb' 16 8 ≠ 0)
    (hd : val.extractLsb' 0 16 ≠ 0) (f : Fn) : s.coalesce f v val = s.modFn f (fun x => { x with
      vectors := insertKey x.vectors v { x.vector v with t := val.extractLsb' 16 8, d := val.extractLsb' 0 16 } }) := by
  unfold State.coalesce
  dsimp only
  rw [if_neg]
  simp only [ha, Bool.not_true, Bool.false_or, Bool.or_eq_true, decide_eq_true_eq, beq_iff_eq, not_or]
  exact ⟨⟨by omega, ht⟩, hd⟩

/-- A vector that fires sends its interrupt and has no completion pending (R326). -/
theorem fireVector_fires (s : State) (f : Fn) (v : Nat) :
    ((s.fireVector f v).fnState f).vector v = { (s.fnState f).vector v with pending := 0 } ∧
    (s.fireVector f v).irqs = s.irqs ++ [{ fn := f, vector := v }] := by
  exact ⟨State.vector_modFn_self s f v (fun x => { x.vector v with pending := 0 }), by simp [State.fireVector]⟩

/-- A vector with one more completion, of the queue `q` (R326, R327). -/
def Vector.counted (x : Vector) (clk : Nat) (q : QueueKey) : Vector :=
  { x with pending := x.pending + 1, due := if x.pending = 0 then clk + x.d.toNat else x.due, last := some q, idleFor := 0 }

theorem addCompletion_eq (s : State) (f : Fn) (v : Nat) (q : QueueKey) :
    s.addCompletion f v q =
      let t := s.modFn f (fun y => { y with vectors := insertKey y.vectors v (((s.fnState f).vector v).counted s.hostClk q) })
      if ((s.fnState f).vector v).t.toNat ≤ ((s.fnState f).vector v).pending + 1 then t.fireVector f v else t := by
  simp [State.addCompletion, Vector.counted]

/-- The completion that brings the pending count to T fires the vector (R326). -/
theorem addCompletion_fires {s : State} {f : Fn} {v : Nat} (q : QueueKey)
    (h : ((s.fnState f).vector v).t.toNat ≤ ((s.fnState f).vector v).pending + 1) :
    (s.addCompletion f v q).irqs = s.irqs ++ [{ fn := f, vector := v }] ∧ (((s.addCompletion f v q).fnState f).vector v).pending = 0 := by
  rw [addCompletion_eq]
  dsimp only
  rw [if_pos h]
  obtain ⟨hv, hi⟩ := fireVector_fires (s.modFn f (fun y => { y with
    vectors := insertKey y.vectors v (((s.fnState f).vector v).counted s.hostClk q) })) f v
  exact ⟨by rw [hi, State.modFn_irqs], by rw [hv]⟩

theorem addCompletion_counts {s : State} {f : Fn} {v : Nat} (q : QueueKey)
    (h : ((s.fnState f).vector v).pending + 1 < ((s.fnState f).vector v).t.toNat) :
    (s.addCompletion f v q).irqs = s.irqs ∧
      ((s.addCompletion f v q).fnState f).vector v = ((s.fnState f).vector v).counted s.hostClk q := by
  rw [addCompletion_eq]
  dsimp only
  rw [if_neg (by omega)]
  exact ⟨State.modFn_irqs _ _ _, State.vector_modFn_self s f v (fun _ => ((s.fnState f).vector v).counted s.hostClk q)⟩

theorem vectorDelay_eq (s : State) (f : Fn) (v : Nat) : s.vectorDelay f v =
    if ((s.fnState f).vector v).pending ≠ 0 ∧ ((s.fnState f).vector v).due ≤ s.hostClk then s.fireVector f v else s := by
  simp [State.vectorDelay]

theorem vectorIdle_fires {s : State} {f : Fn} {v : Nat} {k : QueueKey} (hp : ((s.fnState f).vector v).pending ≠ 0)
    (hl : ((s.fnState f).vector v).last = some k) (hq : s.queueIdle k = true) : s.vectorIdle f v = s.fireVector f v := by
  unfold State.vectorIdle
  rw [if_pos]
  simp [State.vectorRests, hp, hl, hq]

theorem vectorIdle_waits {s : State} {f : Fn} {v : Nat} (h : ((s.fnState f).vector v).pending = 0 ∨
    ((s.fnState f).vector v).last = none ∨ ∃ k, ((s.fnState f).vector v).last = some k ∧ s.queueIdle k = false) :
    s.vectorIdle f v = s := by
  unfold State.vectorIdle
  rw [if_neg]
  rcases h with h | h | ⟨k, hk, hq⟩
  · simp [State.vectorRests, h]
  · simp [State.vectorRests, h]
  · simp [State.vectorRests, hk, hq]

/-! ## Clock steps and repayment (00 R14, R15; 16 R330) -/

/-- A launch repaid for time that a lowered clock took from it. -/
def Launch.repaid (l : Launch) (n loss : Nat) : Launch := if l.num = n then { l with loss := l.loss + loss } else l

/-- The time that one launch is repaid for when a clock that stood at `freq` from `since` on is set. -/
def State.lossOf (s : State) (freq since : Nat) (l : Launch) : Nat := lostTime freq (max since l.since) s.hostClk

/-- The repayment of one launch, as `State.repay` makes it. -/
def State.repayOne (freq since : Nat) (s : State) (l : Launch) : State :=
  if s.lossOf freq since l == 0 then s
  else
    let loss := s.lossOf freq since l
    let s := s.modLaunch l.num (fun l => { l with loss := l.loss + loss })
    let q := s.queue l.queue
    let s := (s.setQueue { q with repaid := q.repaid + loss }).bumpDistrict l.queue.district 0x40 loss
    s.route (rbQueue l.queue 7 5 loss q.slot)

/-- The running launches that have a team on a cluster. -/
def State.heated (s : State) (c : Nat) : List Launch := s.launches.filter (fun l => l.phase == .running && s.runsOn l c)

theorem State.repay_eq (s : State) (c : Nat) : s.repay c =
    let t := (s.heated c).foldl (State.repayOne (s.freq.getD c 1100) (s.freqSince.getD c 0)) s
    { t with freqSince := setPad t.freqSince c t.hostClk 0 } := rfl

theorem Launch.repaid_zero (l : Launch) (n : Nat) : l.repaid n 0 = l := by
  unfold Launch.repaid
  split <;> rfl

/-- A repayment changes no team, no clock and no READY bit, and of the launches only the loss of its own. -/
theorem State.repayOne_unmoved (freq since : Nat) (s : State) (l : Launch) :
    Unmoved { s with launches := s.launches.map (fun x => x.repaid l.num (s.lossOf freq since l)) } (s.repayOne freq since l) := by
  unfold State.repayOne
  split
  · next h =>
    have h0 : s.lossOf freq since l = 0 := by simpa using h
    exact ⟨rfl, by simp only [h0, Launch.repaid_zero, List.map_id'], rfl, rfl, rfl⟩
  · exact ((Unmoved.setQueue (s.modLaunch l.num _) _).trans (.bumpDistrict _ _ _ _)).trans (.route _ _)

theorem find?_map_repaid (ls : List Launch) (m n loss : Nat) :
    (ls.map (fun x => x.repaid n loss)).find? (fun l => l.num == m) = (ls.find? (fun l => l.num == m)).map (fun x => x.repaid n loss) := by
  have hp : ((fun l : Launch => l.num == m) ∘ fun x : Launch => x.repaid n loss) = fun l : Launch => l.num == m := by
    funext x
    simp only [Function.comp, Launch.repaid]
    split <;> rfl
  rw [List.find?_map, hp]

theorem State.repayOne_launch? (freq since : Nat) (s : State) (l : Launch) (n : Nat) :
    (s.repayOne freq since l).launch? n = (s.launch? n).map (fun x => x.repaid l.num (s.lossOf freq since l)) := by
  unfold State.launch?
  rw [(s.repayOne_unmoved freq since l).launches]
  exact find?_map_repaid s.launches n l.num _

/-- What repayments of several launches leave. -/
structure Repays (s t : State) : Prop where
  teams : t.teams = s.teams
  ready : t.ready = s.ready
  hostClk : t.hostClk = s.hostClk
  freq : t.freq = s.freq

theorem State.foldl_repayOne_repays (freq since : Nat) (ls : List Launch) (s : State) :
    Repays s (ls.foldl (State.repayOne freq since) s) := by
  induction ls generalizing s with
  | nil => exact ⟨rfl, rfl, rfl, rfl⟩
  | cons l ls ih =>
    obtain ⟨ht, _, hr, hc, hf⟩ := s.repayOne_unmoved freq since l
    obtain ⟨it, ir, ic, jf⟩ := ih (s.repayOne freq since l)
    exact ⟨it.trans ht, ir.trans hr, ic.trans hc, jf.trans hf⟩

theorem State.foldl_repayOne_other (freq since : Nat) {ls : List Launch} {n : Nat} (hn : n ∉ ls.map (·.num)) (s : State) :
    ((ls.foldl (State.repayOne freq since) s).launch? n).map (·.loss) = (s.launch? n).map (·.loss) := by
  induction ls generalizing s with
  | nil => rfl
  | cons l ls ih =>
    simp only [List.map_cons, List.mem_cons, not_or] at hn
    rw [List.foldl_cons, ih hn.2, State.repayOne_launch?]
    cases h : s.launch? n with
    | none => rfl
    | some x =>
      have hx : x.num = n := by simpa using List.find?_some h
      simp [Launch.repaid, hx, hn.1]

/-- A launch that is among those repaid, once, is repaid its own loss. -/
theorem State.foldl_repayOne_mem (freq since : Nat) {ls : List Launch} {l : Launch} (hl : l ∈ ls) (hn : (ls.map (·.num)).Nodup)
    (s : State) : ((ls.foldl (State.repayOne freq since) s).launch? l.num).map (·.loss)
      = (s.launch? l.num).map (fun x => x.loss + s.lossOf freq since l) := by
  induction ls generalizing s with
  | nil => cases hl
  | cons k ls ih =>
    simp only [List.map_cons, List.nodup_cons] at hn
    rw [List.foldl_cons]
    rcases List.mem_cons.1 hl with rfl | hm
    · rw [State.foldl_repayOne_other freq since hn.1, State.repayOne_launch?]
      cases h : s.launch? l.num with
      | none => rfl
      | some x =>
        have hx : x.num = l.num := by simpa using List.find?_some h
        simp [Launch.repaid, hx]
    · have hne : l.num ≠ k.num := fun e => hn.1 (e ▸ List.mem_map_of_mem hm)
      have hloss : (s.repayOne freq since k).lossOf freq since l = s.lossOf freq since l := by
        unfold State.lossOf
        rw [(s.repayOne_unmoved freq since k).hostClk]
      rw [ih hm hn.2, State.repayOne_launch?, hloss]
      cases h : s.launch? l.num with
      | none => rfl
      | some x =>
        have hx : x.num = l.num := by simpa using List.find?_some h
        simp [Launch.repaid, hx, hne]

theorem State.repay_repays (s : State) (c : Nat) : Repays s (s.repay c) := by
  obtain ⟨ht, hr, hc, hf⟩ := State.foldl_repayOne_repays (s.freq.getD c 1100) (s.freqSince.getD c 0) (s.heated c) s
  rw [State.repay_eq]
  exact ⟨ht, hr, hc, hf⟩

/-- Launches whose numbers differ are one where their numbers are one. -/
theorem launch_eq_of_num {ls : List Launch} (hn : (ls.map (·.num)).Nodup) {k l : Launch} (hk : k ∈ ls) (hl : l ∈ ls)
    (h : k.num = l.num) : k = l := by
  induction ls with
  | nil => cases hk
  | cons x ls ih =>
    obtain ⟨hx, hn⟩ := List.nodup_cons.1 hn
    rcases List.mem_cons.1 hk with rfl | hk' <;> rcases List.mem_cons.1 hl with rfl | hl'
    · rfl
    · exact (hx (List.mem_map.2 ⟨_, hl', h.symm⟩)).elim
    · exact (hx (List.mem_map.2 ⟨_, hk', h⟩)).elim
    · exact ih hn hk' hl'

/-- A running launch is repaid where it runs on the cluster, and no other is (R330). -/
theorem State.repay_loss {s : State} {n : Nat} {l : Launch} (c : Nat) (hn : (s.launches.map (·.num)).Nodup) (hl : s.launch? n = some l)
    (hp : l.phase = .running) : ((s.repay c).launch? n).map (·.loss) =
      some (if s.runsOn l c then l.loss + s.lossOf (s.freq.getD c 1100) (s.freqSince.getD c 0) l else l.loss) := by
  have hm : l ∈ s.launches := List.mem_of_find?_eq_some hl
  have hnum : l.num = n := by simpa using List.find?_some hl
  have hrep : ((s.repay c).launch? n).map (·.loss)
      = (((s.heated c).foldl (State.repayOne (s.freq.getD c 1100) (s.freqSince.getD c 0)) s).launch? n).map (·.loss) := by
    rw [State.repay_eq]
    rfl
  rw [hrep]
  by_cases hr : s.runsOn l c = true
  · have hh : l ∈ s.heated c := List.mem_filter.2 ⟨hm, by simp [hp, hr]⟩
    have hsub : ((s.heated c).map (·.num)).Nodup := hn.sublist (List.filter_sublist.map _)
    rw [← hnum, State.foldl_repayOne_mem _ _ hh hsub, hnum, hl, if_pos hr]
    rfl
  · have hh : n ∉ (s.heated c).map (·.num) := by
      rintro hk
      obtain ⟨k, hk, hkn⟩ := List.mem_map.1 hk
      obtain ⟨hk, hc⟩ := List.mem_filter.1 hk
      have : k = l := launch_eq_of_num hn hk hm (hkn.trans hnum.symm)
      subst this
      simp [hr] at hc
    rw [State.foldl_repayOne_other _ _ hh, hl, if_neg hr]
    rfl

/-- One step of a clock, between 550 MHz and 1.1 GHz (R14). -/
def stepFreq (up : Bool) (f : Nat) : Nat := if up then min 1100 (f + 50) else max 550 (f - 50)

theorem stepClock_ignored {s : State} {c : Nat} (h : s.ready.trip = true ∨ 8 ≤ c) (up : Bool) : s.stepClock c up = s := by
  unfold State.stepClock
  rw [if_pos (by simpa [or_comm] using h)]

theorem stepClock_eq {s : State} {c : Nat} (ht : s.ready.trip = false) (hc : c < 8) (up : Bool) :
    s.stepClock c up = { s.repay c with freq := modAt (s.repay c).freq c (stepFreq up) } := by
  unfold State.stepClock
  rw [if_neg (by simp [ht]; omega)]
  rfl

theorem modAt_getD {l : List Nat} {i j : Nat} (f : Nat → Nat) (hj : j < l.length) :
    (modAt l i f).getD j 0 = if j = i then f (l.getD j 0) else l.getD j 0 := by
  simp only [List.getD_eq_getElem?_getD]
  by_cases h : j = i
  · subst h
    rw [modAt_getElem?_self]
    simp [hj]
  · rw [modAt_getElem?_ne _ _ (Ne.symm h), if_neg h]

/-- What a step of a cluster's clock leaves, and the clocks after it. -/
theorem stepClock_freq {s : State} (hl : s.freq.length = 8) (c : Nat) (up : Bool) (ht : s.ready.trip = false) :
    (s.stepClock c up).teams = s.teams ∧ (s.stepClock c up).ready = s.ready ∧ (s.stepClock c up).freq.length = 8 ∧
    ∀ j, j < 8 → (s.stepClock c up).freq.getD j 0 = if j = c then stepFreq up (s.freq.getD j 0) else s.freq.getD j 0 := by
  by_cases hc : c < 8
  · obtain ⟨rt, rr, _, rf⟩ := s.repay_repays c
    rw [stepClock_eq ht hc, rf]
    exact ⟨rt, rr, by simpa using hl, fun j hj => modAt_getD (stepFreq up) (by omega)⟩
  · rw [stepClock_ignored (.inr (by omega))]
    exact ⟨rfl, rfl, hl, fun j hj => by rw [if_neg (by omega)]⟩

/-- Lowering some clocks, each once, lowers those and no others (R15). -/
theorem foldl_stepClock {cs : List Nat} (hn : cs.Nodup) {s : State} (hl : s.freq.length = 8) (ht : s.ready.trip = false) :
    (cs.foldl (fun s c => s.stepClock c false) s).teams = s.teams ∧
    ∀ j, j < 8 → (cs.foldl (fun s c => s.stepClock c false) s).freq.getD j 0
      = if j ∈ cs then stepFreq false (s.freq.getD j 0) else s.freq.getD j 0 := by
  induction cs generalizing s with
  | nil => exact ⟨rfl, fun j _ => by simp⟩
  | cons c cs ih =>
    obtain ⟨hc, hn⟩ := List.nodup_cons.1 hn
    obtain ⟨st, sr, sl, sf⟩ := stepClock_freq hl c false ht
    obtain ⟨it, jf⟩ := ih hn sl (by rw [sr, ht])
    refine ⟨it.trans st, fun j hj => ?_⟩
    rw [List.foldl_cons, jf j hj, sf j hj]
    by_cases h : j = c
    · subst h
      simp [hc]
    · simp [h]

/-! ## Setting a bit of READY (17 R346) -/

theorem getLsbD_setBit {n i j : Nat} (b : BitVec n) (hi : i < n) : (setBit b i).getLsbD j = (b.getLsbD j || decide (i = j)) := by
  have h : setBit b i = b ||| BitVec.twoPow n i := rfl
  rw [h, BitVec.getLsbD_or, BitVec.getLsbD_twoPow]
  simp [hi]

theorem setBit_sets {n i : Nat} (b : BitVec n) (hi : i < n) :
    (setBit b i).getLsbD i = true ∧ ∀ j, j ≠ i → (setBit b i).getLsbD j = b.getLsbD j :=
  ⟨by simp [getLsbD_setBit b hi], fun j hj => by simp [getLsbD_setBit b hi, Ne.symm hj]⟩

/-! ## What a trained unit sets (17 R346, R347) -/

theorem Group.unchannel_hold (g : Group) : g.unchannel.hold ≠ some .channel := by
  unfold Group.unchannel
  split
  · simp
  · assumption

theorem Team.group?_mapGroups (t : Team) (f : Group → Group) (p g : Nat) : (t.mapGroups f).group? p g = (t.group? p g).map f := by
  simp only [Team.group?, Team.mapGroups, Team.modCur, List.getElem?_map, Option.bind_map, Option.map_bind]
  congr 1
  funext q
  simp

/-- No group waits for a channel once every group of every team has been let go. -/
theorem hold_of_unchannel {s t : State} (ht : t.teams = s.teams.map (fun m => m.mapGroups Group.unchannel)) {r : GroupRef} {g : Group}
    (hg : t.group? r = some g) : g.hold ≠ some .channel := by
  unfold State.group? State.team? at hg
  rw [ht] at hg
  obtain ⟨m, hm, hg⟩ := Option.bind_eq_some_iff.1 hg
  obtain ⟨m₀, _, rfl⟩ := List.mem_map.1 (List.mem_of_find?_eq_some hm)
  rw [Team.group?_mapGroups] at hg
  obtain ⟨g₀, _, rfl⟩ := Option.map_eq_some_iff.1 hg
  exact g₀.unchannel_hold

theorem trained_ready (s : State) (u : TrainedUnit) : (s.trained u).ready = (s.setReady u).noteDone.ready := by
  cases u with
  | channel i => exact (Unmoved.catchUp _).ready
  | _ => rfl

theorem trained_done (s : State) (u : TrainedUnit) :
    (s.trained u).ready.done = (s.ready.done || (s.trained u).ready.full) := by
  have h : (s.setReady u).ready.done = s.ready.done := by cases u <;> rfl
  rw [trained_ready, ← h]
  rfl

theorem trained_channel_teams (s : State) (i : Nat) :
    (s.trained (.channel i)).teams = s.teams.map (fun m => m.mapGroups Group.unchannel) := (Unmoved.catchUp _).teams

/-- A unit's own bit is set, no other bit of its register changes, and a port learns its partner's size (R346). -/
def TrainedBits (u : TrainedUnit) (s t : State) : Prop :=
  match u with
  | .cluster i => i < 8 → t.ready.clu.getLsbD i = true ∧ ∀ j, j ≠ i → t.ready.clu.getLsbD j = s.ready.clu.getLsbD j
  | .channel i => i < 192 → t.ready.chan.getLsbD i = true ∧ ∀ j, j ≠ i → t.ready.chan.getLsbD j = s.ready.chan.getLsbD j
  | .hostLink i => i < 2 → t.ready.link.getLsbD i = true ∧ ∀ j, j ≠ i → t.ready.link.getLsbD j = s.ready.link.getLsbD j
  | .cxl i n => i < 4 → t.ready.cxl.getLsbD i = true ∧ (∀ j, j ≠ i → t.ready.cxl.getLsbD j = s.ready.cxl.getLsbD j) ∧
      ∀ z, n = some z → lookupD t.cxlSize i 0 = z
  | .peer i n => i < 16 → t.ready.peer.getLsbD i = true ∧ (∀ j, j ≠ i → t.ready.peer.getLsbD j = s.ready.peer.getLsbD j) ∧
      ∀ z, n = some z → lookupD t.peerSize i 0 = z

theorem trained_bits (s : State) (u : TrainedUnit) : TrainedBits u s (s.trained u) := by
  unfold TrainedBits
  rw [trained_ready]
  cases u with
  | cluster i => exact fun hi => setBit_sets s.ready.clu hi
  | channel i => exact fun hi => setBit_sets s.ready.chan hi
  | hostLink i => exact fun hi => setBit_sets s.ready.link hi
  | cxl i n =>
    refine fun hi => ⟨(setBit_sets s.ready.cxl hi).1, (setBit_sets s.ready.cxl hi).2, ?_⟩
    rintro z rfl
    exact lookupD_insertKey_self _ _ _ _
  | peer i n =>
    refine fun hi => ⟨(setBit_sets s.ready.peer hi).1, (setBit_sets s.ready.peer hi).2, ?_⟩
    rintro z rfl
    exact lookupD_insertKey_self _ _ _ _

/-! ## Reset (17 R346, R352) -/

theorem bootOk_iff (s : State) : s.bootOk = true ↔ Config.bootSignatureValid s.free = true ∧
    s.fwMin ≤ Config.bootImageVersion s.free ∧ Config.bootImageLength s.free ≤ 2 ^ 24 := by
  simp [State.bootOk, State.accepts, and_assoc]

/-! ## Row activation (19 R383) -/

@[simp] theorem State.rows_insert (s : State) (ch : Nat) (r : RowAct) :
    ({ s with rowAct := insertKey s.rowAct ch r } : State).rows ch = r := lookupD_insertKey_self _ _ _ _

theorem RowAct.count_setCount (r : RowAct) (bank row n : Nat) : (r.setCount bank row n).count bank row = n := by
  have hf : (r.counts.filter (fun e => e.1 != (bank, row))).find? (fun e => e.1 == (bank, row)) = none := by
    rw [List.find?_eq_none]
    intro e he
    simpa using (List.mem_filter.1 he).2
  unfold RowAct.setCount RowAct.count
  dsimp only
  by_cases hn : n = 0
  · rw [if_pos (by simpa using hn), hf]
    exact hn.symm
  · rw [if_neg (by simpa using hn), List.find?_append, hf]
    simp

theorem rowServes_iff (s : State) (ch bank row : Nat) :
    s.rowServes ch bank row = true ↔ ch < 192 ∧ bank < 16 ∧ row < 2 ^ 20 ∧ bank ∉ (s.rows ch).backoff := by
  simp [State.rowServes, and_assoc]

theorem rowAlert_ignored {s : State} {ch bank row : Nat}
    (h : ¬ (s.rowServes ch bank row = true ∧ (s.rows ch).count bank row = 1023)) : s.rowAlert ch bank row = s := by
  unfold State.rowAlert
  dsimp only
  rw [if_pos]
  by_cases hs : s.rowServes ch bank row = true
  · simpa [hs] using h
  · simp [hs]

/-- The registers of a channel after an alert. -/
def RowAct.alerted (r : RowAct) (clk bank row : Nat) : RowAct :=
  { r.setCount bank row 0 with
    alerts := r.alerts + 1, rfms := r.rfms + BitVec.ofNat 32 (min row 2 + 2), bank := BitVec.ofNat 4 bank, row := BitVec.ofNat 20 row
    cycle := BitVec.ofNat 32 clk, backoff := r.backoff ++ [bank] }

/-- BANK and ROW name the row, its count starts again, and its neighbours on both sides are refreshed (R383). -/
theorem RowAct.alerted_row (r : RowAct) (clk : Nat) {bank row : Nat} (hb : bank < 16) (hr : row < 2 ^ 20) :
    (2 ≤ row → (r.alerted clk bank row).rfms = r.rfms + 4) ∧ (r.alerted clk bank row).bank.toNat = bank ∧
    (r.alerted clk bank row).row.toNat = row ∧ (r.alerted clk bank row).count bank row = 0 := by
  refine ⟨fun h => ?_, (BitVec.toNat_ofNat _ _).trans (Nat.mod_eq_of_lt hb), (BitVec.toNat_ofNat _ _).trans (Nat.mod_eq_of_lt hr),
    RowAct.count_setCount r bank row 0⟩
  simp only [RowAct.alerted, Nat.min_eq_right h]
  rfl

theorem rowAlert_alerts {s : State} {ch bank row : Nat} (hs : s.rowServes ch bank row = true) (hc : (s.rows ch).count bank row = 1023) :
    (s.rowAlert ch bank row).mem = s.mem ∧
    (s.rowAlert ch bank row).rows ch = (s.rows ch).alerted (lookupD s.chanClk ch 0) bank row ∧
    (s.rowAlert ch bank row).lastError.mech = 32 ∧ (s.rowAlert ch bank row).lastError.unit = ch := by
  unfold State.rowAlert
  dsimp only
  rw [if_neg (by simp [hs, hc])]
  exact ⟨rfl, lookupD_insertKey_self _ _ _ _, rfl, rfl⟩

theorem activate_counts {s : State} {ch bank row : Nat} (hs : s.rowServes ch bank row = true) (hc : (s.rows ch).count bank row ≠ 1023) :
    s.activate ch bank row = { s with
      rowAct := insertKey s.rowAct ch ((s.rows ch).setCount bank row ((s.rows ch).count bank row + 1)) } := by
  unfold State.activate
  rw [if_neg (by simp [hs]), if_neg (by simpa using hc)]

theorem activate_alerts {s : State} {ch bank row : Nat} (hs : s.rowServes ch bank row = true) (hc : (s.rows ch).count bank row = 1023) :
    s.activate ch bank row = s.rowAlert ch bank row := by
  unfold State.activate
  rw [if_neg (by simp [hs]), if_pos (by simpa using hc)]

theorem onDie_off {s : State} (h : s.ready.trip = true) (f : State → State) : s.onDie f = s := if_pos h

theorem onDie_on {s : State} (h : s.ready.trip = false) (f : State → State) : s.onDie f = f s := if_neg (by simp [h])

theorem step_activate {s : State} {ch bank row : Nat} {rest : List Act} (h : s.agenda = .activate ch bank row :: rest)
    (ht : s.ready.trip = false) : step s = .next (({ s with agenda := rest } : State).activate ch bank row) := by
  unfold step
  rw [h]
  exact congrArg Host.Outcome.next (if_neg (by simp [ht]))

/-! ## Scrubs (19 R379) -/

/-- An error lies at an address of a channel. -/
def onChannel (ch : Nat) (e : DataErr) : Bool := decide (e.loc.toNat < Config.lpddrBytes) && e.loc.toNat / 2048 % 192 == ch

/-- A mechanism's corrected and uncorrected counts with one more error (R381). -/
def countsWith (n : Word × Word) (fatal : Bool) : Word × Word := if fatal then (n.1, n.2 + 1) else (n.1 + 1, n.2)

theorem find?_insertKey_isSome {β : Type} (l : List (Nat × β)) (k j : Nat) (v : β) :
    ((insertKey l k v).find? (fun e => e.1 == j)).isSome = (decide (k = j) || (l.find? (fun e => e.1 == j)).isSome) := by
  induction l with
  | nil => by_cases h : k = j <;> simp [insertKey, h]
  | cons e t ih =>
    simp only [insertKey]
    split
    · next he =>
      subst he
      by_cases h : e.1 = j <;> simp [h]
    · by_cases h : e.1 = j <;> simp [h, ih]

/-- A sector stays marked when another is, and the one that is marked is (R380). -/
theorem sectorPoison_poisonSector (s : State) (key src k : Nat) :
    ((s.poisonSector key src).sectorPoison k).isSome = (decide (key / 32 = k / 32) || (s.sectorPoison k).isSome) := by
  simp only [State.sectorPoison, State.poisonSector_memPoison, Option.isSome_map, find?_insertKey_isSome]

theorem scrubbed_elsewhere {e : DataErr} {ch : Nat} (h : onChannel ch e = false) (s : State) : s.scrubbed ch e = s := by
  unfold State.scrubbed
  rw [if_pos]
  simp only [onChannel, Bool.and_eq_false_iff, decide_eq_false_iff_not, Nat.not_lt] at h
  simpa [chanOf, or_comm] using h

/-- An error of a channel is counted there, and marks nothing yet (R381). -/
theorem countErr_channel (s : State) (ch : Nat) (e : DataErr) :
    (s.countErr 0 { e with mech := 8, unit := ch }).mem = s.mem ∧
    (s.countErr 0 { e with mech := 8, unit := ch }).memPoison = s.memPoison ∧
    lookupD (s.countErr 0 { e with mech := 8, unit := ch }).errs 8 (0, 0) = countsWith (lookupD s.errs 8 (0, 0)) e.fatal := by
  have hf : uncorrected { e with mech := 8, unit := ch } = e.fatal := by simp [uncorrected]
  refine ⟨rfl, rfl, ?_⟩
  have hc := congrArg (countsWith (lookupD s.errs 8 (0, 0))) hf
  exact (lookupD_insertKey_self s.errs 8 _ (0, 0)).trans hc

theorem scrubbed_eq {e : DataErr} {ch : Nat} (h : onChannel ch e = true) (s : State) : s.scrubbed ch e =
    if e.fatal then (s.countErr 0 { e with mech := 8, unit := ch }).poisonSector (physKey 0 e.loc.toNat) 0
    else s.countErr 0 { e with mech := 8, unit := ch } := by
  simp only [onChannel, Bool.and_eq_true, decide_eq_true_eq, beq_iff_eq] at h
  unfold State.scrubbed
  rw [if_neg (by simp [chanOf, h.1, h.2])]
  rfl

/-- What a scrub finds on its channel is counted, and marked where it cannot be corrected. -/
theorem scrubbed_here {e : DataErr} {ch : Nat} (h : onChannel ch e = true) (s : State) :
    (s.scrubbed ch e).mem = s.mem ∧ lookupD (s.scrubbed ch e).errs 8 (0, 0) = countsWith (lookupD s.errs 8 (0, 0)) e.fatal ∧
    (∀ k, (s.sectorPoison k).isSome = true → ((s.scrubbed ch e).sectorPoison k).isSome = true) ∧
    (e.fatal = true → ((s.scrubbed ch e).sectorPoison (physKey 0 e.loc.toNat)).isSome = true) := by
  obtain ⟨hm, hp, he⟩ := countErr_channel s ch e
  rw [scrubbed_eq h]
  generalize s.countErr 0 { e with mech := 8, unit := ch } = u at hm hp he ⊢
  have hu : ∀ k, u.sectorPoison k = s.sectorPoison k := fun k => by unfold State.sectorPoison; rw [hp]
  split
  · refine ⟨hm, he, fun k hk => ?_, fun _ => ?_⟩
    · rw [sectorPoison_poisonSector, hu, hk, Bool.or_true]
    · simp [sectorPoison_poisonSector]
  · next hf => exact ⟨hm, he, fun k hk => (hu k).symm ▸ hk, fun h => absurd h hf⟩

/-- The counts after several errors (R381). -/
theorem countsWith_foldl (es : List DataErr) (n : Word × Word) : es.foldl (fun n e => countsWith n e.fatal) n =
    (n.1 + BitVec.ofNat 32 (es.filter (fun e => !e.fatal)).length, n.2 + BitVec.ofNat 32 (es.filter (·.fatal)).length) := by
  induction es generalizing n with
  | nil => simp
  | cons e es ih =>
    rw [List.foldl_cons, ih]
    cases h : e.fatal <;> simp [countsWith, h, BitVec.ofNat_add, BitVec.add_assoc, BitVec.add_comm]

/-- What a scrub leaves: memory, the counts of what it found on its channel, and the marks. -/
theorem foldl_scrubbed (ch : Nat) (found : List DataErr) (s : State) :
    (found.foldl (fun s e => s.scrubbed ch e) s).mem = s.mem ∧
    lookupD (found.foldl (fun s e => s.scrubbed ch e) s).errs 8 (0, 0)
      = (found.filter (onChannel ch)).foldl (fun n e => countsWith n e.fatal) (lookupD s.errs 8 (0, 0)) ∧
    (∀ k, (s.sectorPoison k).isSome = true → ((found.foldl (fun s e => s.scrubbed ch e) s).sectorPoison k).isSome = true) ∧
    ∀ e ∈ found.filter (onChannel ch), e.fatal = true →
      ((found.foldl (fun s e => s.scrubbed ch e) s).sectorPoison (physKey 0 e.loc.toNat)).isSome = true := by
  induction found generalizing s with
  | nil => exact ⟨rfl, rfl, fun _ h => h, fun e he => by cases he⟩
  | cons e es ih =>
    cases h : onChannel ch e with
    | false =>
      rw [List.foldl_cons, scrubbed_elsewhere h, List.filter_cons_of_neg (by simp [h])]
      exact ih s
    | true =>
      obtain ⟨hm, hc, hk, hp⟩ := scrubbed_here h s
      obtain ⟨im, ic, ik, ip⟩ := ih (s.scrubbed ch e)
      rw [List.foldl_cons, List.filter_cons_of_pos h]
      refine ⟨im.trans hm, by rw [ic, hc]; rfl, fun k hs => ik k (hk k hs), fun d hd hf => ?_⟩
      rcases List.mem_cons.1 hd with rfl | hd
      · exact ik _ (hp hf)
      · exact ip d hd hf

/-- Settles O54: each event is its function on the state, which is ignored outside its conditions and else changes what its
rule says. -/
theorem deviceEvents : Obligations.DeviceEvents := by
  intro s
  refine ⟨fun f off val => ⟨?writeIgnored, ?writeArgs, ?writeMsix⟩, fun f v val => ⟨?coalesceIgnored, ?coalesceSets⟩,
    fun f v => ⟨fun q => ⟨?counts, ?countFires⟩, ?delayFires, ?delayWaits, ?idleFires, ?idleWaits⟩,
    fun c up => ⟨?thermalIgnored, ?thermalSteps⟩, fun cs => ⟨?powerIgnored, ?powerSteps⟩, ⟨_, rfl, rfl⟩, ?reset,
    fun u => ⟨?trainedIgnored, ?trainedSets⟩,
    fun ch bank row => ⟨?alertIgnored, ?dieOff, ?activates, ?alerts, ?backoffEnds, ?windowStarts⟩,
    fun ch found => ⟨?scrubIgnored, ?scrubs⟩⟩
  case writeIgnored => exact fun h => congrArg Host.Outcome.next (registerWrite_ignored h f val)
  case writeArgs =>
    intro ha hl hu
    refine ⟨_, congrArg Host.Outcome.next (registerWrite_args ha hl hu f val), fun g hg => ?_, State.modFn_frame s f _, fun a => ?_⟩
    · exact State.fnState_modFn_ne s (fun _ => rfl) hg
    · rw [State.fnState_modFn_self]
      · exact cellRead_window _ val hl hu a
      · exact fun _ => rfl
  case writeMsix =>
    intro ha hl hu
    refine ⟨_, congrArg Host.Outcome.next (registerWrite_msix ha hl hu f val), fun a => ?_⟩
    rw [State.fnState_modFn_self]
    · exact cellRead_window _ val hl hu a
    · exact fun _ => rfl
  case coalesceIgnored => exact fun h => congrArg Host.Outcome.next (coalesce_ignored h f)
  case coalesceSets =>
    intro ha hv ht hd
    exact ⟨_, congrArg Host.Outcome.next (coalesce_sets ha hv ht hd f),
      State.vector_modFn_self s f v (fun x => { x.vector v with t := _, d := _ }), fun w hw => State.vector_modFn_ne s f _ hw⟩
  case counts => exact fun h => addCompletion_counts q h
  case countFires => exact fun h => addCompletion_fires q h
  case delayFires =>
    exact fun hp hd => ⟨_, congrArg Host.Outcome.next ((vectorDelay_eq s f v).trans (if_pos ⟨hp, hd⟩)), fireVector_fires s f v⟩
  case delayWaits =>
    intro h
    refine congrArg Host.Outcome.next ((vectorDelay_eq s f v).trans (if_neg ?_))
    rintro ⟨hp, hd⟩
    rcases h with h | h
    · exact hp h
    · omega
  case idleFires => exact fun k hp hl hq => ⟨_, congrArg Host.Outcome.next (vectorIdle_fires hp hl hq), fireVector_fires s f v⟩
  case idleWaits => exact fun h => congrArg Host.Outcome.next (vectorIdle_waits h)
  case thermalIgnored => exact fun h => congrArg Host.Outcome.next (stepClock_ignored h up)
  case thermalSteps =>
    intro ht hc hl
    obtain ⟨htm, _, _, hf⟩ := stepClock_freq hl c up ht
    refine ⟨_, rfl, htm, hf, fun n l hn hl hp => ?_⟩
    have hlaunch : (s.stepClock c up).launch? n = (s.repay c).launch? n := by
      rw [stepClock_eq ht hc]
      rfl
    rw [hlaunch]
    exact State.repay_loss c hn hl hp
  case powerIgnored => exact fun h => congrArg Host.Outcome.next (if_neg (by simp [h]))
  case powerSteps =>
    intro hfw hl hn
    have ht : s.ready.trip = false := by
      simp only [State.fwUp, Bool.and_eq_true, Bool.not_eq_true'] at hfw
      exact hfw.2
    exact ⟨_, congrArg Host.Outcome.next (if_pos hfw), foldl_stepClock hn hl ht⟩
  case reset =>
    exact ⟨_, rfl, rfl, rfl, rfl, rfl, rfl, rfl, rfl, rfl, rfl, rfl, rfl, rfl, rfl, rfl, rfl, rfl,
      by simp only [State.deviceReset, bootOk_iff]⟩
  case trainedIgnored => exact fun h => congrArg Host.Outcome.next (if_pos h)
  case trainedSets =>
    intro ht
    refine ⟨s.trained u, congrArg Host.Outcome.next (if_neg (by simp [ht])), trained_done s u, ?_, ?_⟩
    · rintro i rfl r g hg
      exact hold_of_unchannel (trained_channel_teams s i) hg
    · have hb := trained_bits s u
      cases u <;> exact hb
  case alertIgnored =>
    intro h
    refine congrArg Host.Outcome.next ?_
    cases ht : s.ready.trip with
    | true => exact onDie_off ht _
    | false =>
      rw [onDie_on ht]
      refine rowAlert_ignored (fun hr => ?_)
      obtain ⟨hch, hbank, hrow, hb⟩ := (rowServes_iff s ch bank row).1 hr.1
      rcases h with h | h | h | h | h | h
      · omega
      · omega
      · omega
      · exact hb h
      · exact h hr.2
      · rw [ht] at h; cases h
  case dieOff => exact fun h => ⟨congrArg Host.Outcome.next (onDie_off h _), congrArg Host.Outcome.next (onDie_off h _)⟩
  case activates =>
    intro ht hch hbank hrow hb
    have hs := (rowServes_iff s ch bank row).2 ⟨hch, hbank, hrow, hb⟩
    refine ⟨fun rest ha hc => ?_, fun rest ha hc => ?_⟩
    · refine ⟨_, (step_activate ha ht).trans (congrArg Host.Outcome.next (activate_counts hs hc)), rfl, ?_, ?_⟩
      · rw [State.rows_insert, RowAct.count_setCount]
        rfl
      · rw [State.rows_insert]
        rfl
    · refine (step_activate ha ht).trans (congrArg Host.Outcome.next ?_)
      have hd := onDie_on (s := { s with agenda := rest }) ht (fun s => s.rowAlert ch bank row)
      exact (activate_alerts (s := { s with agenda := rest }) hs hc).trans hd.symm
  case alerts =>
    intro ht hch hbank hrow hb hc
    obtain ⟨hm, hr, hmech, hunit⟩ := rowAlert_alerts ((rowServes_iff s ch bank row).2 ⟨hch, hbank, hrow, hb⟩) hc
    obtain ⟨hrfm, hbk, hrw, hcnt⟩ := RowAct.alerted_row (s.rows ch) (lookupD s.chanClk ch 0) hbank hrow
    rw [← hr] at hrfm hbk hrw hcnt
    exact ⟨_, congrArg Host.Outcome.next (onDie_on ht _), hm, congrArg RowAct.alerts hr, hrfm, hbk, hrw, congrArg RowAct.backoff hr,
      hcnt, hmech, hunit⟩
  case backoffEnds => exact fun ht => ⟨_, congrArg Host.Outcome.next (onDie_on ht _), State.rows_insert _ _ _, rfl⟩
  case windowStarts => exact fun ht => ⟨_, congrArg Host.Outcome.next (onDie_on ht _), State.rows_insert _ _ _, rfl⟩
  case scrubIgnored => exact fun ht => congrArg Host.Outcome.next (onDie_off ht _)
  case scrubs =>
    intro ht
    obtain ⟨hm, hc, _, hp⟩ := foldl_scrubbed ch found s
    exact ⟨_, congrArg Host.Outcome.next (onDie_on ht _), hm, hc.trans (countsWith_foldl _ _), hp⟩

end Sys2Proof.Machine

/-! Results and operations of a group (chapters 03, 05, 08 to 10): pairs, masks, calls, spilled registers, and what arrives. -/

namespace Sys2Proof.Machine

/-! ## Functions of 64-bit operands (03 R65; 08 R181, R183) -/

/-- A plan of type 101 writes its result to the pair of D and goes on. -/
theorem wide_wrote {i : Instr} {o : Op} {plan : Ctx → State → Plan} {tags : Ctx → List Tag} {whole : Ctx → Dword}
    {res : Ctx → Nat → Dword} (hx : ∀ s, exec i s = runOp o plan s)
    (hp : ∀ c s, plan c s = widePlan o.x (tags c) (whole c) (res c) c s) :
    Completes i o plan (fun c s t => Wrote o (c.wideEff o (tags c) (whole c) (res c)) c s t) :=
  wrote_of (e := fun c => c.wideEff o (tags c) (whole c) (res c)) hx (fun _ => rfl) (fun _ => rfl)
    (fun _ => pairDests_nodup _ _ _ _) (fun c s _ => by
      rw [hp]
      simp only [widePlan, Ctx.wideEff, Ctx.writePair_eq, State.addFlags_zero]
      rfl)

/-- Settles O3: IADD, ISUB, LEA and LDI of type 101 run the plan for pairs; MOV writes each half with the tag of its own. -/
theorem wideFunctions : Obligations.WideFunctions := by
  intro x ht
  have h5 : (x.type == 5) = true := by simp [ht]
  refine ⟨wide_wrote (fun _ => rfl) (fun c s => ?iadd), wide_wrote (fun _ => rfl) (fun c s => ?isub),
    wide_wrote (fun _ => rfl) (fun c s => ?lea),
    wrote_of (fun _ => rfl) (fun _ => rfl) (fun _ => rfl) (fun _ => pairDests_nodup _ _ _ _) (fun c s _ => ?mov),
    wide_wrote (fun _ => rfl) (fun c s => ?ldi)⟩
  case iadd => rw [planIadd, if_pos h5]; rfl
  case isub => rw [planIsub, if_pos h5]; rfl
  case lea => rw [planLea, if_pos h5]; rfl
  case mov =>
    rw [planMov, if_pos h5]
    simp only [Ctx.writePair_eq, State.addFlags_zero]
    rfl
  case ldi => rw [planLdi, if_pos h5]; rfl

/-! ## Masks (08 R198, R199) -/

/-- A function whose effect is to write a k register. -/
theorem kWrote_of {i : Instr} {o : Op} {plan : Ctx → State → Plan} {m : Ctx → Mask} (hx : ∀ s, exec i s = runOp o plan s)
    (hp : ∀ c s, (plan c s).effect = c.advance (c.setK (kNum o.x.d) (m c) none s)) :
    Completes i o plan (fun c s t => Wrote o { masks := fun ks => kWrite ks c.n (kNum o.x.d) (m c) none, next := c.next } c s t) :=
  masked_of (m := fun c ks => kWrite ks c.n (kNum o.x.d) (m c) none) hx hp

/-- What KMOV moves (R199). -/
def Ctx.kmovVal (c : Ctx) (x : XF) : Mask :=
  if clsOf x.a ≠ .k ∧ clsOf x.a ≠ .s ∧ clsOf x.a ≠ .vz then
    maskOf c.n (fun l => laneBit (c.exec x.mask.toNat) l && c.opA (opX 0x06 0x04 x).sig x l != 0)
  else if clsOf x.a = .k then c.kVal x.a else c.read64 x.a 0 0 0

/-- KMOV to a k register writes what it moves. -/
theorem planKmov_k {x : XF} (hd : clsOf x.d = .k) (c : Ctx) (s : State) :
    (planKmov x c s).effect = c.advance (c.setK (kNum x.d) (c.kmovVal x) none s) := by
  simp only [planKmov, hd, Ctx.kmovVal, Op.sig, bne_iff_ne, Bool.and_eq_true, beq_iff_eq, and_assoc]
  rfl

/-- KMOV from a k register to an s pair writes both its words, with tag U. -/
theorem planKmov_s {x : XF} (hd : clsOf x.d = .s) (ha : clsOf x.a = .k) (c : Ctx) (s : State) :
    (planKmov x c s).effect = c.advance (c.writePair s x.d (fun _ => c.kVal x.a) { tag := .u, base := loWord (c.kVal x.a) }
      { tag := .u, base := hiWord (c.kVal x.a) } (c.exec x.mask.toNat) false) := by
  simp [planKmov, hd, ha]

/-- Settles O8: a mask function writes one k register, KMOV to an s pair both words, KPOP and KFFS one word. -/
theorem maskFunctions : Obligations.MaskFunctions := by
  intro x gives lanes
  have mask : ∀ {i : Instr} {func : Nat} {plan : Ctx → State → Plan} {m : Ctx → Mask},
      (∀ s, exec i s = runOp (opX 0x06 func x) plan s) → (∀ c s, plan c s = kPlan x (m c) c s) → gives i func plan m :=
    fun hx hp => kWrote_of hx (fun c s => by rw [hp]; rfl)
  have kmov : ∀ {m : Ctx → Mask}, clsOf x.d = .k → (∀ c, c.kmovVal x = m c) → gives (.kmov x) 0x04 (planKmov x) m :=
    fun hd hm => kWrote_of (fun _ => rfl) (fun c s => by rw [← hm]; exact planKmov_k hd c s)
  refine ⟨mask (fun _ => rfl) (fun _ _ => rfl), mask (fun _ => rfl) (fun _ _ => rfl), mask (fun _ => rfl) (fun _ _ => rfl),
    mask (fun _ => rfl) (fun _ _ => rfl), mask (fun _ => rfl) (fun _ _ => rfl), fun hd hl => kmov hd (fun c => if_pos hl),
    fun hd ha => kmov hd (fun c => by simp [Ctx.kmovVal, ha]), fun hd ha => kmov hd (fun c => ?fromS), fun hd ha hw => ?toS,
    gives_of (fun _ => rfl) (fun _ _ => rfl), gives_of (fun _ => rfl) (fun _ _ => rfl)⟩
  case fromS => rcases ha with ha | ha <;> simp [Ctx.kmovVal, ha]
  case toS =>
    refine wrote_of (fun _ => rfl) (fun _ => rfl) (fun _ => rfl) (fun _ => pairDests_nodup _ _ _ _) (fun c s _ => ?_)
    have hz : (x.wmode == 2) = false := by simpa using hw
    have hp := fun s => c.writePair_eq s x (fun _ => c.kVal x.a) { tag := .u, base := loWord (c.kVal x.a) }
      { tag := .u, base := hiWord (c.kVal x.a) }
    rw [hz] at hp
    rw [planKmov_s hd ha, hp, State.addFlags_zero]
    rfl

/-! ## A path without lanes (02 R43; 19 R373)

An access of the whole group faults with the lanes of the path that lie under the group's width. A path with none of them passes
the check with an access that has no place, and `Runs` says nothing of a path's lanes. -/

/-- A group of width 16 with 16 calls outstanding whose only path has lane 20, which is none of its lanes, in a machine that
translates no address. -/
def laneless : State :=
  ({ State.reset.placed 32 0 with
     cur := fetchGroup, asids := []
     launches := [{ fetchLaunch with desc := { fetchLaunch.desc with calls := 1 } }] } : State).modGroup fetchGroup
    (fun g => { g with depth := 16, paths := [{ pc := 0x1000, mask := 1 <<< 20 }] })

/-- An operation that passes every check, as a test that evaluates. -/
def goesThrough (o : Op) (plan : Ctx → State → Plan) (s : State) (p : Ctx → Bool) : Bool :=
  (o.issuer s).any (fun c => c.verdict o false (plan c (c.start o s)) == .go
    && (c.done (plan c (c.start o s)).effect).logFits c.core && p c)

theorem runs_of_goesThrough {o : Op} {plan : Ctx → State → Plan} {s : State} {p : Ctx → Bool} (h : goesThrough o plan s p = true) :
    ∃ c, Runs o plan s c ∧ p c = true := by
  obtain ⟨c, hi, h⟩ := (Option.any_eq_true _ _).1 h
  simp only [Bool.and_eq_true, beq_iff_eq] at h
  obtain ⟨⟨hv, hr⟩, hp⟩ := h
  exact ⟨c, ⟨hi, hv, hr⟩, hp⟩

/-- The group of a placed instruction in the state that an instruction or an event answers. -/
def groupAfter (out : Out) : Option Group :=
  match out with
  | .next t => t.group? fetchGroup
  | _ => none

/-- Refutes O13: a CALL past the return stack whose overflow area is not translated has no effect where no lane of its path lies
under the group's width, since the fault names those lanes alone; the depth stays 16. -/
theorem not_callsAndReturns : ¬ Obligations.CallsAndReturns := by
  rintro ⟨calls, -⟩
  obtain ⟨c, hc, hp⟩ := runs_of_goesThrough (o := opB (wordOff 0x26 1) 0x07 0x03 {}) (s := laneless)
    (plan := fun c => planCall (c.target (off24 1)) none .ok c)
    (p := fun c => c.ref == fetchGroup && c.group.depth == 16) (by decide +kernel)
  simp only [Bool.and_eq_true, beq_iff_eq] at hp
  obtain ⟨href, hdepth⟩ := hp
  obtain ⟨t, ht, -, deep⟩ := calls 1 laneless c hc
  obtain ⟨-, hpushed, -⟩ := deep (Nat.le_of_eq hdepth.symm)
  have hstays : (groupAfter (exec (.call 1) laneless)).map (·.depth) = some 16 := by decide +kernel
  rw [ht] at hstays
  rw [href, hdepth] at hpushed
  exact absurd (hpushed.symm.trans hstays) (by decide)

/-- The fields of a SPILL of v1 to the address in s2 and s3. -/
def spillV1 : XF := { d := 1, a := 0xA2 }

/-- Refutes O22: a SPILL to an address that is not translated goes through where no lane of its path lies under the group's width,
since the fault names those lanes alone; there are no places that it stores to. -/
theorem not_spillAndFill : ¬ Obligations.SpillAndFill := by
  rintro ⟨spills, -⟩
  obtain ⟨c, hc, hp⟩ := runs_of_goesThrough (o := opX 0x09 0x06 spillV1) (s := laneless) (plan := planSpill spillV1)
    (p := fun c => !(c.runPlaces (c.start (opX 0x09 0x06 spillV1) laneless) (c.spillAddr spillV1)
      (((c.group.reg spillV1.d).packing c.n).size c.n) 2).isOk) (by decide +kernel)
  obtain ⟨t, -, ls, hls, -⟩ := (spills spillV1).1 laneless c hc
  rw [hls] at hp
  cases hp

/-! ## A store whose mark lies elsewhere (05 R112; 19 R380) -/

/-- A store of one byte of memory that carries a poison mark of register v3 of its own group; the statement bounds the
places of a store's bytes, not those of its marks. -/
def strayMarked : StOp :=
  { seq := 0, pc := 0x1000, scope := 0, bytes := [{ space := .phys, addr := 64, val := 7 }], marks := [(.reg fetchGroup, 0x300, 0)] }

/-- A group with that store alone outstanding, none of whose registers has been written. -/
def strayStore : State := (State.reset.placed 32 0).modGroup fetchGroup (fun g => { g with st := [strayMarked], nextSeq := 1 })

/-- Refutes O39: a store that is performed puts its marks at their places, which need not be those of its bytes; a mark of one of
the group's own registers changes that register. -/
theorem not_arrivals : ¬ Obligations.Arrivals := by
  intro h
  have hs : ∃ m ∈ strayStore.team? (teamOf fetchGroup), m.saved = false ∧
      ∃ g ∈ strayStore.group? fetchGroup, g.st = [strayMarked] ∧ g.regs = [] := by decide +kernel
  obtain ⟨m, hm, hsaved, g, hg, hst, hregs⟩ := hs
  obtain ⟨-, stores, -⟩ := h strayStore fetchGroup m g ⟨rfl, hm, hsaved, hg⟩
  obtain ⟨-, performs, -⟩ := stores strayMarked [] [] hst rfl (by simp) (by simp [strayMarked])
  obtain ⟨t, ht, -, ⟨g', hg', -, -, -, hkept⟩, -⟩ := performs (by decide +kernel) (by simp)
  have hmarked : (groupAfter (exec (.storePerformed fetchGroup strayMarked.seq) strayStore)).map (fun g => g.regs.map (·.1))
      = some [3] := by decide +kernel
  rw [ht] at hmarked
  simp [groupAfter, hg', hkept, hregs] at hmarked

end Sys2Proof.Machine

/-! Numbers (chapter 04): floating point, random words and formats, exact cells, and instructions that hold. -/

namespace Sys2Proof.Machine

/-! ## Floating point (08 R184 to R186) -/

/-- The checks of a narrow format do not change what an FLT function does. -/
theorem fltPlan_effect (func : Nat) (el : ElemFn) (x : XF) (c : Ctx) (s : State) :
    (fltPlan func el x c s).effect
      = (computePlan 0x02 func .none false (fltOp (c.fltFmt x) x.round.toNat el) x c s).effect := by
  unfold fltPlan
  dsimp only
  split <;> rfl

/-- A function of the FLT family gives the results of its function of elements. -/
theorem flt_gives {i : Instr} {x : XF} {func : Nat} (el : ElemFn)
    (hx : ∀ s, exec i s = runOp (opX 0x02 func x) (fltPlan func el x) s) :
    Gives i (opX 0x02 func x) (fltPlan func el x) .none false (fun c => fltOp (c.fltFmt x) x.round.toNat el) :=
  gives_of hx (fltPlan_effect func el x)

/-- Settles O5: the functions of elements run `fltPlan` in the format of their type, the others one FP32 operation of a word. -/
theorem floatFunctions : Obligations.FloatFunctions := by
  intro x m
  have word : ∀ {i : Instr} {func : Nat} {op : LaneOp},
      (∀ s, exec i s = runOp (opX 0x02 func x) (computePlan 0x02 func .none false op x) s) →
      Gives i (opX 0x02 func x) (computePlan 0x02 func .none false op x) .none false (fun _ => op) :=
    fun hx => gives_of hx (fun _ _ => rfl)
  exact ⟨flt_gives elFadd (fun _ => rfl), flt_gives elFsub (fun _ => rfl), flt_gives elFmul (fun _ => rfl),
    flt_gives elFfma (fun _ => rfl), flt_gives elFmin (fun _ => rfl), flt_gives elFmax (fun _ => rfl),
    flt_gives elFabs (fun _ => rfl), flt_gives elFneg (fun _ => rfl), flt_gives (elFcmp _) (fun _ => rfl),
    flt_gives elFsel (fun _ => rfl), flt_gives elFclass (fun _ => rfl),
    word (fun _ => rfl), word (fun _ => rfl), word (fun _ => rfl), word (fun _ => rfl), word (fun _ => rfl), word (fun _ => rfl),
    word (fun _ => rfl), word (fun _ => rfl), word (fun _ => rfl), word (fun _ => rfl)⟩

/-! ## Random words and formats (08 R200, R201) -/

/-- The tag of RAND's words (R104, R200). -/
theorem rand_tag (key ctr : Tag) (add : Bool) :
    (if key == .u && ctr == .u && !add then Tag.u else .g) = if key = .u ∧ ctr = .u ∧ add = false then Tag.u else .g := by
  simp [and_assoc]

/-- The codes of four registers from one on differ. -/
theorem quad_nodup (d : Byte) : ((List.range 4).map (fun i => d + BitVec.ofNat 8 i)).Nodup := by
  refine List.pairwise_map.2 (List.nodup_range.imp_of_mem (fun {i j} hi hj hne h => hne ?_))
  have hij : (BitVec.ofNat 8 i).toNat = (BitVec.ofNat 8 j).toNat := congrArg BitVec.toNat ((BitVec.add_right_inj d).1 h)
  simp only [List.mem_range, BitVec.toNat_ofNat] at *
  omega

/-- FMTSET changes a format register of its group, and nothing that `Group.rest` leaves out. -/
def Group.withFmt (g : Group) (i : Nat) (r : Word) : Group := { g with fmt := setPad g.fmt i r 0 }

theorem Group.rest_withFmt (g : Group) (i : Nat) (r : Word) : (g.withFmt i r).rest = g.rest.withFmt i r := rfl

/-- Settles O9: RAND writes four destinations, FMTSET a format register, FMTGET one word. -/
theorem randomAndFormatFunctions : Obligations.RandomAndFormatFunctions := by
  intro x
  refine ⟨wrote_of (fun _ => rfl) (fun _ => rfl) (fun _ => rfl) (fun c => ?nodup) (fun c s _ => ?rand),
    grouped_of (f := fun c g => g.withFmt (bits x.f.toNat 0 3) (c.shapeC x).base) (fun _ => rfl)
      (fun _ _ => ⟨rfl, rfl, rfl, rfl, rfl, rfl, rfl⟩) (fun c g h hr => by rw [Group.rest_withFmt, hr, Group.rest_withFmt])
      (fun _ _ => rfl),
    gives_of (fun _ => rfl) (fun _ _ => rfl)⟩
  case nodup => exact (congrArg List.Nodup List.map_map).mpr (quad_nodup x.d)
  case rand =>
    simp only [planRand, rand_tag, Ctx.writeAll, List.foldl_map, State.addFlags_zero]
    rfl

/-! ## Exact cells (04 R101, R102, Table 4.7) -/

theorem shiftNat_of_nonneg {m : Nat} {k : Int} (h : 0 ≤ k) : Fp.shiftNat m k = m * 2 ^ k.toNat := if_pos h

/-- A finite value below 2^97 goes to the exact sum, kept modulo 2^248, with the count of what was lost modulo 16 (R102). -/
theorem Cell.add_fin (k : Cell) {neg : Bool} {m : Nat} {e : Int} (he : -149 ≤ e) (hm : m = 0 ∨ Fp.topExp m e < 97) :
    let v := k.signed + (if neg then -1 else 1) * (m * 2 ^ (e + 149).toNat)
    k.add (.fin neg m e) =
      { k with wrap := ((k.wrap + (v + 2 ^ 247) / 2 ^ 248) % 16).toNat, value := Sys2Proof.Machine.wrap 248 v } := by
  have hsmall : ¬ (m != 0 && decide (97 ≤ Fp.topExp m e)) = true := by
    simp only [Bool.and_eq_true, bne_iff_ne, decide_eq_true_eq]
    omega
  have hu : (if m == 0 then 0 else (Fp.shiftNat m (e + 149) : Nat) : Int) = m * 2 ^ (e + 149).toNat := by
    rw [shiftNat_of_nonneg (by omega)]
    by_cases h : m = 0 <;> simp [h]
  simp only [Cell.add, if_neg hsmall, hu]
  cases neg <;> simp

/-- A finite value of 2^97 or more is not added (R102). -/
theorem Cell.add_large (k : Cell) {neg : Bool} {m : Nat} {e : Int} (hm : m ≠ 0) (he : 97 ≤ Fp.topExp m e) :
    k.add (.fin neg m e) = { k with ovf := true } := by
  have hlarge : (m != 0 && decide (97 ≤ Fp.topExp m e)) = true := by simp [hm, he]
  simp only [Cell.add, if_pos hlarge]

/-- An integer kept modulo 2^248 and read as signed has lost a multiple of 2^248. -/
theorem sx_wrap_add (v : Int) : sx 248 (wrap 248 v) + (v + 2 ^ 247) / 2 ^ 248 * 2 ^ 248 = v := by
  unfold sx wrap
  split <;> omega

/-- The number of a cell, by its fields (Table 4.7). -/
theorem Cell.toNat_ofNat {n : Nat} (h : n < 2 ^ 256) : (Cell.ofNat n).toNat = n := by
  have bit_toNat : ∀ i, (bit n i).toNat = n / 2 ^ i % 2 := fun i => by
    rcases Nat.mod_two_eq_zero_or_one (n / 2 ^ i) with h | h <;> simp [bit, bits, h]
  simp only [Cell.toNat, Cell.ofNat, bit_toNat, bits]
  omega

theorem Cell.ofNat_toNat (k : Cell) (hv : k.value < 2 ^ 248) (hw : k.wrap < 16) : Cell.ofNat k.toNat = k := by
  obtain ⟨w, n, a, p, o, v⟩ := k
  have bit_eq : ∀ {x i : Nat} {b : Bool}, x / 2 ^ i % 2 = b.toNat → bit x i = b := fun {x i b} h => by
    unfold bit bits
    rw [Nat.pow_one, h]
    cases b <;> rfl
  have hn := n.toNat_le
  have ha := a.toNat_le
  have hp := p.toNat_le
  have ho := o.toNat_le
  simp only [Cell.toNat, Cell.ofNat, Cell.mk.injEq, bits] at *
  exact ⟨by omega, bit_eq (by omega), bit_eq (by omega), bit_eq (by omega), bit_eq (by omega), by omega⟩

/-- Settles O25: a finite sum is the exact one with the multiples of 2^248 that `wrap` counts taken out; the other values set
their flag; a cell and its number determine each other. -/
theorem exactCells : Obligations.ExactCells := by
  refine ⟨fun k neg m e hv hw he hm => ?_, fun _ _ => rfl, fun _ => ⟨rfl, rfl⟩, fun k neg m e => k.add_large,
    fun n => Cell.toNat_ofNat, Cell.ofNat_toNat⟩
  intro u r
  have mod : ∀ i n : Int, n ≠ 0 → ((i % n).toNat : Int) = i % n := fun i n hn => Int.toNat_of_nonneg (Int.emod_nonneg i hn)
  rw [show r = _ from k.add_fin he hm]
  exact ⟨mod _ _ (by decide), ⟨_, mod _ _ (by decide), sx_wrap_add _⟩, rfl, rfl, rfl, rfl⟩

/-! ## A camp that falls due (R133, R322) -/

theorem Team.due_eq (t : Team) (why : CampReason) : ∃ w, t.due why = { t with campDue := some w } := by
  unfold Team.due
  split
  case h_5 => exact ⟨why, rfl⟩
  all_goals next h => exact ⟨_, by rw [← h]⟩

@[simp] theorem Team.due_ref (t : Team) (why : CampReason) : (t.due why).ref = t.ref := by
  obtain ⟨w, h⟩ := t.due_eq why
  rw [h]

@[simp] theorem Team.due_group? (t : Team) (why : CampReason) (p g : Nat) : (t.due why).group? p g = t.group? p g := by
  obtain ⟨w, h⟩ := t.due_eq why
  rw [h]
  rfl

theorem Team.due_campDue (t : Team) (why : CampReason) : (t.due why).campDue.isSome = true := by
  obtain ⟨w, h⟩ := t.due_eq why
  rw [h]
  rfl

/-- A camp that falls due for a team is due. -/
theorem State.campsFor_due {s : State} {u : TeamRef} {m : Team} (hm : s.team? u = some m) {f : Team → Team}
    (hf : ∀ t, (f t).ref = t.ref) (why : CampReason) : (s.modTeam u (fun t => (f t).due why)).campsFor u :=
  ⟨(f m).due why, by rw [State.team?_modTeam _ _ _ _ (fun t => (Team.due_ref _ _).trans (hf t)), hm]; simp, Team.due_campDue _ _⟩

theorem State.team?_modGroup_self (s : State) (r : GroupRef) (f : Group → Group) :
    (s.modGroup r f).team? (teamOf r) = (s.team? (teamOf r)).map (fun t => t.modGroup r.part r.grp f) :=
  (State.team?_modTeam s _ _ (fun t => t.modGroup r.part r.grp f) (fun _ => rfl)).trans (by simp)

theorem State.campsFor_irrevocable {s : State} {u : TeamRef} {m : Team} (hm : s.team? u = some m) :
    (s.irrevocable u).campsFor u := State.campsFor_due hm (f := Team.pin) (fun _ => rfl) .irrevocable

/-- An irrevocable operation of a group's team pins its rope (R55, R133). -/
theorem State.group?_irrevocable (s : State) (r : GroupRef) : (s.irrevocable (teamOf r)).group? r
    = (s.group? r).map (fun g => { g with rope := g.rope.map (fun q => { q with pinned := true }) }) := by
  unfold State.group? State.irrevocable
  rw [State.team?_modTeam _ _ _ _ (fun t => Team.due_ref t.pin .irrevocable)]
  cases s.team? (teamOf r) with
  | none => rfl
  | some m =>
    simp only [Option.map_some, Option.bind_some, if_true, Team.due_group?]
    exact Team.group?_mapGroups _ _ _ _

/-! ## The end of a debug step (17 R355) -/

theorem Unmoved.groupEvent (s : State) (d : DebugRight) (code : Nat) (r : GroupRef) : Unmoved s (s.groupEvent d code r) := by
  unfold State.groupEvent
  split
  · exact (Unmoved.appendEvent { s with eventSeq := _ } _ _ _).after ⟨rfl, rfl, rfl, rfl, rfl⟩
  · exact .refl s

theorem Unmoved.reply (s : State) (f : Fn) (mb : MbCtl) (result : Nat) (out : List Byte) : Unmoved s (s.reply f mb result out) := by
  have modFn : ∀ h, Unmoved s (s.modFn f h) := fun h => .ite ⟨rfl, rfl, rfl, rfl, rfl⟩ ⟨rfl, rfl, rfl, rfl, rfl⟩
  exact .ite ((modFn _).trans (.sendIrq _ _ _)) (modFn _)

theorem Unmoved.modTeam {s t : State} (h : Unmoved s t) (u : TeamRef) (f : Team → Team) : Unmoved (s.modTeam u f) (t.modTeam u f) :=
  ⟨by simp [h.teams], h.launches, h.ready, h.hostClk, h.freq⟩

theorem Unmoved.group? {s t : State} (h : Unmoved s t) (r : GroupRef) : t.group? r = s.group? r := group?_of_teams h.teams r

theorem Unmoved.team? {s t : State} (h : Unmoved s t) (u : TeamRef) : t.team? u = s.team? u := by
  unfold State.team?
  rw [h.teams]

theorem Unmoved.launch? {s t : State} (h : Unmoved s t) (n : Nat) : t.launch? n = s.launch? n := by
  unfold State.launch?
  rw [h.launches]

/-- A group that has ended its debug step halts again. -/
def Group.stepEnded (g : Group) : Group := { g with stepDue := none, halted := true }

/-- What the end of a debug step moves: the group halts again, and a camp falls due. -/
theorem State.afterStep_cases (s : State) (r : GroupRef) : s.afterStep r = s ∨
    Unmoved ((s.modGroup r Group.stepEnded).modTeam (teamOf r) (fun t => t.due .debug)) (s.afterStep r) := by
  unfold State.afterStep
  split
  · exact .inl rfl
  · split
    · exact .inl rfl
    · split
      · exact .inl rfl
      · dsimp only
        refine .inr ((Unmoved.modTeam ?_ _ _).trans (.reply _ _ _ _ _))
        split
        · exact .groupEvent _ _ _ _
        · exact .refl _

/-- The end of a debug step leaves of the group all but `stepDue` and `halted`. -/
theorem State.group?_afterStep (s : State) (r : GroupRef) : ∃ (due : Group → Option (Fn × MbCtl)) (halt : Group → Bool),
    (s.afterStep r).group? r = (s.group? r).map (fun g => { g with stepDue := due g, halted := halt g }) := by
  rcases s.afterStep_cases r with h | h
  · exact ⟨(·.stepDue), (·.halted), by rw [h]; exact Option.map_id'.symm⟩
  · refine ⟨fun _ => none, fun _ => true, ?_⟩
    rw [h.group?, State.group?_modTeam _ _ _ (by simp) (by simp), State.group?_modGroup_self]
    rfl

theorem State.launch?_afterStep (s : State) (r : GroupRef) (n : Nat) : (s.afterStep r).launch? n = s.launch? n := by
  rcases s.afterStep_cases r with h | h
  · rw [h]
  · exact h.launch? n

theorem State.campsFor_afterStep {s : State} {r : GroupRef} (hc : s.campsFor (teamOf r)) : (s.afterStep r).campsFor (teamOf r) := by
  rcases s.afterStep_cases r with h | h
  · rwa [h]
  · obtain ⟨m, hm, -⟩ := hc
    have hm' := s.team?_modGroup_self r Group.stepEnded
    rw [hm] at hm'
    obtain ⟨m', ht, hd⟩ := State.campsFor_due hm' (f := id) (fun _ => rfl) .debug
    exact ⟨m', (h.team? _).trans ht, hd⟩

@[simp] theorem State.faulted_afterStep (s : State) (r : GroupRef) : (s.afterStep r).faulted r = s.faulted r := by
  obtain ⟨due, halt, h⟩ := s.group?_afterStep r
  unfold State.faulted
  rw [h]
  cases s.group? r <;> rfl

/-! ## Instructions that hold (04 R95; 06 R139) -/

/-- An event that leaves its group's fault as it was has its turn in any clock (R38). -/
theorem State.inFaultTurn_of_faulted {s t : State} {r : GroupRef} (h : t.faulted r = s.faulted r) : s.inFaultTurn r t = t := by
  unfold State.inFaultTurn
  rw [h]
  cases s.faulted r <;> rfl

@[simp] theorem State.faulted_again (s : State) (r : GroupRef) : (s.again r).faulted r = s.faulted r := by
  unfold State.faulted State.again
  rw [State.group?_modGroup_self]
  exact congrArg (·.getD false) (Option.map_map _ _ (s.group? r))

/-- An instruction that only writes leaves its group's fault as it was. -/
theorem Same.faulted {c : Ctx} {s t : State} (h : Same id c s t) : t.faulted c.ref = s.faulted c.ref := by
  have state : ∀ u : State, u.faulted c.ref = (((u.group? c.ref).map Group.rest).map (·.state == .faulted)).getD false := fun u =>
    (congrArg (·.getD false) (Option.map_map (fun g : Group => g.state == .faulted) Group.rest (u.group? c.ref))).symm
  rw [state, state, h.own]
  rfl

/-- An emulated instruction that goes through answers the state its effect is committed to. -/
theorem runOp_emulated {o : Op} {plan : Ctx → State → Plan} {s : State} {c : Ctx} (h : RunsEmulated o plan s c) :
    runOp o plan s true = .next (c.done (plan c (c.start o s)).effect) := by
  obtain ⟨hi, hv, hr⟩ := h
  obtain ⟨d, hd, rfl⟩ := Option.map_eq_some_iff.1 hi
  unfold Ctx.start at hv
  unfold Ctx.done Ctx.start at hr
  unfold runOp
  rw [hd]
  dsimp only
  rw [hv]
  simp only [Ctx.commit, Ctx.done, Ctx.start, hr, if_true]

section
variable {s : State} {r : GroupRef} {m : Team} {g : Group}

/-- An instruction that the cluster control core emulates writes as a native unit would (R95). -/
theorem emulates_of {o : Op} {plan : Ctx → State → Plan} {dep : Bool} {op : Ctx → LaneOp}
    (hx : ∀ len, g.hold = some (.emulated o.family o.func o.x len) →
      exec (.emulatedOpComplete r) s = thenStep r s (runOp o plan (s.again r) true))
    (he : ∀ c s, (plan c s).effect = (computePlan o.family o.func .none dep (op c) o.x c s).effect) :
    Emulates r g s o plan dep op := by
  intro len c hh h
  have hw : Wrote o (c.laneEff o .none dep (op c)) c (s.again r) (c.done (plan c (c.start o (s.again r))).effect) := by
    rw [he]
    exact (sofar_of (ds := (c.laneEff o .none dep (op c)).dsts) c.next h.issuer (by simp [Ctx.laneEff])).goto h.issuer
  have href : c.ref = r := (Op.issuer_some h.issuer).1
  refine ⟨_, ?_, hw⟩
  rw [hx len hh, runOp_emulated h]
  refine congrArg Host.Outcome.next (State.inFaultTurn_of_faulted ?_)
  calc _ = _ := State.faulted_afterStep _ r
    _ = (s.again r).faulted r := href ▸ hw.same.faulted
    _ = s.faulted r := s.faulted_again r

/-- A release issues again once nothing keeps it (R139). -/
theorem releases_of {kind : ReleaseKind} {i : Instr} {o : Op} {plan : Ctx → State → Plan}
    (hi : ∀ s, exec i s = runOp o plan s)
    (hx : g.hold = some (.release kind o.x) → exec (.releasePerformed r) s = thenStep r s (exec i (s.again r))) :
    Releases r g s kind i o plan := by
  intro hh c hc
  have hrun := (hi _).trans (runOp_runs hc)
  refine ⟨_, hrun, ?_⟩
  rw [hx hh, hrun]
  rfl

/-- Nothing happens to a release before its group's accesses are performed, or while a camp or a rollback keeps its team (R139). -/
theorem releasePerformed_waits (hp : Present s r m g) {kind : ReleaseKind} {x : XF} (hh : g.hold = some (.release kind x))
    (hw : g.quiet = false ∨ (if g.rope.isSome then m.rollsBack else m.camping) = true) :
    exec (.releasePerformed r) s = .next s := by
  have hkept : (m.saved || !g.quiet || s.ready.trip || (if g.rope.isSome then m.rollsBack else m.camping)) = true := by
    rcases hw with hw | hw <;> simp [hw]
  change execReleasePerformed r s = _
  simp only [execReleasePerformed, hp.team, hp.group, hh]
  rw [if_pos hkept]

/-- The instruction that a release is of. -/
def ReleaseKind.instr (kind : ReleaseKind) (x : XF) : Instr :=
  match kind with
  | .rel => .rel x
  | .fence => .fence x
  | .barrive => .barrive x
  | .bardrop => .bardrop x
  | .launch => .launch x

/-- A held release issues again once its group's accesses are performed and nothing keeps its team (R139). -/
theorem releasePerformed_issues (hp : Present s r m g) (hq : g.quiet = true)
    (hc : (if g.rope.isSome then m.rollsBack else m.camping) = false) {kind : ReleaseKind} {x : XF}
    (hh : g.hold = some (.release kind x)) :
    exec (.releasePerformed r) s = thenStep r s (exec (kind.instr x) (s.again r)) := by
  have hfree : ¬ (m.saved || !g.quiet || s.ready.trip || (if g.rope.isSome then m.rollsBack else m.camping)) = true := by
    simp [hp.here, hq, hp.clocks, hc]
  change execReleasePerformed r s = _
  simp only [execReleasePerformed, hp.team, hp.group, hh]
  rw [if_neg hfree]
  cases kind <;> rfl

/-- An FLT instruction of a narrow format that the cluster control core emulates (R95). -/
theorem flt_emulates {func : Nat} {el : ElemFn} {x : XF} (hx : ∀ len, g.hold = some (.emulated 0x02 func x len) →
      exec (.emulatedOpComplete r) s = thenStep r s (runOp (opX 0x02 func x) (fltPlan func el x) (s.again r) true)) :
    Emulates r g s (opX 0x02 func x) (fltPlan func el x) false (fun c => fltOp (c.fltFmt x) x.round.toNat el) :=
  emulates_of hx (fltPlan_effect func el x)

end

/-! ## Services (09 R226; 16 R315, R319, R325; Table 9.4) -/

/-- The pre-emption of a launch: its running teams issue nothing more until they are rolled back. -/
def State.preempted (s : State) (n reason : Nat) : State :=
  { s.modLaunch n (fun l => { l with preempt := some reason }) with
    teams := s.teams.map (fun t => if t.ref.launch == n && !t.saved then { t with rollDue := true } else t) }

theorem startPreempt_unmoved {s : State} {n : Nat} {l : Launch} (hl : s.launch? n = some l) (reason : Nat) :
    Unmoved (if l.preempt.isSome || l.phase != .running then s else s.preempted n reason) (s.startPreempt n reason) := by
  unfold State.startPreempt
  rw [hl]
  dsimp only
  split
  · exact .refl s
  · exact ((Unmoved.setQueue (s.preempted n reason) _).trans (.bumpDistrict _ _ _ _)).trans (.route _ _)

theorem launch?_preempted {s : State} {n : Nat} {l : Launch} (hl : s.launch? n = some l) (reason : Nat) :
    (s.preempted n reason).launch? n = some { l with preempt := some reason } := by
  have hn : l.num = n := by simpa using List.find?_some hl
  have hnum : ((fun l : Launch => l.num == n) ∘ fun l => if l.num = n then { l with preempt := some reason } else l)
      = fun l => l.num == n := by
    funext l
    simp only [Function.comp]
    split <;> rfl
  unfold State.launch? at hl
  simp only [State.launch?, State.preempted, State.modLaunch_launches, List.find?_map, hnum, hl, Option.map_some, if_pos hn]

theorem Unmoved.putRoute (s : State) (e : RbEntry) : Unmoved s (s.putRoute e).1 := .route s e

theorem Unmoved.programMark (s : State) (l : Launch) (r : GroupRef) (arg : Dword) : Unmoved s (s.programMark l r arg).1 := by
  unfold State.programMark
  dsimp only
  split
  · exact .putRoute s _
  · exact (Unmoved.putRoute s _).trans ⟨rfl, rfl, rfl, rfl, rfl⟩

/-- A mark's number is the next of the command-complex core that serves its district (R315). -/
theorem programMark_seq {s : State} {l : Launch} (hd : ((s.districts[l.queue.district]?).bind (·.record)).isSome) (r : GroupRef)
    (arg : Dword) : (s.programMark l r arg).2 = lookupD s.ccSeq (s.ccOf l.queue.district) 0 := by
  obtain ⟨a, ha⟩ := Option.isSome_iff_exists.1 hd
  simp [State.programMark, State.putRoute, rbQueue, ha, State.takeCcSeq]

/-- What a service does to the teams: some are to be rolled back. -/
theorem service_teams {s : State} {r : GroupRef} {l : Launch} (hl : s.launch? r.launch = some l) (n : Nat) (arg : Dword) :
    ∃ roll : Team → Bool, (s.service l r n arg).1.teams = s.teams.map (fun t => { t with rollDue := roll t }) := by
  have same : ∀ {t : State}, t.teams = s.teams → ∃ roll : Team → Bool, t.teams = s.teams.map (fun t => { t with rollDue := roll t }) :=
    fun h => ⟨(·.rollDue), h.trans (List.map_id' _).symm⟩
  match n with
  | 0 => exact same rfl
  | 1 => exact same (Unmoved.programMark s l r arg).teams
  | 2 =>
    have h := (startPreempt_unmoved hl 7).teams
    split at h
    · exact same h
    · refine ⟨fun t => if t.ref.launch == r.launch && !t.saved then true else t.rollDue, h.trans ?_⟩
      refine congrArg (s.teams.map ·) (funext fun t => ?_)
      dsimp only
      split <;> rfl
  | n + 3 => exact same rfl

/-- The team and the group of a service stay. -/
theorem service_present {s : State} {r : GroupRef} {m : Team} {g : Group} {l : Launch} (hp : Present s r m g)
    (hl : s.launch? r.launch = some l) (n : Nat) (arg : Dword) :
    (∃ m', (s.service l r n arg).1.team? (teamOf r) = some m') ∧ (s.service l r n arg).1.group? r = some g := by
  obtain ⟨roll, h⟩ := service_teams hl n arg
  have ht : (s.service l r n arg).1.team? (teamOf r) = some { m with rollDue := roll m } := by
    unfold State.team?
    rw [h, List.find?_map]
    exact congrArg (Option.map _) hp.team
  refine ⟨⟨_, ht⟩, ?_⟩
  rw [← hp.group]
  unfold State.group?
  rw [ht, hp.team]
  rfl

/-- A group whose service is complete goes on at a PC. -/
def Group.goesOn (next : Dword) (g : Group) : Group :=
  { g with hold := none, paths := match runPath g.paths with
      | some p => replacePath g.paths p [{ p with pc := next }]
      | none => g.paths }

theorem Group.goesOn_path {g : Group} {p : Path} (hp : runPath g.paths = some p) (next : Dword) :
    ∃ p' ∈ (g.goesOn next).paths, p'.pc = next ∧ p'.mask = p.mask := by
  have hpaths : (g.goesOn next).paths = replacePath g.paths p [{ p with pc := next }] := by
    unfold Group.goesOn
    rw [hp]
  rw [hpaths]
  exact ⟨_, replacePath_new (runPath_runs hp).2.1, rfl, rfl⟩

/-- The state that a completed service leads to from its effect: its result, the group, the camp, and a debug step (R226). -/
def State.serviceDone (s : State) (r : GroupRef) (d : Byte) (v : Word) (next : Dword) : State :=
  (((s.putS r d v).modGroup r (Group.goesOn next)).irrevocable (teamOf r)).afterStep r

theorem svcComplete_runs {s : State} {r : GroupRef} {m : Team} {g : Group} {l : Launch} {d : Byte} {n : Nat} {arg next : Dword}
    (hp : Present s r m g) (hl : s.launch? r.launch = some l) (hh : g.hold = some (.svc d n arg next)) :
    exec (.svcComplete r) s = .next ((s.service l r n arg).1.serviceDone r d (s.service l r n arg).2 next) := by
  have href : m.ref = teamOf r := by simpa using List.find?_some hp.team
  change execSvcComplete r s = _
  simp only [execSvcComplete, State.onDie, hp.clocks, State.svcDone, hp.team, hp.group, hl, hh, hp.here, href]
  rfl

theorem State.campsFor_serviceDone {s : State} {r : GroupRef} {m : Team} (hm : s.team? (teamOf r) = some m) (d : Byte) (v : Word)
    (next : Dword) : (s.serviceDone r d v next).campsFor (teamOf r) := by
  have hteam : ∃ m', ((s.putS r d v).modGroup r (Group.goesOn next)).team? (teamOf r) = some m' := ⟨_, by
    unfold State.putS
    rw [State.team?_modGroup_self, State.team?_modGroup_self, hm]
    rfl⟩
  obtain ⟨m', hteam⟩ := hteam
  exact State.campsFor_afterStep (State.campsFor_irrevocable hteam)

theorem State.launch?_serviceDone (s : State) (r : GroupRef) (d : Byte) (v : Word) (next : Dword) (n : Nat) :
    (s.serviceDone r d v next).launch? n = s.launch? n := State.launch?_afterStep _ r n

/-- The group of a completed service goes on with the result in D and its other registers as they were. -/
theorem State.group?_serviceDone {s : State} {r : GroupRef} {g : Group} {d : Byte} {p : Path} (hg : s.group? r = some g)
    (hrun : runPath g.paths = some p) (hd : clsOf d = .s) (v : Word) (next : Dword) :
    ∃ g', (s.serviceDone r d v next).group? r = some g' ∧ g'.hold = none ∧ (∃ p' ∈ g'.paths, p'.pc = next ∧ p'.mask = p.mask) ∧
      (∀ k : Byte, k ≠ d → g'.reg k = g.reg k) ∧ g'.reg d = (g.reg d).writeWhole { tag := .u, base := v } := by
  obtain ⟨due, halt, hdone⟩ := (((s.putS r d v).modGroup r (Group.goesOn next)).irrevocable (teamOf r)).group?_afterStep r
  unfold State.putS at hdone
  rw [State.group?_irrevocable, State.group?_modGroup_self, State.group?_modGroup_self, hg] at hdone
  have hrun' : runPath (g.setReg d ((g.reg d).writeWhole { tag := .u, base := v })).paths = some p := by
    unfold Group.setReg
    split <;> exact hrun
  exact ⟨_, hdone, rfl, Group.goesOn_path hrun' next, fun k hk => Group.reg_setReg_ne g _ (Ne.symm hk),
    Group.reg_setReg_self g d _ (by rw [hd]; decide)⟩

/-- SVC 2 pre-empts its launch (R226, Table 9.4). -/
theorem service_preempts {s : State} {r : GroupRef} {l : Launch} (hl : s.launch? r.launch = some l) (arg : Dword)
    (hr : l.phase = .running) (hn : l.preempt = none) :
    ((s.service l r 2 arg).1.launch? r.launch).map (·.preempt) = some (some 7) := by
  have h := startPreempt_unmoved hl 7
  have hgo : ¬ (l.preempt.isSome || l.phase != .running) = true := by simp [hr, hn]
  rw [if_neg hgo] at h
  exact congrArg (Option.map Launch.preempt) ((h.launch? _).trans (launch?_preempted hl 7))

/-- A service past the last of Table 9.4 answers all ones. -/
theorem service_unknown (s : State) (l : Launch) (r : GroupRef) {n : Nat} (hn : 3 ≤ n) (arg : Dword) :
    (s.service l r n arg).2 = 0xFFFFFFFF := by
  obtain ⟨k, rfl⟩ := Nat.exists_eq_add_of_le' hn
  rfl

/-- Settles O40: a held instruction completes by the run of its own operation, which a debug step's end does not undo; a
service writes its result before its group goes on. -/
theorem heldInstructions : Obligations.HeldInstructions := by
  intro s r m g hp
  refine ⟨fun kind x => releasePerformed_waits hp, fun hq hc x => ?releases, fun x => ?emulated, ?service⟩
  case releases =>
    have issues : ∀ {kind : ReleaseKind}, g.hold = some (.release kind x) →
        exec (.releasePerformed r) s = thenStep r s (exec (kind.instr x) (s.again r)) := releasePerformed_issues hp hq hc
    exact ⟨releases_of (fun _ => rfl) issues, releases_of (fun _ => rfl) issues, releases_of (fun _ => rfl) issues,
      releases_of (fun _ => rfl) issues, releases_of (fun _ => rfl) issues⟩
  case emulated =>
    refine ⟨flt_emulates ?_, flt_emulates ?_, flt_emulates ?_, flt_emulates ?_, flt_emulates ?_, flt_emulates ?_, flt_emulates ?_,
      flt_emulates ?_, flt_emulates ?_, flt_emulates ?_,
      emulates_of ?_ (fun _ _ => rfl), emulates_of ?_ (fun _ _ => rfl), emulates_of ?_ (fun _ _ => rfl)⟩
    all_goals
      intro len hh
      change execEmulatedOpComplete r s = _
      simp only [execEmulatedOpComplete, hp.team, hp.group, hh, hp.here, hp.clocks]
      rfl
  case service =>
    intro l d n arg next p hl hh hrun hd
    obtain ⟨⟨m', hm⟩, hg⟩ := service_present hp hl n arg
    obtain ⟨g', hg', hhold, hpath, hkept, hreg⟩ := State.group?_serviceDone hg hrun hd (s.service l r n arg).2 next
    have hbase : (g'.reg d).base = (s.service l r n arg).2 := congrArg Reg.base hreg
    refine ⟨_, svcComplete_runs hp hl hh, State.campsFor_serviceDone hm d _ next, g', hg', hhold, hpath, hkept,
      congrArg Reg.tag hreg, ?echo, ?mark, ?preempt, fun hn => hbase.trans (service_unknown s l r hn arg)⟩
    case echo =>
      rintro rfl
      exact hbase
    case mark =>
      rintro rfl hrec
      exact hbase.trans (congrArg (BitVec.ofNat 32) (programMark_seq hrec r arg))
    case preempt =>
      rintro rfl
      refine ⟨hbase, fun hphase hpre => ?_⟩
      rw [State.launch?_serviceDone]
      exact service_preempts hl arg hphase hpre

end Sys2Proof.Machine

/-! Ordering (chapter 06): FENCE, and what a release does before its group's accesses are performed. -/

namespace Sys2Proof.Machine

/-! ## What an instruction reads of a group, and what a step on memory may note in it (02 R55; 10 R245) -/

@[simp] theorem Group.still_regAt (g : Group) (k : Byte) : g.still.regAt k = g.regAt k := by
  unfold Group.still Group.regAt
  cases g.rope <;> rfl

@[simp] theorem Group.still_curKs (g : Group) : g.still.curKs = g.curKs := by
  unfold Group.still Group.curKs
  cases g.rope <;> rfl

@[simp] theorem Group.still_curPaths (g : Group) : g.still.curPaths = g.curPaths := by
  unfold Group.still Group.curPaths
  cases g.rope <;> rfl

theorem Group.still_still (g : Group) : g.still.still = g.still := by
  unfold Group.still
  cases g.rope <;> cases g.stop <;> rfl

/-- What an instruction reads of a group is read of it without the notes as well. -/
theorem map_still {α : Type} (x : Option Group) (get : Group → α) (h : ∀ g, get g.still = get g) :
    (x.map Group.still).map get = x.map get := by
  rw [Option.map_map]
  exact congrArg (x.map ·) (funext h)

/-- What is left of a group apart from the notes, its registers and its paths is the same in whichever order they are left out. -/
theorem Group.rest_still (g : Group) : g.still.rest = g.rest.still := by
  unfold Group.rest Group.still
  cases g.rope <;> rfl

/-- Two states differ only in memory, in scratchpad, in counts of errors, and in what a step on memory notes. -/
structure StillSame (s t : State) : Prop where
  still : t.still = s.still
  engines : t.engines = s.engines
  teams : ∀ u, (t.team? u).map Team.still = (s.team? u).map Team.still
  groups : ∀ r, (t.group? r).map Group.still = (s.group? r).map Group.still

theorem StillSame.read {s t : State} (h : StillSame s t) {α : Type} (get : Group → α) (hg : ∀ g, get g.still = get g)
    (r : GroupRef) : (t.group? r).map get = (s.group? r).map get := by
  rw [← map_still _ get hg, h.groups, map_still _ get hg]

section
variable {s y t : State} {c : Ctx} {o : Op} {e : Chg}

theorem StillSame.seen (h : StillSame s t) (k : Byte) (l : Nat) : t.seen c k l = s.seen c k l :=
  congrArg (·.getD 0) (h.read (fun g => (g.regAt k).at_ (clsOf k) l) (fun g => by simp) c.ref)

theorem StillSame.tagOf (h : StillSame s t) (k : Byte) : t.tagOf c k = s.tagOf c k :=
  congrArg (·.getD .u) (h.read (fun g => (g.regAt k).tag) (fun g => by simp) c.ref)

theorem StillSame.masksOf (h : StillSame s t) : t.masksOf c = s.masksOf c :=
  congrArg (·.getD []) (h.read Group.curKs Group.still_curKs c.ref)

theorem StillSame.pathsOf (h : StillSame s t) : t.pathsOf c = s.pathsOf c :=
  congrArg (·.getD []) (h.read Group.curPaths Group.still_curPaths c.ref)

theorem StillSame.flagsOf (h : StillSame s t) : t.flagsOf c = s.flagsOf c :=
  congrArg (·.getD 0) (h.read Group.flags (fun _ => rfl) c.ref)

theorem StillSame.mailsOf (h : StillSame s t) : t.mailsOf c = s.mailsOf c :=
  congrArg (·.getD ({}, {})) (h.read (fun g => (g.m0, g.m1)) (fun _ => rfl) c.ref)

/-- A context that fits a state fits one that differs only in notes. -/
theorem StillSame.fits (h : StillSame s t) (hf : c.Fits s) : c.Fits t := by
  obtain ⟨g, hg, hr⟩ := hf
  have hrope := h.read (fun g => g.rope.isSome) (fun g => by simp [Group.still]) c.ref
  rw [hg, Option.map_some, hr, Option.map_eq_some_iff] at hrope
  exact hrope

/-- A change of the issuing group from a state that differs only in notes is one from the state itself. -/
theorem StillSame.stepped (h : StillSame s y) (k : Stepped o e c y t) (hg : e.group = id) (ht : e.team = id) :
    Stepped o e c s t where
  dst d hd l hl := by rw [k.dst d hd l hl, show y.seen c d.code = s.seen c d.code from funext (h.seen d.code)]
  tag d hd := by rw [k.tag d hd, h.tagOf]
  regs r hr := ⟨(k.regs r hr).1.trans (h.tagOf r), fun l => ((k.regs r hr).2 l).trans (h.seen r l)⟩
  masks := k.masks.trans h.masksOf
  flags := by rw [k.flags, h.flagsOf]
  mails := k.mails.trans h.mailsOf
  still := k.still.trans h.still
  engines q := by rw [k.engines q, show y.engine q = s.engine q by unfold State.engine; rw [h.engines]]
  teams u := by
    have hk := k.teams u
    simp only [ht, id, ite_self] at hk ⊢
    exact hk.trans (h.teams u)
  others r hr := (k.others r hr).trans (h.groups r)
  own := by
    have hk := k.own
    simp only [hg, id] at hk ⊢
    exact hk.trans (h.read (fun g => g.still.rest) (fun g => by rw [Group.still_still]) c.ref)
  paths p hp := k.paths p (h.pathsOf ▸ hp)
  on := k.on

end

/-- An irrevocable operation pins a rope and makes a camp due (R55, R133). -/
theorem Team.still_pin_due (t : Team) (why : CampReason) : (t.pin.due why).still = t.still := by
  obtain ⟨w, h⟩ := t.pin.due_eq why
  rw [h]
  simp [Team.still, Team.rest, Team.pin, Team.mapGroups, Team.modCur]

theorem Group.still_pinned (g : Group) :
    ({ g with rope := g.rope.map (fun q => { q with pinned := true }) } : Group).still = g.still := by
  unfold Group.still
  cases g.rope <;> rfl

theorem State.group?_irrevocable_ne (s : State) {u : TeamRef} {r : GroupRef} (h : teamOf r ≠ u) :
    (s.irrevocable u).group? r = s.group? r := by
  unfold State.group? State.irrevocable
  rw [State.team?_modTeam _ _ _ _ (fun t => Team.due_ref t.pin .irrevocable)]
  simp [h]

/-- What pinned ropes and a due camp leave of a team is the same in every team after an irrevocable operation. -/
theorem State.map_team?_irrevocable {α : Type} {get : Team → α} (h : ∀ m, get (m.pin.due .irrevocable) = get m) (s : State)
    (u v : TeamRef) : ((s.irrevocable u).team? v).map get = (s.team? v).map get := by
  unfold State.irrevocable
  rw [State.team?_modTeam _ _ _ _ (fun t => Team.due_ref t.pin .irrevocable), Option.map_map]
  refine congrArg (fun f => (s.team? v).map f) (funext fun m => ?_)
  simp only [Function.comp]
  split
  · exact h m
  · rfl

theorem StillSame.irrevocable (s : State) (u : TeamRef) : StillSame s (s.irrevocable u) where
  still := rfl
  engines := rfl
  teams := State.map_team?_irrevocable (fun m => m.still_pin_due .irrevocable) s u
  groups r := by
    by_cases h : teamOf r = u
    · rw [← h, State.group?_irrevocable, Option.map_map]
      exact congrArg (fun f => (s.group? r).map f) (funext Group.still_pinned)
    · rw [State.group?_irrevocable_ne s h]

/-! ## Moving on (R44, R151) -/

section
variable {s y t : State} {c : Ctx} {o : Op}

theorem Team.still_rest (m : Team) : m.rest.still = m.still := by simp [Team.still, Team.rest]

/-- What a change of its group alone leaves of the machine is what a step on memory leaves of it. -/
theorem Same.still (h : Same id c s t) : t.still = s.still :=
  congrArg (fun u : State => { u with mem := [], memPoison := [], engines := [] }) h.rest

theorem Same.engine (h : Same id c s t) (q : Nat) : t.engine q = s.engine q := by
  have he : t.engines = s.engines := (congrArg State.engines h.rest :)
  unfold State.engine
  rw [he]

theorem Same.teams_still (h : Same id c s t) (u : TeamRef) : (t.team? u).map Team.still = (s.team? u).map Team.still := by
  have hu := congrArg (Option.map Team.still) (h.teams u)
  rw [Option.map_map, Option.map_map] at hu
  rwa [show Team.still ∘ Team.rest = Team.still from funext Team.still_rest] at hu

theorem Same.own_still (h : Same id c s t) :
    (t.group? c.ref).map (fun g => g.still.rest) = (s.group? c.ref).map (fun g => g.still.rest) := by
  have ho := congrArg (Option.map Group.still) h.own
  rw [Option.map_map, Option.map_map] at ho
  rw [show (fun g : Group => g.still.rest) = Group.still ∘ Group.rest from funext Group.rest_still]
  exact ho

/-- The path that runs goes on, and nothing else changes. -/
theorem goto_stepped (pc : Dword) (hi : o.issuer s = some c) (hf : c.Fits y) :
    Stepped o { next := pc } c y (c.done (c.goto pc y)) := by
  have hsame : Same id c y (c.done (c.goto pc y)) := (Same.goto pc hf).trans (Same.done c _)
  obtain ⟨-, -, -, -, -, hrun, -⟩ := Op.issuer_some hi
  obtain ⟨-, hmask, hjoin⟩ := runPath_runs hrun
  obtain ⟨g, hg, hr⟩ := hf
  obtain ⟨n, hdone⟩ := c.done_self (c.goto pc y)
  have hself : (c.done (c.goto pc y)).group? c.ref = some (Group.committed n (c.moved pc g)) := by
    rw [hdone, Ctx.goto_self, hg]
    rfl
  have hpaths : ∀ p ∈ replacePath (y.pathsOf c) c.path [{ c.path with pc := pc }], p.join = none →
      p ∈ (c.done (c.goto pc y)).pathsOf c := by
    intro p hp hj
    unfold State.pathsOf at hp ⊢
    rw [hg] at hp
    rw [hself]
    exact Group.committed_paths n (by rw [Ctx.moved_paths pc hr]; exact hp) hj
  exact {
    dst := fun d hd => nomatch hd
    tag := fun d hd => nomatch hd
    regs := fun k _ => ⟨by simp [State.tagOf, hself, hg], fun l => by simp [State.seen, hself, hg]⟩
    masks := by simp [State.masksOf, hself, hg]
    flags := by simp [State.flagsOf, hself, hg]
    mails := by simp [State.mailsOf, hself, hg]
    still := hsame.still
    engines := fun q => by simp [hsame.engine q]
    teams := fun u => by simpa using hsame.teams_still u
    others := fun r hr => congrArg (Option.map Group.still) (hsame.others r hr)
    own := hsame.own_still
    paths := fun p hp hne hj => hpaths p (replacePath_old _ hp hne) hj
    on := ⟨_, hpaths _ (replacePath_new hmask) hjoin, rfl, rfl, hjoin⟩ }

/-! ## Bytes (05 R112) -/

theorem shareOf_of_cores {v : TeamRef} (h : (t.team? v).map (·.cur.cores) = (s.team? v).map (·.cur.cores)) (k : Nat) :
    t.shareOf v k = s.shareOf v k := by
  have hk := congrArg (Option.map (fun cores => cores.getD k {})) h
  rw [Option.map_map, Option.map_map] at hk
  exact congrArg (·.getD {}) hk

/-- No byte changes where memory and the core shares of the teams stay. -/
theorem noStore_of (hm : t.mem = s.mem) (hc : ∀ u, (t.team? u).map (·.cur.cores) = (s.team? u).map (·.cur.cores)) :
    NoStore s t := by
  refine ⟨fun _ i p hp => (nomatch hp), fun p _ hreg => ?_⟩
  unfold State.readLoc
  cases hp : p.space with
  | phys => rw [hm]
  | scratch v k => simp only [shareOf_of_cores (hc v)]
  | tile v k => simp only [shareOf_of_cores (hc v)]
  | slots v k => simp only [shareOf_of_cores (hc v)]
  | reg g => exact absurd hp (hreg g)

theorem NoStore.trans (h : NoStore s y) (k : NoStore y t) : NoStore s t :=
  ⟨fun _ _ _ hp => (nomatch hp), fun p hp hreg => (k.2 p hp hreg).trans (h.2 p hp hreg)⟩

/-- A change of its group alone stores nothing. -/
theorem Same.noStore {f : Group → Group} (h : Same f c s t) : NoStore s t := by
  refine noStore_of (congrArg State.mem h.rest :) (fun u => ?_)
  have hu := congrArg (Option.map (·.cur.cores)) (h.teams u)
  rw [Option.map_map, Option.map_map] at hu
  exact hu

theorem NoStore.irrevocable (s : State) (u : TeamRef) : NoStore s (s.irrevocable u) := by
  refine noStore_of rfl (State.map_team?_irrevocable (fun m => ?_) s u)
  obtain ⟨w, h⟩ := m.pin.due_eq .irrevocable
  rw [h]
  rfl

/-! ## A camp that falls due (R133) -/

/-- A change of its group alone leaves a due camp due. -/
theorem Same.camps {f : Group → Group} (h : Same f c s t) (hc : s.camps c) : t.camps c := by
  obtain ⟨m, hm, hdue⟩ := hc
  have ht := h.teams (teamOf c.ref)
  rw [hm, Option.map_some, Option.map_eq_some_iff] at ht
  obtain ⟨m', hm', hrest⟩ := ht
  exact ⟨m', hm', (congrArg (·.campDue.isSome) hrest :).trans hdue⟩

theorem irrevocable_camps (hf : c.Fits s) : (s.irrevocable (teamOf c.ref)).camps c := by
  obtain ⟨g, hg, -⟩ := hf
  obtain ⟨m, hm, -⟩ := Option.bind_eq_some_iff.1 hg
  exact State.campsFor_irrevocable hm

/-- An irrevocable operation that only goes on changes nothing but that a camp falls due. -/
theorem advance_irrevocable (hi : o.issuer s = some c) :
    let t := c.done (c.advance ((c.start o s).irrevocable (teamOf c.ref)))
    Stepped o { next := c.next } c (c.start o s) t ∧ NoStore s t ∧ t.camps c := by
  have hstart : c.Fits (c.start o s) := (Same.start c o s).fits (fun _ => rfl) (Op.issuer_fits hi)
  have hnotes := StillSame.irrevocable (c.start o s) (teamOf c.ref)
  have hfits := hnotes.fits hstart
  have hsame := (Same.goto c.next hfits).trans (Same.done c _)
  have hbytes := (Same.start c o s).noStore.trans (NoStore.irrevocable _ (teamOf c.ref))
  exact ⟨hnotes.stepped (goto_stepped c.next hi hfits) rfl rfl, hbytes.trans hsame.noStore,
    hsame.camps (irrevocable_camps hstart)⟩

end

/-! ## What holds an instruction (18 R363; 06 R139) -/

section
variable {c : Ctx} {o : Op} {p : Plan}

/-- An instruction that goes through is not held. -/
theorem hold_of_verdict_go {resumed : Bool} (h : c.verdict o resumed p = .go) : p.hold = none := by
  cases hp : p.hold with
  | none => rfl
  | some k =>
    unfold Ctx.verdict at h
    simp only [hp] at h
    repeat' split at h
    all_goals cases h

/-- An instruction whose checks find nothing and that asks for no firmware is held where its plan says so. -/
theorem verdict_of_clear {h : Hold} (hc : Clear o p c) (hd : p.data = none) (he : p.emulated = false) (hh : p.hold = some h) :
    c.verdict o false p = .hold h := by
  simp [Ctx.verdict, hc.word, hc.awaits, hc.issue, hc.mem, hc.poison, hd, he, hh]

end

/-- A held instruction has no effect. -/
theorem runOp_holds {o : Op} {plan : Ctx → State → Plan} {s : State} {c : Ctx} {h : Hold} (hi : o.issuer s = some c)
    (hv : c.verdict o false (plan c (c.start o s)) = .hold h) : runOp o plan s = .next (c.setHold h s) := by
  obtain ⟨d, hd, rfl⟩ := Option.map_eq_some_iff.1 hi
  unfold Ctx.start at hv
  unfold runOp
  rw [hd]
  dsimp only
  rw [hv]

theorem relHold_of_not_quiet {c : Ctx} (hq : c.group.quiet = false) (k : ReleaseKind) (x : XF) :
    c.relHold k x = some (.release k x) := by
  simp [Ctx.relHold, hq]

theorem quiet_of_relHold {c : Ctx} {k : ReleaseKind} {x : XF} (h : c.relHold k x = none) : c.group.quiet = true := by
  unfold Ctx.relHold at h
  split at h
  · assumption
  · cases h

/-- A group that has linked no tile has no operation in flight on a linked one. -/
theorem linkBusy_of_no_links {g : Group} (h : g.links = []) (a : Dword) : g.linkBusy a = false := by
  simp [Group.linkBusy, h]

theorem planRel_hold {x : XF} {c : Ctx} (hq : c.group.quiet = false) (s : State) :
    (planRel x c s).hold = some (.release .rel x) := by
  simp [planRel, relHold_of_not_quiet hq]

theorem planArrive_hold {kind : ReleaseKind} {drop : Bool} {x : XF} {c : Ctx} (hq : c.group.quiet = false)
    (hl : c.group.links = []) (s : State) : (planArrive kind drop x c s).hold = some (.release kind x) := by
  simp [planArrive, relHold_of_not_quiet hq, linkBusy_of_no_links hl]

/-- Settles O28: a FENCE that goes through is not held, and its plan only makes a camp due; before the group's accesses are
performed each plan's hold is the release. -/
theorem fencesAndReleases : Obligations.FencesAndReleases := by
  intro x
  refine ⟨fun s c h => ?goes, fun s c hq => ⟨fun hi hc => ?fence, fun hi hc => ?rel, fun hi hc hl => ?barrive,
    fun hi hc hl => ?bardrop⟩⟩
  case goes => exact ⟨_, runX_runs h, quiet_of_relHold (hold_of_verdict_go h.clear), advance_irrevocable h.issuer⟩
  case fence => exact runOp_holds hi (verdict_of_clear hc rfl rfl (relHold_of_not_quiet hq .fence x))
  case rel => exact runOp_holds hi (verdict_of_clear hc rfl rfl (planRel_hold hq _))
  case barrive => exact runOp_holds hi (verdict_of_clear hc rfl rfl (planArrive_hold hq hl _))
  case bardrop => exact runOp_holds hi (verdict_of_clear hc rfl rfl (planArrive_hold hq hl _))

end Sys2Proof.Machine

/-! Integer functions, conversions and functions across lanes (chapter 08). -/

namespace Sys2Proof.Machine

/-! ## The INT family (08 R181 to R183) -/

/-- A function of the INT family gives the results of its operation. -/
theorem int_gives {i : Instr} {x : XF} {func : Nat} {k : Affine} {op : LaneOp}
    (hx : ∀ s, exec i s = runOp (opX 0x01 func x) (intPlan func k op x) s) :
    Gives i (opX 0x01 func x) (intPlan func k op x) (affOf x k) false (fun _ => op) :=
  gives_of hx (fun _ _ => rfl)

/-- A function that type 101 applies to pairs gives, with every other type, the results of its operation on words. -/
theorem int_gives_narrow {i : Instr} {x : XF} {func : Nat} {k : Affine} {op : LaneOp} {wide : Ctx → State → Plan}
    (ht : x.type ≠ 5) (hx : ∀ s, exec i s = runOp (opX 0x01 func x) (if x.type == 5 then wide else intPlan func k op x) s) :
    Gives i (opX 0x01 func x) (if x.type == 5 then wide else intPlan func k op x) (affOf x k) false (fun _ => op) := by
  rw [if_neg (by simpa using ht)] at hx ⊢
  exact int_gives hx

/-- Settles O1: every function runs the plan of the INT family on its function of elements, IADD and ISUB outside type 101. -/
theorem integerFunctions : Obligations.IntegerFunctions := by
  intro x
  exact ⟨fun ht => int_gives_narrow ht (fun _ => rfl), fun ht => int_gives_narrow ht (fun _ => rfl),
    int_gives (fun _ => rfl), int_gives (fun _ => rfl), int_gives (fun _ => rfl), int_gives (fun _ => rfl),
    int_gives (fun _ => rfl), int_gives (fun _ => rfl), int_gives (fun _ => rfl), int_gives (fun _ => rfl),
    int_gives (fun _ => rfl), int_gives (fun _ => rfl), int_gives (fun _ => rfl), int_gives (fun _ => rfl),
    int_gives (fun _ => rfl), int_gives (fun _ => rfl)⟩

/-- A rotation to the left by what is missing to 32 is one to the right. -/
theorem rotl_complement (a : Word) (n : Nat) : rotl a ((32 - n % 32) % 32) = a.rotateRight (n % 32) := by
  have hk : n % 32 < 32 := Nat.mod_lt n (by decide)
  generalize n % 32 = k at hk ⊢
  rw [rotl, BitVec.rotateLeft_mod_eq_rotateLeft, BitVec.rotateLeft_mod_eq_rotateLeft, BitVec.rotateLeft_def, BitVec.rotateRight_def]
  rcases Nat.eq_zero_or_pos k with rfl | h
  · simp [BitVec.ushiftRight_eq_zero]
  · rw [Nat.mod_eq_of_lt (by omega : 32 - k < 32), Nat.mod_eq_of_lt hk, Nat.sub_sub_self (Nat.le_of_lt hk), BitVec.or_comm]

theorem opRotr_eq : opRotr = fun a b _ _ _ => (a.rotateRight (b.toNat % 32), 0) := by
  funext a b _ _ _
  exact congrArg (·, 0) (rotl_complement a b.toNat)

/-- Settles O2: every function runs the plan of the INT family on its function of words, LEA, MOV and LDI outside type 101; the
model's ROTR is a rotation to the left. -/
theorem wordFunctions : Obligations.WordFunctions := by
  intro x
  refine ⟨int_gives (fun _ => rfl), int_gives (fun _ => rfl), int_gives (fun _ => rfl), int_gives (fun _ => rfl),
    int_gives (fun _ => rfl), int_gives (fun _ => rfl), ?rotr, int_gives (fun _ => rfl), int_gives (fun _ => rfl),
    int_gives (fun _ => rfl), int_gives (fun _ => rfl), int_gives (fun _ => rfl), int_gives (fun _ => rfl),
    int_gives (fun _ => rfl), fun ht => int_gives_narrow ht (fun _ => rfl), fun ht => int_gives_narrow ht (fun _ => rfl),
    fun ht => gives_of (fun _ => rfl) (fun c s => congrArg Plan.effect ?ldi)⟩
  case rotr => exact opRotr_eq ▸ int_gives (fun _ => rfl)
  case ldi => exact if_neg (by simpa using ht)

/-! ## Conversions and dot products (08 R187 to R193) -/

/-- Settles O6: every function runs `computePlan` on its operation, CVT.UNIT on one of a whole word; the checks that the narrow
formats add leave the effect as it is. -/
theorem conversionAndDotFunctions : Obligations.ConversionAndDotFunctions := by
  intro x m sr
  refine ⟨fun h => gives_of (fun _ => rfl) (fun c s => congrArg Plan.effect ?elements),
    fun h => gives_of (fun _ => rfl) (fun c s => congrArg Plan.effect ?unit),
    gives_of (fun _ => rfl) (fun _ _ => rfl), gives_of (fun _ => rfl) (fun _ _ => rfl), gives_of (fun _ => rfl) (fun _ _ => rfl),
    gives_of (fun _ => rfl) (fun _ _ => rfl), gives_of (fun _ => rfl) (fun _ _ => rfl), gives_of (fun _ => rfl) (fun _ _ => rfl),
    gives_of (fun _ => rfl) (fun _ _ => rfl), gives_of (fun _ => rfl) (fun _ _ => rfl)⟩
  case elements => exact if_neg (by simpa using h)
  case unit => exact if_pos (by simpa using h)

/-! ## Functions across lanes (08 R194 to R197) -/

/-- Settles O7: every function that writes a word runs `crossPlan` on its function of the executing lanes; a ballot writes its
mask to a pair. -/
theorem crossLaneFunctions : Obligations.CrossLaneFunctions := by
  intro x gives
  have cross : ∀ {i : Instr} {func : Nat} {plan : Ctx → State → Plan}
      {f : Ctx → List Nat → (Nat → Word) → Nat → Word × Flags}, (∀ s, exec i s = runOp (opX 0x05 func x) plan s) →
      (∀ c s, plan c s = crossPlan func (f c) x c s) → gives i func plan f :=
    fun hx hp => wrote_of hx (fun _ => rfl) (fun _ => rfl) (fun _ => List.pairwise_singleton _ _) (fun c s _ => by rw [hp]; rfl)
  -- From here on `gives` is only a name, so that a function is read off a statement and not out of the effect it makes.
  clear_value gives
  refine ⟨cross (fun _ => rfl) (fun _ _ => rfl), cross (fun _ => rfl) (fun _ _ => rfl), cross (fun _ => rfl) (fun _ _ => rfl),
    fun h => cross (fun _ => rfl) (fun c s => ?vote), cross (fun _ => rfl) (fun _ _ => rfl),
    fun h => wrote_of (fun _ => rfl) (fun _ => rfl) (fun _ => rfl) (fun _ => pairDests_nodup _ _ _ _) (fun c s _ => ?ballot)⟩
  case vote => exact if_neg (by simpa using h)
  case ballot =>
    have hb : (bits x.f.toNat 0 2 == 2) = true := by simpa using h
    simp only [planVote, if_pos hb, Ctx.writePair_eq, State.addFlags_zero]
    rfl

end Sys2Proof.Machine
